-- ==== Sys2Proof/Word.lean ====
section
/-! DEFINITION. The word types of the part and their plainest arithmetic. -/

namespace Sys2Proof

/-- A 64-bit word: a general or float register, a CSR, a management register (R22, R25). -/
abbrev Word := BitVec 64

/-- A byte of memory. -/
abbrev Byte := BitVec 8

/-- An 80-bit address register (R22). Address arithmetic wraps modulo 2^80 (R24). -/
abbrev Addr := BitVec 80

/-- A 32-bit control word, operation word or lane value. -/
abbrev Code := BitVec 32

/-- A line of 128 bytes, byte `i` in bits `[8i+7:8i]` (R7). -/
abbrev LineData := BitVec 1024

end Sys2Proof
end

