-- ==== Sys2Proof/Syntax.lean ====
section
/-! DEFINITION. The abstract syntax of the part: one constructor per row of spec/opcode_table.json.

Three kinds of row. Control words are issued by stoker contexts (R56 to R60, R110 to R115). Element words and
memory nodes stand in a tile's op store (R61 to R66, R118). The remaining rows are steps that no word encodes
(95_what_each_step_holds.md): they are named with the unit that takes the step, so that the same `exec` gives
them their meaning. A field of a control or element word keeps the table's letter. -/

namespace Sys2Proof

/-- One step of the part. -/
inductive Instr where
  -- control words (05, 06, 07)
  /-- R110. Major opcode 0x00 always traps with cause 0x01. -/
  | illegal (x : BitVec 26)
  /-- R125. g[d] := (g[a] + g[b]) mod 2^64. -/
  | add (d a b : BitVec 5)
  /-- R125. g[d] := (g[a] - g[b]) mod 2^64. -/
  | sub (d a b : BitVec 5)
  /-- R125. Bitwise AND of g[a] and g[b]. -/
  | and (d a b : BitVec 5)
  /-- R125. Bitwise OR of g[a] and g[b]. -/
  | or (d a b : BitVec 5)
  /-- R125. Bitwise XOR of g[a] and g[b]. -/
  | xor (d a b : BitVec 5)
  /-- R125. g[a] AND NOT g[b]. -/
  | andn (d a b : BitVec 5)
  /-- R125. Shift g[a] left by g[b] mod 64. -/
  | shl (d a b : BitVec 5)
  /-- R125. Logical shift right of g[a] by g[b] mod 64. -/
  | shr (d a b : BitVec 5)
  /-- R125. Arithmetic shift right of g[a] by g[b] mod 64. -/
  | sra (d a b : BitVec 5)
  /-- R125. Rotate g[a] left by g[b] mod 64. -/
  | rol (d a b : BitVec 5)
  /-- R125. Rotate g[a] right by g[b] mod 64. -/
  | ror (d a b : BitVec 5)
  /-- R125. 1 if g[a] < g[b] signed, else 0. -/
  | slt (d a b : BitVec 5)
  /-- R125. 1 if g[a] < g[b] unsigned, else 0. -/
  | sltu (d a b : BitVec 5)
  /-- R125. Signed minimum of g[a] and g[b]. -/
  | min (d a b : BitVec 5)
  /-- R125. Signed maximum of g[a] and g[b]. -/
  | max (d a b : BitVec 5)
  /-- R125. Unsigned minimum of g[a] and g[b]. -/
  | minu (d a b : BitVec 5)
  /-- R125. Unsigned maximum of g[a] and g[b]. -/
  | maxu (d a b : BitVec 5)
  /-- R125. Low 64 bits of g[a] times g[b]. -/
  | mul (d a b : BitVec 5)
  /-- R125. High 64 bits of the signed 128-bit product. -/
  | mulh (d a b : BitVec 5)
  /-- R125. High 64 bits of the unsigned 128-bit product. -/
  | mulhu (d a b : BitVec 5)
  /-- R126. Signed quotient truncated toward zero, never trapping. -/
  | div (d a b : BitVec 5)
  /-- R126. Unsigned quotient, all ones on divide by zero. -/
  | divu (d a b : BitVec 5)
  /-- R126. Signed remainder with the sign of g[a]. -/
  | rem (d a b : BitVec 5)
  /-- R126. Unsigned remainder. -/
  | remu (d a b : BitVec 5)
  /-- R125. Count of leading zero bits of g[a]. -/
  | clz (d a : BitVec 5)
  /-- R125. Count of trailing zero bits of g[a]. -/
  | ctz (d a : BitVec 5)
  /-- R125. Count of one bits of g[a]. -/
  | popc (d a : BitVec 5)
  /-- R125. Bit reversal of g[a]. -/
  | brev (d a : BitVec 5)
  /-- R125. Byte reversal of g[a]. -/
  | bswap (d a : BitVec 5)
  /-- R125. g[a] if g[c] is non-zero, else g[b]. -/
  | sel (d a b c : BitVec 5)
  /-- R125. Sign-extended low 32 bits of the sum. -/
  | addw (d a b : BitVec 5)
  /-- R125. Sign-extended low 32 bits of the difference. -/
  | subw (d a b : BitVec 5)
  /-- R125. Signed sum clamped to the 64-bit range. -/
  | satadd (d a b : BitVec 5)
  /-- R125. Signed difference clamped to the 64-bit range. -/
  | satsub (d a b : BitVec 5)
  /-- R125. (g[a] × g[b] + g[c]) mod 2^64. -/
  | muladd (d a b c : BitVec 5)
  /-- R127. g[d] := g[a] + sext(imm16). -/
  | addi (d a : BitVec 5) (i : BitVec 16)
  /-- R127. g[d] := g[a] AND zext(imm16). -/
  | andi (d a : BitVec 5) (i : BitVec 16)
  /-- R127. g[d] := g[a] OR zext(imm16). -/
  | ori (d a : BitVec 5) (i : BitVec 16)
  /-- R127. g[d] := g[a] XOR zext(imm16). -/
  | xori (d a : BitVec 5) (i : BitVec 16)
  /-- R127. 1 if g[a] < sext(imm16) signed. -/
  | slti (d a : BitVec 5) (i : BitVec 16)
  /-- R127. 1 if g[a] < zext(imm16) unsigned. -/
  | sltiu (d a : BitVec 5) (i : BitVec 16)
  /-- R128. Shift g[a] left by an immediate amount. -/
  | shli (d a : BitVec 5) (n : BitVec 6)
  /-- R128. Logical shift right by an immediate amount. -/
  | shri (d a : BitVec 5) (n : BitVec 6)
  /-- R128. Arithmetic shift right by an immediate amount. -/
  | srai (d a : BitVec 5) (n : BitVec 6)
  /-- R129. g[d] := sext(imm16) << 16. -/
  | lui (d : BitVec 5) (i : BitVec 16)
  /-- R130. Inserts imm16 into halfword pos of g[d]. -/
  | insh (d : BitVec 5) (p : BitVec 2) (i : BitVec 16)
  /-- R131. g[d] := pc + sext(imm16). -/
  | addpc (d : BitVec 5) (i : BitVec 16)
  /-- R132. Branches when g[a] = g[b]. -/
  | beq (a b : BitVec 5) (i : BitVec 16)
  /-- R132. Branches when g[a] differs from g[b]. -/
  | bne (a b : BitVec 5) (i : BitVec 16)
  /-- R132. Branches when g[a] < g[b] signed. -/
  | blt (a b : BitVec 5) (i : BitVec 16)
  /-- R132. Branches when g[a] >= g[b] signed. -/
  | bge (a b : BitVec 5) (i : BitVec 16)
  /-- R132. Branches when g[a] < g[b] unsigned. -/
  | bltu (a b : BitVec 5) (i : BitVec 16)
  /-- R132. Branches when g[a] >= g[b] unsigned. -/
  | bgeu (a b : BitVec 5) (i : BitVec 16)
  /-- R133. Links pc + 4 into g[d] and jumps by a 21-bit word offset. -/
  | jal (d : BitVec 5) (i : BitVec 21)
  /-- R134. Jumps to g[a] + imm, trapping 0x03 on a misaligned target. -/
  | jalr (d a : BitVec 5) (i : BitVec 16)
  /-- R138. Loads a sign-extended byte. -/
  | ldb (d : BitVec 5) (r : BitVec 3) (i : BitVec 18)
  /-- R138. Loads a zero-extended byte. -/
  | ldbu (d : BitVec 5) (r : BitVec 3) (i : BitVec 18)
  /-- R138. Loads a sign-extended halfword. -/
  | ldh (d : BitVec 5) (r : BitVec 3) (i : BitVec 18)
  /-- R138. Loads a zero-extended halfword. -/
  | ldhu (d : BitVec 5) (r : BitVec 3) (i : BitVec 18)
  /-- R138. Loads a sign-extended word. -/
  | ldw (d : BitVec 5) (r : BitVec 3) (i : BitVec 18)
  /-- R138. Loads a zero-extended word. -/
  | ldwu (d : BitVec 5) (r : BitVec 3) (i : BitVec 18)
  /-- R138. Loads a doubleword. -/
  | ldd (d : BitVec 5) (r : BitVec 3) (i : BitVec 18)
  /-- R138. Stores the low byte of g[d]. -/
  | stb (d : BitVec 5) (r : BitVec 3) (i : BitVec 18)
  /-- R138. Stores the low halfword of g[d]. -/
  | sth (d : BitVec 5) (r : BitVec 3) (i : BitVec 18)
  /-- R138. Stores the low word of g[d]. -/
  | stw (d : BitVec 5) (r : BitVec 3) (i : BitVec 18)
  /-- R138. Stores the doubleword g[d]. -/
  | std (d : BitVec 5) (r : BitVec 3) (i : BitVec 18)
  /-- R139. Loads 4 bytes into f[d][31:0] with upper bits set to ones. -/
  | fldw (d : BitVec 5) (r : BitVec 3) (i : BitVec 18)
  /-- R139. Loads 8 bytes into f[d]. -/
  | fldd (d : BitVec 5) (r : BitVec 3) (i : BitVec 18)
  /-- R139. Stores f[d][31:0]. -/
  | fstw (d : BitVec 5) (r : BitVec 3) (i : BitVec 18)
  /-- R139. Stores all 64 bits of f[d]. -/
  | fstd (d : BitVec 5) (r : BitVec 3) (i : BitVec 18)
  /-- R135. Copies address register a[a] to a[d]. -/
  | amov (d a : BitVec 3)
  /-- R135. a[d] := a[a] + sext(g[b]) mod 2^80. -/
  | aadd (d a : BitVec 3) (b : BitVec 5)
  /-- R135. Builds a[d] from g[a] and g[b][15:0]. -/
  | aset (d : BitVec 3) (a b : BitVec 5)
  /-- R135. g[d] := a[a][63:0]. -/
  | agetl (d : BitVec 5) (a : BitVec 3)
  /-- R135. g[d] := zext(a[a][79:64]). -/
  | ageth (d : BitVec 5) (a : BitVec 3)
  /-- R135. Compares two address registers unsigned, writing -1, 0 or +1. -/
  | acmp (d : BitVec 5) (a b : BitVec 3)
  /-- R136. a[d] := a[a] + sext(imm16) mod 2^80. -/
  | aaddi (d a : BitVec 3) (i : BitVec 16)
  /-- R145. Float sum rounded once in the fcr mode. -/
  | fadd (d a b : BitVec 5) (t : BitVec 1)
  /-- R145. Float difference. -/
  | fsub (d a b : BitVec 5) (t : BitVec 1)
  /-- R145. Float product. -/
  | fmul (d a b : BitVec 5) (t : BitVec 1)
  /-- R145. Float quotient. -/
  | fdiv (d a b : BitVec 5) (t : BitVec 1)
  /-- R145. Float square root with the mode from b or fcr. -/
  | fsqrt (d a m : BitVec 5) (t : BitVec 1)
  /-- R146. Float minimum with NaN-avoiding rules. -/
  | fmin (d a b : BitVec 5) (t : BitVec 1)
  /-- R146. Float maximum with NaN-avoiding rules. -/
  | fmax (d a b : BitVec 5) (t : BitVec 1)
  /-- R145. f[a] × f[b] + f[d], rounded once. -/
  | ffma (d a b : BitVec 5) (t : BitVec 1)
  /-- R145. f[a] × f[b] - f[d], rounded once. -/
  | ffms (d a b : BitVec 5) (t : BitVec 1)
  /-- R147. Inverts the sign of f[a]. -/
  | fneg (d a : BitVec 5) (t : BitVec 1)
  /-- R147. Clears the sign of f[a]. -/
  | fabs (d a : BitVec 5) (t : BitVec 1)
  /-- R147. f[a] with the sign of f[b]. -/
  | fcpys (d a b : BitVec 5) (t : BitVec 1)
  /-- R148. Writes 1 to g[d] when f[a] equals f[b]. -/
  | feq (d a b : BitVec 5) (t : BitVec 1)
  /-- R148. Writes 1 to g[d] when f[a] < f[b], raising nv on NaN. -/
  | flt (d a b : BitVec 5) (t : BitVec 1)
  /-- R148. Writes 1 to g[d] when f[a] <= f[b], raising nv on NaN. -/
  | fle (d a b : BitVec 5) (t : BitVec 1)
  /-- R149. Converts between F32, F64 and BF16. -/
  | fcvt (d a m : BitVec 5) (x y : BitVec 2)
  /-- R149. Converts a float to I32 or I64, clamping. -/
  | fcvti (d a m : BitVec 5) (x : BitVec 1) (y : BitVec 2)
  /-- R149. Converts I32 or I64 to a float format. -/
  | icvtf (d a m : BitVec 5) (x : BitVec 2) (y : BitVec 1)
  /-- R150. Moves 64 bits from f[a] to g[d]. -/
  | fmvg (d a : BitVec 5)
  /-- R150. Moves 64 bits from g[a] to f[d]. -/
  | gmvf (d a : BitVec 5)
  /-- R155. Traps with cause 0x18 and tval := code. -/
  | trap (n : BitVec 10)
  /-- R157. Reads a CSR into g[d]. -/
  | csrr (d : BitVec 5) (c : BitVec 12)
  /-- R157. Writes g into a CSR. -/
  | csrw (s : BitVec 5) (c : BitVec 12)
  /-- R157. Sets CSR bits from g. -/
  | csrs (s : BitVec 5) (c : BitVec 12)
  /-- R157. Clears CSR bits from g. -/
  | csrc (s : BitVec 5) (c : BitVec 12)
  /-- R172. Starts a configuration load from a lease image and returns a ticket. -/
  | cfgLoad (d : BitVec 5) (a : BitVec 3) (b : BitVec 5)
  /-- R174. Waits for a configuration load to complete or reports its refusal. -/
  | cfgWait (d a : BitVec 5)
  /-- R176. Writes one operation word into a tile's op store. -/
  | opw (a b : BitVec 5)
  /-- R177. Writes one switch word of a tile. -/
  | sww (a b : BitVec 5)
  /-- R179. Binds a stream port to a descriptor and starts its engine. -/
  | portBind (d : BitVec 5) (a : BitVec 3) (b : BitVec 5)
  /-- R180. Stops a port's engine at an element boundary and returns committed. -/
  | portUnbind (d a : BitVec 5)
  /-- R181. Puts one token into a tile's input queue. -/
  | inj (d a b : BitVec 5)
  /-- R182. Pops the head token of a tile's output queue. -/
  | ext (d a : BitVec 5)
  /-- R183. Starts drain pre-emption of a lease. -/
  | leaseDrain (d a : BitVec 5)
  /-- R183. Starts freeze pre-emption of a lease. -/
  | leaseFreeze (d a : BitVec 5)
  /-- R183. Resumes a saved lease or ends HALTED in a running lease. -/
  | leaseResume (d a b : BitVec 5)
  /-- R183. Starts relocation of a running lease to a destination. -/
  | leaseMove (d a b : BitVec 5)
  /-- R186. Lists partially-fed joins of the lease into memory. -/
  | sweep (d : BitVec 5) (a : BitVec 3) (b : BitVec 5)
  /-- R190. Defines a draught ring from a descriptor. -/
  | ringDef (d : BitVec 5) (a : BitVec 3) (b : BitVec 5)
  /-- R192. Places a ring tile image into a stop's slot. -/
  | ringInj (d : BitVec 5) (a : BitVec 3) (b : BitVec 5)
  /-- R191. Writes one match-table entry at a stop. -/
  | mtWrite (d a b : BitVec 5)
  /-- R191. Invalidates the match entries of a stop or all stops. -/
  | mtClear (d a : BitVec 5)
  /-- R193. Starts or continues a ring's beats. -/
  | ringGo (d a : BitVec 5)
  /-- R197. Returns a ring's state word. -/
  | ringStat (d a : BitVec 5)
  /-- R198. Stops or ends a ring by mode. -/
  | ringStop (d a b : BitVec 5)
  /-- R200. Sends one route-class packet from a source tile. -/
  | rcSend (d a : BitVec 5) (b : BitVec 3)
  /-- R201. Masks a route class at tiles. -/
  | rcMask (a : BitVec 5)
  /-- R201. Unmasks a route class, releasing waiting packets. -/
  | rcUnmask (a : BitVec 5)
  /-- R202. Binds or unbinds a route class to a handler actor. -/
  | rcRoute (a b : BitVec 5)
  /-- R205. Pops the record at evhead. -/
  | evPop (d : BitVec 5)
  /-- R205. Reads the record at evhead without popping. -/
  | evPeek (d : BitVec 5)
  /-- R206. Posts a kind-0x0C record to another context of the lease. -/
  | evPost (d a b : BitVec 5)
  /-- R216. Arrives at the next boundary of the scope group. -/
  | phase (s : BitVec 3)
  /-- R217. Performs a release and/or acquire at a scope. -/
  | fence (s : BitVec 3) (q r : BitVec 1)
  /-- R218. Prefetches a range into a slice. -/
  | pref (a : BitVec 3) (b : BitVec 5) (s : BitVec 3)
  /-- R219. Declares a range dead in slices. -/
  | discard (a : BitVec 3) (b : BitVec 5) (s : BitVec 3)
  /-- R215. Reads max(tstamp, tsfloor). -/
  | tsread (d : BitVec 5)
  /-- R221. Memory-side atomic add, returning the old value. -/
  | atAdd (d : BitVec 5) (a : BitVec 3) (b : BitVec 5) (s : BitVec 3) (q r w : BitVec 1)
  /-- R221. Memory-side FP32 atomic add. -/
  | atFadd (d : BitVec 5) (a : BitVec 3) (b : BitVec 5) (s : BitVec 3) (q r : BitVec 1)
  /-- R221. Memory-side atomic AND. -/
  | atAnd (d : BitVec 5) (a : BitVec 3) (b : BitVec 5) (s : BitVec 3) (q r w : BitVec 1)
  /-- R221. Memory-side atomic OR. -/
  | atOr (d : BitVec 5) (a : BitVec 3) (b : BitVec 5) (s : BitVec 3) (q r w : BitVec 1)
  /-- R221. Memory-side atomic XOR. -/
  | atXor (d : BitVec 5) (a : BitVec 3) (b : BitVec 5) (s : BitVec 3) (q r w : BitVec 1)
  /-- R221. Memory-side atomic signed minimum. -/
  | atMin (d : BitVec 5) (a : BitVec 3) (b : BitVec 5) (s : BitVec 3) (q r w : BitVec 1)
  /-- R221. Memory-side atomic signed maximum. -/
  | atMax (d : BitVec 5) (a : BitVec 3) (b : BitVec 5) (s : BitVec 3) (q r w : BitVec 1)
  /-- R221. Memory-side atomic unsigned minimum. -/
  | atMinn (d : BitVec 5) (a : BitVec 3) (b : BitVec 5) (s : BitVec 3) (q r w : BitVec 1)
  /-- R221. Memory-side atomic unsigned maximum. -/
  | atMaxn (d : BitVec 5) (a : BitVec 3) (b : BitVec 5) (s : BitVec 3) (q r w : BitVec 1)
  /-- R221. Memory-side atomic swap. -/
  | atSwap (d : BitVec 5) (a : BitVec 3) (b : BitVec 5) (s : BitVec 3) (q r w : BitVec 1)
  /-- R221. Memory-side compare and swap. -/
  | atCas (d : BitVec 5) (a : BitVec 3) (b : BitVec 5) (s : BitVec 3) (q r w : BitVec 1)
  /-- R221. Memory-side wrapping increment bounded by the operand. -/
  | atInc (d : BitVec 5) (a : BitVec 3) (b : BitVec 5) (s : BitVec 3) (q r w : BitVec 1)
  /-- R224. Initialises a barrier object with an expected count. -/
  | barInit (a : BitVec 3) (b : BitVec 5) (s : BitVec 3)
  /-- R224. Arrives at a barrier, adding pending bytes. -/
  | barArrive (d : BitVec 5) (a : BitVec 3) (b : BitVec 5) (r : BitVec 1)
  /-- R224. Arrives and lowers the barrier's expected count. -/
  | barDrop (d : BitVec 5) (a : BitVec 3) (b : BitVec 5) (r : BitVec 1)
  /-- R224. Adds pending bytes to a barrier. -/
  | barExpect (a : BitVec 3) (b : BitVec 5)
  /-- R227. Waits until the barrier parity differs from p. -/
  | barWait (a : BitVec 3) (b : BitVec 5) (q : BitVec 1)
  /-- R227. Tests the barrier parity without waiting. -/
  | barTest (d : BitVec 5) (a : BitVec 3) (b : BitVec 5) (q : BitVec 1)
  /-- R229. Opens the next proof level over a range. -/
  | snapOpen (d : BitVec 5) (a : BitVec 3) (b : BitVec 5) (s : BitVec 3)
  /-- R229. Adds a range to the innermost proof level. -/
  | snapAdd (d : BitVec 5) (a : BitVec 3) (b : BitVec 5)
  /-- R231. Folds the innermost proof level into the one beneath. -/
  | snapKeep (d a : BitVec 5)
  /-- R232. Closes the innermost proof level and restores its shadows. -/
  | snapDrop (d a : BitVec 5)
  /-- R234. Returns free pool lines, depth and range count. -/
  | snapQuery (d a : BitVec 5)
  /-- R236. Looks up a VA in a tile's tag table. -/
  | tagLook (d a : BitVec 5) (b : BitVec 3)
  /-- R236. Writes a valid tag into a tag-table entry. -/
  | tagFill (d a : BitVec 5) (b : BitVec 3)
  /-- R236. Invalidates an entry, returning its old d and v. -/
  | tagEvict (d a : BitVec 5)
  /-- R236. Clears every tag-table entry. -/
  | tagClear (a : BitVec 5)
  /-- R240. Starts a linear byte copy. -/
  | cpyLin (d : BitVec 5) (a : BitVec 3) (b : BitVec 5) (s : BitVec 3) (q r : BitVec 1)
  /-- R240. Starts a two-dimensional strided copy. -/
  | cpyTwo (d : BitVec 5) (a : BitVec 3) (b : BitVec 5) (s : BitVec 3) (q r : BitVec 1)
  /-- R240. Starts an indexed gather copy. -/
  | cpyGather (d : BitVec 5) (a : BitVec 3) (b : BitVec 5) (s : BitVec 3) (q r : BitVec 1)
  /-- R240. Starts an indexed scatter copy. -/
  | cpyScatter (d : BitVec 5) (a : BitVec 3) (b : BitVec 5) (s : BitVec 3) (q r : BitVec 1)
  /-- R240. Starts a pattern fill. -/
  | cpyFill (d : BitVec 5) (a : BitVec 3) (b : BitVec 5) (s : BitVec 3) (q r : BitVec 1)
  /-- R244. Waits for one or all copies of the context. -/
  | cpyWait (d a : BitVec 5)
  /-- R244. Returns a copy's state word. -/
  | cpyStat (d a : BitVec 5)
  /-- R247. Resets a circular buffer's pointers. -/
  | cbInit (d : BitVec 5) (a : BitVec 3)
  /-- R247. Advances the producer pointer, optionally releasing. -/
  | cbPush (d : BitVec 5) (a : BitVec 3) (b : BitVec 5) (s : BitVec 3) (r : BitVec 1)
  /-- R247. Advances the consumer pointer, optionally acquiring. -/
  | cbPop (d : BitVec 5) (a : BitVec 3) (b : BitVec 5) (s : BitVec 3) (q : BitVec 1)
  /-- R247. Returns the entry count. -/
  | cbAvail (d : BitVec 5) (a : BitVec 3)
  /-- R247. Returns the free room. -/
  | cbRoom (d : BitVec 5) (a : BitVec 3)
  /-- R207. Sends a control token to a press tile's control queue. -/
  | prsIssue (d a b : BitVec 5) (s : BitVec 3) (q r : BitVec 1)
  /-- R208. Reads one accumulator element after earlier tokens. -/
  | prsRead (d a b : BitVec 5)
  /-- R209. Evaluates 2^x on the column's flue. -/
  | flueExp2 (d a : BitVec 5)
  /-- R209. Evaluates log2 x on the flue. -/
  | flueLog2 (d a : BitVec 5)
  /-- R209. Evaluates 1/x on the flue. -/
  | flueRcp (d a : BitVec 5)
  /-- R209. Evaluates 1/sqrt x on the flue. -/
  | flueRsqrt (d a : BitVec 5)
  /-- R209. Evaluates sqrt x on the flue. -/
  | flueSqrt (d a : BitVec 5)
  /-- R209. Evaluates sin(pi x) on the flue. -/
  | flueSinpi (d a : BitVec 5)
  /-- R209. Evaluates cos(pi x) on the flue. -/
  | flueCospi (d a : BitVec 5)
  /-- R209. Evaluates tanh x on the flue. -/
  | flueTanh (d a : BitVec 5)
  /-- R209. Evaluates the logistic sigmoid on the flue. -/
  | flueSigm (d a : BitVec 5)
  /-- R163. Repeats the next instruction with stepped register fields. -/
  | rep (c : BitVec 6) (d a b : BitVec 1) (e f g : BitVec 2)
  -- element words (08)
  /-- R118. Passes the chain through unchanged. -/
  | elemNop (e : BitVec 1)
  /-- R259. Lane integer add with wrap or saturation. -/
  | elemAdd (a b d : BitVec 3) (t : BitVec 4) (s e : BitVec 1) (p : BitVec 8)
  /-- R259. Lane integer subtract. -/
  | elemSub (a b d : BitVec 3) (t : BitVec 4) (s e : BitVec 1) (p : BitVec 8)
  /-- R259. Lane integer multiply. -/
  | elemMul (a b d : BitVec 3) (t : BitVec 4) (s e : BitVec 1) (p : BitVec 8)
  /-- R259. Upper half of the lane product. -/
  | elemMulh (a b d : BitVec 3) (t : BitVec 4) (e : BitVec 1) (p : BitVec 8)
  /-- R259. a × b + chain, exact then wrapped or clamped. -/
  | elemMac (a b d : BitVec 3) (t : BitVec 4) (s e : BitVec 1) (p : BitVec 8)
  /-- R259. Lane minimum. -/
  | elemMin (a b d : BitVec 3) (t : BitVec 4) (e : BitVec 1) (p : BitVec 8)
  /-- R259. Lane maximum. -/
  | elemMax (a b d : BitVec 3) (t : BitVec 4) (e : BitVec 1) (p : BitVec 8)
  /-- R259. Lane absolute value. -/
  | elemAbs (a d : BitVec 3) (t : BitVec 4) (s e : BitVec 1) (p : BitVec 8)
  /-- R259. Lane negation. -/
  | elemNeg (a d : BitVec 3) (t : BitVec 4) (s e : BitVec 1) (p : BitVec 8)
  /-- R259. Lane bitwise AND. -/
  | elemAnd (a b d : BitVec 3) (t : BitVec 4) (e : BitVec 1) (p : BitVec 8)
  /-- R259. Lane bitwise OR. -/
  | elemOr (a b d : BitVec 3) (t : BitVec 4) (e : BitVec 1) (p : BitVec 8)
  /-- R259. Lane bitwise XOR. -/
  | elemXor (a b d : BitVec 3) (t : BitVec 4) (e : BitVec 1) (p : BitVec 8)
  /-- R259. Lane bitwise complement. -/
  | elemNot (a d : BitVec 3) (t : BitVec 4) (e : BitVec 1) (p : BitVec 8)
  /-- R260. Lane shift left. -/
  | elemShl (a b d : BitVec 3) (t : BitVec 4) (s e : BitVec 1) (p : BitVec 8)
  /-- R260. Lane logical shift right. -/
  | elemShr (a b d : BitVec 3) (t : BitVec 4) (e : BitVec 1) (p : BitVec 8)
  /-- R260. Lane arithmetic shift right. -/
  | elemSra (a b d : BitVec 3) (t : BitVec 4) (e : BitVec 1) (p : BitVec 8)
  /-- R259. Lane leading-zero count. -/
  | elemClz (a d : BitVec 3) (t : BitVec 4) (e : BitVec 1) (p : BitVec 8)
  /-- R259. Lane population count. -/
  | elemPopc (a d : BitVec 3) (t : BitVec 4) (e : BitVec 1) (p : BitVec 8)
  /-- R262. Lane float add, rounded once. -/
  | elemFadd (a b d : BitVec 3) (t : BitVec 4) (r : BitVec 2) (s e : BitVec 1) (p : BitVec 8)
  /-- R262. Lane float subtract. -/
  | elemFsub (a b d : BitVec 3) (t : BitVec 4) (r : BitVec 2) (s e : BitVec 1) (p : BitVec 8)
  /-- R262. Lane float multiply. -/
  | elemFmul (a b d : BitVec 3) (t : BitVec 4) (r : BitVec 2) (s e : BitVec 1) (p : BitVec 8)
  /-- R262. Lane fused multiply-add with the chain. -/
  | elemFfma (a b d : BitVec 3) (t : BitVec 4) (r : BitVec 2) (s e : BitVec 1) (p : BitVec 8)
  /-- R262. Lane float minimum. -/
  | elemFmin (a b d : BitVec 3) (t : BitVec 4) (r : BitVec 2) (s e : BitVec 1) (p : BitVec 8)
  /-- R262. Lane float maximum. -/
  | elemFmax (a b d : BitVec 3) (t : BitVec 4) (r : BitVec 2) (s e : BitVec 1) (p : BitVec 8)
  /-- R262. Lane float absolute value. -/
  | elemFabs (a d : BitVec 3) (t : BitVec 4) (r : BitVec 2) (e : BitVec 1) (p : BitVec 8)
  /-- R262. Lane float negation. -/
  | elemFneg (a d : BitVec 3) (t : BitVec 4) (r : BitVec 2) (e : BitVec 1) (p : BitVec 8)
  /-- R263. Lane compare equal, giving 1 or 0. -/
  | elemCmpeq (a b d : BitVec 3) (t : BitVec 4) (r : BitVec 2) (s e : BitVec 1) (p : BitVec 8)
  /-- R263. Lane compare not equal. -/
  | elemCmpne (a b d : BitVec 3) (t : BitVec 4) (r : BitVec 2) (s e : BitVec 1) (p : BitVec 8)
  /-- R263. Lane compare less than. -/
  | elemCmplt (a b d : BitVec 3) (t : BitVec 4) (r : BitVec 2) (s e : BitVec 1) (p : BitVec 8)
  /-- R263. Lane compare less or equal. -/
  | elemCmple (a b d : BitVec 3) (t : BitVec 4) (r : BitVec 2) (s e : BitVec 1) (p : BitVec 8)
  /-- R261. Packs two I16 halves into a PAIR16. -/
  | elemPack (a b d : BitVec 3) (s e : BitVec 1) (p : BitVec 8)
  /-- R261. Sign-extends the low half of a PAIR16. -/
  | elemUnpkl (a d : BitVec 3) (e : BitVec 1) (p : BitVec 8)
  /-- R261. Sign-extends the high half of a PAIR16. -/
  | elemUnpkh (a d : BitVec 3) (e : BitVec 1) (p : BitVec 8)
  /-- R264. Passes its operand with kind kept. -/
  | elemPass (a d : BitVec 3) (t : BitVec 4) (r : BitVec 2) (e : BitVec 1) (p : BitVec 8)
  /-- R264. Passes its operand to dst and a second output queue. -/
  | elemDup (a d : BitVec 3) (t : BitVec 4) (r : BitVec 2) (e : BitVec 1) (p : BitVec 8)
  /-- R265. Passes the datum when the predicate is true. -/
  | elemSteert (a b d : BitVec 3) (t : BitVec 4) (r : BitVec 2) (e : BitVec 1) (p : BitVec 8)
  /-- R265. Passes the datum when the predicate is false. -/
  | elemSteerf (a b d : BitVec 3) (t : BitVec 4) (r : BitVec 2) (e : BitVec 1) (p : BitVec 8)
  /-- R266. Pops the selector and the selected source. -/
  | elemMerge (a b d : BitVec 3) (t : BitVec 4) (r : BitVec 2) (e : BitVec 1) (p : BitVec 8)
  /-- R267. Chooses srcA or srcB by chain bit 0. -/
  | elemSelect (a b d : BitVec 3) (t : BitVec 4) (r : BitVec 2) (e : BitVec 1) (p : BitVec 8)
  /-- R268. Gives a lane register or immediate as data. -/
  | elemConst (a d : BitVec 3) (t : BitVec 4) (r : BitVec 2) (e : BitVec 1) (p : BitVec 8)
  /-- R269. Generates i × stride up to count, then EOS. -/
  | elemIter (a b d : BitVec 3) (t : BitVec 4) (e : BitVec 1) (p : BitVec 8)
  /-- R270. Converts from the latched header format. -/
  | elemCvth (a d : BitVec 3) (t : BitVec 4) (r : BitVec 2) (s e : BitVec 1) (p : BitVec 8)
  /-- R270. Converts an I32 source. -/
  | elemCvti (a d : BitVec 3) (t : BitVec 4) (r : BitVec 2) (s e : BitVec 1) (p : BitVec 8)
  /-- R270. Converts an FP32 source. -/
  | elemCvtf (a d : BitVec 3) (t : BitVec 4) (r : BitVec 2) (s e : BitVec 1) (p : BitVec 8)
  /-- R271. Converts FP32 values into scaled blocks with headers. -/
  | elemCvts (a d : BitVec 3) (t : BitVec 4) (r : BitVec 2) (s e : BitVec 1) (p : BitVec 8)
  /-- R272. Gives the header latched on a queue. -/
  | elemHdrGet (a d : BitVec 3) (e : BitVec 1) (p : BitVec 8)
  /-- R272. Emits its operand as a header token. -/
  | elemHdrPut (a d : BitVec 3) (e : BitVec 1) (p : BitVec 8)
  /-- R273. Adds an L6 product into the lane K-sum. -/
  | elemLmac (a b d : BitVec 3) (e : BitVec 1) (p : BitVec 8)
  /-- R274. Rounds the K-sum into an FP32 accumulator and clears it. -/
  | elemLfin (a d : BitVec 3) (e : BitVec 1) (p : BitVec 8)
  /-- R257. Passes an index below its limit, else error 0x01. -/
  | elemBound (a b d : BitVec 3) (e : BitVec 1) (p : BitVec 8)
  /-- R257. Makes an error token from its operand. -/
  | elemErrgen (a d : BitVec 3) (e : BitVec 1) (p : BitVec 8)
  /-- R258. Consumes tokens, trapping on errors in mode 01. -/
  | elemSink (a : BitVec 3) (t : BitVec 4) (r : BitVec 2) (e : BitVec 1) (p : BitVec 8)
  /-- R280. Looks up the tile tag table. -/
  | elemTlook (a d : BitVec 3) (e : BitVec 1) (p : BitVec 8)
  /-- R281. Sends route-class packets from the tile. -/
  | elemRcsend (a b d : BitVec 3) (t : BitVec 4) (r : BitVec 2) (e : BitVec 1) (p : BitVec 8)
  /-- R282. The tile's arrival at a phase boundary. -/
  | elemPhasen (a d : BitVec 3) (e : BitVec 1) (p : BitVec 8)
  /-- R283. Emits a thread token. -/
  | elemThread (a d : BitVec 3) (e : BitVec 1) (p : BitVec 8)
  /-- R283. Emits a control token for a press tile or flue. -/
  | elemCtok (a d : BitVec 3) (e : BitVec 1) (p : BitVec 8)
  -- memory nodes, word 0 and word 1 (R66)
  /-- R276. Memory node loading an element from the tile bank. -/
  | bld (asrc dsrc dst : BitVec 3) (typ : BitVec 4) (off : BitVec 12) (seq pre suc : BitVec 10) (first last : BitVec 1)
  /-- R276. Memory node storing an element to the tile bank. -/
  | bst (asrc dsrc dst : BitVec 3) (typ : BitVec 4) (off : BitVec 12) (seq pre suc : BitVec 10) (first last : BitVec 1)
  /-- R277. Memory node loading through the lane's stream port. -/
  | mld (asrc dsrc dst : BitVec 3) (typ : BitVec 4) (off : BitVec 12) (seq pre suc : BitVec 10) (first last : BitVec 1)
  /-- R277. Memory node storing through the lane's stream port. -/
  | mst (asrc dsrc dst : BitVec 3) (typ : BitVec 4) (off : BitVec 12) (seq pre suc : BitVec 10) (first last : BitVec 1)
  /-- R279. Memory node atomic I32 add. -/
  | matAdd (asrc dsrc dst : BitVec 3) (typ : BitVec 4) (off : BitVec 12) (seq pre suc : BitVec 10) (first last : BitVec 1)
  /-- R279. Memory node atomic FP32 add. -/
  | matFadd (asrc dsrc dst : BitVec 3) (typ : BitVec 4) (off : BitVec 12) (seq pre suc : BitVec 10) (first last : BitVec 1)
  /-- R279. Memory node atomic AND. -/
  | matAnd (asrc dsrc dst : BitVec 3) (typ : BitVec 4) (off : BitVec 12) (seq pre suc : BitVec 10) (first last : BitVec 1)
  /-- R279. Memory node atomic OR. -/
  | matOr (asrc dsrc dst : BitVec 3) (typ : BitVec 4) (off : BitVec 12) (seq pre suc : BitVec 10) (first last : BitVec 1)
  /-- R279. Memory node atomic minimum. -/
  | matMin (asrc dsrc dst : BitVec 3) (typ : BitVec 4) (off : BitVec 12) (seq pre suc : BitVec 10) (first last : BitVec 1)
  /-- R279. Memory node atomic maximum. -/
  | matMax (asrc dsrc dst : BitVec 3) (typ : BitVec 4) (off : BitVec 12) (seq pre suc : BitVec 10) (first last : BitVec 1)
  /-- R279. Memory node atomic swap. -/
  | matSwap (asrc dsrc dst : BitVec 3) (typ : BitVec 4) (off : BitVec 12) (seq pre suc : BitVec 10) (first last : BitVec 1)
  -- steps without a word
  /-- R382. A router forwards a token or packet over a link by class and switch words. -/
  | routerTokenHop (tile port cls vc : Nat)
  /-- R46. The tile scheduler starts the earliest-ready actor. -/
  | actorFiringStart (tile : Nat)
  /-- R45. One step of a firing runs across the span's lanes. -/
  | firingStep (tile : Nat)
  /-- R51. A reconfiguration wave reaches a tile. -/
  | waveArrival (ctx ticket tile : Nat)
  /-- R51. A tile applies the new configuration once old streams have ended. -/
  | tileReconfigure (tile : Nat)
  /-- R173. A load finishes on every named tile. -/
  | configLoadComplete (ctx ticket : Nat)
  /-- R173. The loader refuses an image with 0x19 and loads nothing. -/
  | configLoadRefused (ctx ticket : Nat)
  /-- R49. A thread leaving a configuration joins its target entry queue. -/
  | threadEnqueue (tile queue : Nat)
  /-- R50. The block scheduler chooses and loads the next configuration. -/
  | blockSchedulerSelect (lease : Nat)
  /-- R278. The edge interface performs a node access in wave order. -/
  | memNodePerform (lease idx : Nat)
  /-- R275. A node's value or completion returns to the lane. -/
  | memNodeReturn (lease idx : Nat)
  /-- R35. A read edge engine delivers the next element. -/
  | edgeReadElement (lease port : Nat)
  /-- R35. A write edge engine commits an element to memory. -/
  | edgeWriteCommit (lease port : Nat)
  /-- R290. A wide read engine delivers one beat with scale sideband. -/
  | wideEngineBeat (lease port : Nat)
  /-- R193. A ring runs one beat moving one family. -/
  | ringBeat (lease ring : Nat)
  /-- R194. The kindle queue pushes its oldest entry's token into q0. -/
  | kindleHandoff (lease ring stop : Nat)
  /-- R296. The press takes an MMA token and its descriptor. -/
  | pressMma (tile : Nat)
  /-- R296. The press consumes one A beat and updates an accumulator row. -/
  | pressMmaBeat (tile : Nat)
  /-- R299. The press returns one accumulator element. -/
  | pressRead (tile : Nat)
  /-- R300. The press starts reading accumulator rows out. -/
  | pressDrain (tile : Nat)
  /-- R300. One DRAIN beat goes to the write port. -/
  | pressDrainBeat (tile : Nat)
  /-- R301. The press clears an accumulator. -/
  | pressZero (tile : Nat)
  /-- R301. The press writes read-port beats raw into the bank. -/
  | pressLoadw (tile : Nat)
  /-- R308. The flue grants an EXP2 request burst. -/
  | flueTokenExp2 (flue : Nat)
  /-- R308. The flue grants a LOG2 request burst. -/
  | flueTokenLog2 (flue : Nat)
  /-- R308. The flue grants an RCP request burst. -/
  | flueTokenRcp (flue : Nat)
  /-- R308. The flue grants an RSQRT request burst. -/
  | flueTokenRsqrt (flue : Nat)
  /-- R308. The flue grants a SQRT request burst. -/
  | flueTokenSqrt (flue : Nat)
  /-- R308. The flue grants a SINPI request burst. -/
  | flueTokenSinpi (flue : Nat)
  /-- R308. The flue grants a COSPI request burst. -/
  | flueTokenCospi (flue : Nat)
  /-- R308. The flue grants a TANH request burst. -/
  | flueTokenTanh (flue : Nat)
  /-- R308. The flue grants a SIGM request burst. -/
  | flueTokenSigm (flue : Nat)
  /-- R312. A malformed flue token is absorbed with fault 0x02. -/
  | flueTokenMalformed (flue : Nat)
  /-- R309. The flue returns correctly rounded results to the requester. -/
  | flueReply (flue : Nat)
  /-- R240. A copy writes its next unit. -/
  | copyUnit (ctx ticket : Nat)
  /-- R123. A stoker memory round trip returns and the instruction completes. -/
  | stokerAccessComplete (ctx : Nat)
  /-- R222. The base die applies an access to a memory-side line in arrival order. -/
  | memorySideApply (stack : Nat)
  /-- R331. A phased write reaches its home and updates the line's versions. -/
  | phasedWriteAtHome (stack : Nat)
  /-- R342. The sweeper returns one freed shadow line to its segment. -/
  | sweeperReturn (die part : Nat)
  /-- R216. All members arrived; writes are published and snapshots refreshed. -/
  | phaseBoundaryComplete (lease scope tile : Nat)
  /-- R33. A WAITING context's condition is met and its instruction completes. -/
  | contextWake (ctx : Nat)
  /-- R154. A pending event with ie set traps the context. -/
  | asyncEventTrap (ctx : Nat)
  /-- R367. 2^24 fc without progress with an open sink raises 0x10. -/
  | watchdogExpiry (lease : Nat)
  /-- R370. A draining lease is quiescent and its state is saved. -/
  | drainComplete (lease : Nat)
  /-- R370. A drain unfinished after 50 µs becomes a freeze. -/
  | drainEscalation (lease : Nat)
  /-- R372. The freeze readout finishes and posts its event. -/
  | freezeReadoutComplete (lease : Nat)
  /-- R376. Tile state copied, the lease resumes at its destination. -/
  | relocationComplete (lease : Nat)
  /-- R354. The placer serves waiting launches and saved leases when room may be free. -/
  | placerServe (part : Nat)
  /-- R348. A lease ends, drops proof levels, publishes and frees its tiles. -/
  | leaseEnd (lease : Nat)
  /-- R346. Command packet that places and starts a lease. -/
  | launch (part queue : Nat)
  /-- R431. Command packet that runs an indirect buffer. -/
  | indirect (part queue : Nat)
  /-- R431. Command packet that skips words unless a condition holds. -/
  | pred (part queue : Nat)
  /-- R431. Command packet that repeats a body. -/
  | loop (part queue : Nat)
  /-- R431. Command packet that waits on a memory-side word. -/
  | waitPacket (part queue : Nat)
  /-- R431. A WAIT packet's condition comes to hold. -/
  | waitPacketSatisfied (part queue : Nat)
  /-- R431. A WAIT packet times out with status 0x43. -/
  | waitPacketTimeout (part queue : Nat)
  /-- R431. Command packet that stores, adds or ORs into a word. -/
  | signal (part queue : Nat)
  /-- R431. Command packet that copies bytes. -/
  | copyPacket (part queue : Nat)
  /-- R324. Command packet that fills slices. -/
  | prefetchPacket (part queue : Nat)
  /-- R324. Command packet that drops slice lines. -/
  | discardPacket (part queue : Nat)
  /-- R432. Command packet that discards fetched-ahead words. -/
  | fetchFence (part queue : Nat)
  /-- R427. The hearth restarts a failed command processor, stopping its queues. -/
  | commandProcessorRestart (proc : Nat)
  /-- R419. Write to a management register without behaviour of its own. -/
  | registerWrite (view off : Nat) (val : Word)
  /-- R421. Creates or removes a partition. -/
  | pcfgWrite (view off : Nat) (val : Word)
  /-- R424. Delegates or revokes rights at one instant. -/
  | rightsWrite (view off : Nat) (val : Word)
  /-- R405. Writes a partition's die table. -/
  | dietabWrite (view off : Nat) (val : Word)
  /-- R379. Adds quads or resizes an allotment, relocating leases. -/
  | allotWrite (view off : Nat) (val : Word)
  /-- R340. Sizes a shadow pool segment. -/
  | poolsegWrite (view off : Nat) (val : Word)
  /-- R421. Starts a translation invalidation. -/
  | ivcmd (view off : Nat) (val : Word)
  /-- R318. An invalidation completes and busy clears. -/
  | ivcmdDone (part : Nat)
  /-- R343. Migrates a 64 KiB frame with its versions to another frame. -/
  | migrateFrame (part src dst : Nat)
  /-- R348. The manager ends a lease with a code. -/
  | lend (view off : Nat) (val : Word)
  /-- R426. Enables a command queue and assigns it a processor. -/
  | queueEnable (view off : Nat) (val : Word)
  /-- R426. Disables a command queue, cancelling waits. -/
  | queueDisable (view off : Nat) (val : Word)
  /-- R429. Restarts a stopped queue at the next packet. -/
  | queueResume (view off : Nat) (val : Word)
  /-- R427. Submits ring words up to the new tail. -/
  | qtailDoorbell (view off : Nat) (val : Word)
  /-- R428. Software frees completion entries, releasing a held one. -/
  | cringHeadWrite (view off : Nat) (val : Word)
  /-- R433. Software frees handler-queue words, releasing a held record. -/
  | hqheadWrite (view off : Nat) (val : Word)
  /-- R362. Fault reply act 0 resumes the faulting unit. -/
  | faultReplyResume (view off : Nat) (val : Word)
  /-- R362. Fault reply act 1 saves the lease by freeze. -/
  | faultReplySave (view off : Nat) (val : Word)
  /-- R362. Fault reply act 2 ends the lease. -/
  | faultReplyEnd (view off : Nat) (val : Word)
  /-- R435. Halts one tile or context. -/
  | dbgHaltUnit (view off : Nat) (val : Word)
  /-- R435. Resumes one halted unit. -/
  | dbgResumeUnit (view off : Nat) (val : Word)
  /-- R435. Halts a whole lease. -/
  | dbgHaltLease (view off : Nat) (val : Word)
  /-- R435. Resumes a halted lease. -/
  | dbgResumeLease (view off : Nat) (val : Word)
  /-- R435. Reads a halted unit's state word into dbgdata. -/
  | dbgReadWord (view off : Nat) (val : Word)
  /-- R435. Writes dbgdata into a halted unit's state word. -/
  | dbgWriteWord (view off : Nat) (val : Word)
  /-- R398. Asks a seam module to retrain at 64 lanes. -/
  | mstatFullRetrain (view off : Nat) (val : Word)
  /-- R398. Clears a module's counters. -/
  | mstatClear (view off : Nat) (val : Word)
  /-- R406. Sets the damper current budget. -/
  | dcfgWrite (view off : Nat) (val : Word)
  /-- R410. Sets the package number on the Gorisk fabric. -/
  | pkgidWrite (view off : Nat) (val : Word)
  /-- R411. Enables or disables a Gorisk port. -/
  | gstatEnable (view off : Nat) (val : Word)
  /-- R411. Clears a Gorisk port's counters. -/
  | gstatClear (view off : Nat) (val : Word)
  /-- R402. A connection entry written with v = 1 starts circuit set-up or is refused. -/
  | connSetup (view off : Nat) (val : Word)
  /-- R402. A connection entry written with v = 0 tears the circuit down. -/
  | connTeardown (view off : Nat) (val : Word)
  /-- R402. After 3,150 fc a circuit comes up and the MSI is raised. -/
  | circuitSetupDone (entry : Nat)
  /-- R402. A torn-down circuit returns to idle. -/
  | circuitTeardownDone (entry : Nat)
  /-- R439. Raises an alarm source's class. -/
  | asrcWrite (view off : Nat) (val : Word)
  /-- R437. Extends a measurement register with mdig. -/
  | mext (view off : Nat) (val : Word)
  /-- R440. quarctl imposes a quarantine on a partition. -/
  | quarantine (view off : Nat) (val : Word)
  /-- R440. quarctl lifts a partition's quarantine. -/
  | quarantineLift (view off : Nat) (val : Word)
  /-- R436. Starts retagging, optionally erasing, a range of frames. -/
  | ftcmd (view off : Nat) (val : Word)
  /-- R436. Retagging applies after in-flight accesses and busy clears. -/
  | ftcmdDone
  /-- R438. SPDM GET_VERSION request. -/
  | getVersion (view off : Nat) (val : Word)
  /-- R438. SPDM GET_CAPABILITIES request. -/
  | getCapabilities (view off : Nat) (val : Word)
  /-- R438. SPDM NEGOTIATE_ALGORITHMS request. -/
  | negotiateAlgorithms (view off : Nat) (val : Word)
  /-- R438. SPDM GET_CERTIFICATE request. -/
  | getCertificate (view off : Nat) (val : Word)
  /-- R438. SPDM CHALLENGE request signed with the partition or alias key. -/
  | challenge (view off : Nat) (val : Word)
  /-- R438. SPDM GET_MEASUREMENTS request. -/
  | getMeasurements (view off : Nat) (val : Word)
  /-- R438. Any other SPDM request gets ERROR UnsupportedRequest. -/
  | spdmUnsupportedRequest (view off : Nat) (val : Word)
  /-- R395. A seam side accepts, discards or naks a received flit. -/
  | seamFlitReceive (module dir : Nat) (crcOk : Bool) (faulty : BitVec 64)
  /-- R395. 512 fc without acknowledgement resends from the oldest flit. -/
  | seamReplayTimeout (module dir : Nat)
  /-- R396. A module finishes its 1 µs retrain and resumes. -/
  | seamRetrainEnd (module : Nat) (faulty : BitVec 64)
  /-- R410. A Gorisk port accepts or replays a flit. -/
  | goriskFlitReceive (port dir : Nat) (crcOk : Bool)
  /-- R413. A remote package applies a system request once and replies. -/
  | goriskRemoteRequest (txn : Nat)
  /-- R414. An unanswered system request ends with fault 0x06. -/
  | goriskRequestTimeout (txn : Nat)
  /-- R407. Each 1 µs period the damper grants units by water-filling. -/
  | damperPeriod
  /-- R408. Each 210 fc tick a die adjusts its throttle level. -/
  | damperTick (die : Nat)
  /-- R357. A 10 µs period starts and lease budgets renew. -/
  | budgetPeriod
  /-- R358. Each die reports budget use to the hearth every 1 µs. -/
  | budgetReport (die : Nat)
  /-- R442. The package leaves reset and runs its boot stages. -/
  | packageReset
  /-- R439. A clock glitch raises a class 3 alarm. -/
  | clockGlitch
  /-- R439. A supply voltage glitch raises a class 3 alarm. -/
  | supplyGlitch
  /-- R439. The package tamper mesh raises a class 3 alarm. -/
  | tamperMesh
  /-- R441. A junction above 110 °C halts the package. -/
  | thermalTrip (die : Nat)
  /-- R411. A Gorisk port finishes training, or retraining at fewer lanes, and its state and lanes change. -/
  | goriskPortTrainingDone (port lanes : Nat)
  /-- R410. A Gorisk port whose acknowledgements have not advanced resends from its oldest unacknowledged flit. -/
  | goriskReplayTimeout (port dir : Nat)
  /-- R343. A page migration finishes copying the frame's lines and versions, switches translation and releases held accesses to the new home. -/
  | frameMigrationComplete (idx : Nat)
  /-- R374. A saved lease finishes being written back into its tiles, contexts and engines, resumes, and posts event 0x09. -/
  | resumeDone (lease : Nat)
  -- control words without operands (05)
  /-- R156. Returns from a trap, resuming a REP if active. -/
  | eret
  /-- R159. Waits for an event in the context's queue. -/
  | wfe
  /-- R160. Puts the context in HALTED. -/
  | halt
  /-- R155. Breakpoint: halts the context for the debug level or traps with 0x17. -/
  | brk
  /-- R161. Discards the context's prefetched instruction words. -/
  | ifence
deriving DecidableEq, Repr, Inhabited

end Sys2Proof
end

