-- ==== Sys2Proof/Machine/State.lean ====
section
/-! DEFINITION. The state of the package as plain data, and the state after reset.

Sparse tables stand for the arrays of the part: a key that is not listed holds the array's cleared element, so a
part of 8,192 tiles and 4,096 contexts is a short list while most of it is idle. Keys:
tile = die × 1024 + row × 32 + col; context = ((die × 8 + brow) × 8 + bcol) × 8 + num; stoker = context / 8;
partition = r × 32 + c (c = 0 is the reseller's own block); seam module = seam × 16 + m. Dies in keys are physical. -/

namespace Sys2Proof.Machine

/-- A sparse table: keys strictly rising, no entry equal to the element an unlisted key stands for. -/
abbrev Tbl (α : Type) := List (Nat × α)

/-- Memory: address and byte, addresses strictly rising, no byte equal to what an unlisted address reads as. -/
abbrev Memory := List Host.Cell

/-- A fabric token of 36 bits (R11, R37). -/
structure Token where
  kind : BitVec 4 := 0
  pay : BitVec 32 := 0
deriving DecidableEq, Repr, Inhabited

/-- A unit of a scope group (R53). `self` is the context's key plus one for a context alone (scopes 0 and 1 of a
context), else 0. Fields below the unit's granularity are 0. -/
structure SUnit where
  scope : Nat := 0
  die : Nat := 0
  row : Nat := 0
  col : Nat := 0
  self : Nat := 0
deriving DecidableEq, Repr, Inhabited

/-- An agent of the memory model (R327). -/
inductive Agent where
  | ctx (k : Nat)
  | tile (k : Nat)
deriving DecidableEq, Repr, Inhabited

/-! ### Lease images (R80 to R83) -/

/-- A kind-1 record: a rectangle relative to rectangle 0; `off` is the record's offset in the image. -/
structure RectRec where
  off : Nat := 0
  row0 : Int := 0
  col0 : Int := 0
  rows : Nat := 1
  cols : Nat := 1
deriving DecidableEq, Repr, Inhabited

/-- A kind-2 record: what a configuration load writes into one tile; `off` is the record's offset in the image. -/
structure TileCfg where
  off : Nat := 0
  rect : Nat := 0
  row : Nat := 0
  col : Nat := 0
  press : Bool := false
  /-- Whether words of its actors or operation words are missing, which a fault keeps from the loader. -/
  part : Bool := false
  /-- The number of its first cut point (R444). -/
  cut0 : Nat := 0
  actors : Tbl (BitVec 64) := []
  ops : Tbl Code := []
  kregs : Tbl Code := []
  sw : Tbl (BitVec 16) := []
deriving DecidableEq, Repr, Inhabited

/-- A kind-3 record: a block's entry offset (R32). -/
structure CtxRec where
  row : Int := 0
  col : Int := 0
  entry : Nat := 0
deriving DecidableEq, Repr, Inhabited

/-- A kind-4 record: a stream port (R82); `off` is the record's offset in the image. -/
structure PortRec where
  off : Nat := 0
  name : Nat := 0
  edge : Nat := 0
  dir : Bool := false
  iter : Bool := false
  rect : Nat := 0
  row : Nat := 0
  col : Nat := 0
  pos : Nat := 0
  desc : List Word := []
deriving DecidableEq, Repr, Inhabited

/-- A kind-6 record: a ring, its stops as (row, col) of rectangle 0, its lap limit and region offset. -/
structure RingRec where
  stops : List (Nat × Nat) := []
  laps : Nat := 0
  off : Nat := 0
deriving DecidableEq, Repr, Inhabited

/-- A kind-7 record: match entries for one stop, or for every stop (0xFFFF). -/
structure MatchRec where
  ring : Nat := 0
  stop : Nat := 0
  entries : List Word := []
deriving DecidableEq, Repr, Inhabited

/-- A kind-8 record: a basic-block configuration. -/
structure ConfRec where
  idx : Nat := 0
  cap : Nat := 0
  tiles : List TileCfg := []
deriving DecidableEq, Repr, Inhabited

/-- A lease image after the header and record checks. -/
structure Image where
  va : Nat := 0
  cls : Nat := 0
  sched : Nat := 255
  codeOff : Nat := 0
  rects : List RectRec := []
  tiles : List TileCfg := []
  ctxs : List CtxRec := []
  ports : List PortRec := []
  rings : List RingRec := []
  matches_ : List MatchRec := []
  confs : List ConfRec := []
deriving DecidableEq, Repr, Inhabited

/-- Where a configuration load stands. -/
inductive LoadSt where
  | reading
  | running
  | done
  | refused (off : Nat)
deriving DecidableEq, Repr, Inhabited

/-- A configuration load (R172 to R175). `ticket = 0` is the load of a launch or of the block scheduler, and then `ctx` is
the lease id. `send` are the waves still to be sent, `names` the tiles it names, `left` those that have not reconfigured,
`ports` the port records it binds, `loaded` the number of tiles that it had loaded when its lease was saved (R175), and `fin` the
ordinal at which it finished. A ticket above 65535 is one whose number a later load of its context took over (R174). -/
structure Load where
  ctx : Nat := 0
  ticket : Nat := 0
  lease : Nat := 0
  conf : Nat := 0
  all : Bool := false
  notify : Bool := false
  rm : BitVec 2 := 0
  image : Nat := 0
  st : LoadSt := .reading
  send : List (Nat × TileCfg) := []
  names : List Nat := []
  left : List Nat := []
  ports : List PortRec := []
  loaded : Nat := 0
  fin : Nat := 0
deriving DecidableEq, Repr, Inhabited

/-! ### Pages and accesses -/

/-- What a completed translation says of a page (R315 to R317). -/
structure PageAttr where
  r : Bool := false
  w : Bool := false
  x : Bool := false
  ms : Bool := false
  gp : Bool := false
  sysw : Bool := false
  fmt : Nat := 0
  blk : Nat := 0
  gscope : Nat := 0
  gslot : Nat := 0
  grow : Nat := 0
  gcol : Nat := 0
  soff : Int := 0
deriving DecidableEq, Repr, Inhabited

/-- An entry of a stoker's translation cache (R142): one page through all three stages. -/
structure TlbEnt where
  lease : Nat := 0
  va : Nat := 0
  size : Nat := 0
  pa : Nat := 0
  attr : PageAttr := {}
deriving DecidableEq, Repr, Inhabited

/-- Where a load's value goes (R138, R139). -/
inductive LoadDst where
  | g (d : BitVec 5)
  | fw (d : BitVec 5)
  | fd (d : BitVec 5)
deriving DecidableEq, Repr, Inhabited

/-- What an access of a stoker context does at its line, with every register operand already read (R122); `barReport` is a copy's
(R241). -/
inductive AccOp where
  | load (dst : LoadDst) (w : Nat) (sgn : Bool)
  | store (w : Nat) (val : Word)
  | atom (fn w : Nat) (d : BitVec 5) (x c : Word) (scope : Nat) (acq rel : Bool)
  | barInit (scope cnt : Nat)
  | barArrive (drop rel : Bool) (d : BitVec 5) (n : Nat)
  | barExpect (n : Nat)
  | barReport (n : Nat)
  | barTest (acq : Bool) (d : BitVec 5) (par : Bool)
  | barWait (acq : Bool) (par : Bool)
  | cbInit (d : BitVec 5)
  | cbPush (scope : Nat) (rel : Bool) (d : BitVec 5) (n : Nat)
  | cbPop (scope : Nat) (acq : Bool) (d : BitVec 5) (n : Nat)
  | cbAvail (d : BitVec 5)
  | cbRoom (d : BitVec 5)
deriving DecidableEq, Repr, Inhabited

/-- What came of an access: a value, or a trap of the issuing context with its code. -/
inductive AccRes where
  | val (v : Word)
  | trap (code : Nat)
  | wait
deriving DecidableEq, Repr, Inhabited

/-- An access in flight, in arrival order (R123, R222). `way` holds the seams that its request, or once performed its
reply, has still to cross, each 2 × module + direction (R385, R393), or 320 and up for a circuit's entry (R403). `via` are the
circuits that served its pair of dies and class when it set out, `held` says that the source die holds it back, and `mig` that a migration
of its frame has held it (R343). `seen` is what an acquire takes in, from when it was performed: a barrier's scope, and the time recorded
(R215, R227). `came` is the crossing whose receiving channel holds the packet (R394). -/
structure Req where
  ctx : Nat := 0
  op : AccOp := .barExpect 0
  va : Nat := 0
  pa : Nat := 0
  attr : PageAttr := {}
  res : Option AccRes := none
  way : List Nat := []
  via : List Nat := []
  held : Bool := false
  mig : Bool := false
  seen : Nat × Nat := (0, 0)
  came : Option Nat := none
deriving DecidableEq, Repr, Inhabited

/-! ### Versions (R330 to R336) -/

/-- The owner of a version: lease, unit, the VA of the line as it was written, the ordinal at which the version was
made, its widenings (ordinal, unit before), oldest first, and the agents that wrote into it, each of which reads its own
writes (R328). -/
structure VTag where
  lease : Nat := 0
  unit : SUnit := {}
  va : Nat := 0
  made : Nat := 0
  hist : List (Nat × SUnit) := []
  writers : List Agent := []
deriving DecidableEq, Repr, Inhabited

/-- An older version kept in the shadow pool. `tag = none` is the base. `proof` names the open proof level
(lease, unit, level) it is the shadow of, if any, and `stale` what HBM may then have held of the line (R219). `part` and `die` say whose
pool line it takes. -/
structure Shadow where
  tag : Option VTag := none
  data : LineData := 0
  proof : Option (Nat × SUnit × Nat) := none
  stale : List LineData := []
  part : Nat := 0
  die : Nat := 0
deriving DecidableEq, Repr, Inhabited

/-- What HBM may still hold of a line beneath the slices (R219): the contents since its last write-back, and the agents whose
writes stand in the slices. -/
structure Stale where
  data : List LineData := []
  by_ : List Agent := []
deriving DecidableEq, Repr, Inhabited

/-- The versions of a line that has more than a base: the frame holds `cur`, `older` is newest first. -/
structure LineRec where
  cur : Option VTag := none
  older : List Shadow := []
deriving DecidableEq, Repr, Inhabited

/-! ### Stoker contexts (R22 to R33) -/

inductive CtxSt where
  | free
  | ready
  | waiting
  | halted
  | frozen
deriving DecidableEq, Repr, Inhabited

/-- An issued instruction that has not completed; its context takes no turn (R48). A PRS.READ that waits for room in the control
queue of `tile` keeps its token (R208), and a FLUE form the code that it sends and the ordinal at which it set out (R209). -/
inductive Busy where
  | access
  | phase (scope : Nat)
  | prsRead (d : BitVec 5)
  | prsWait (tile : Nat) (word : Code) (d : BitVec 5)
  | flue (fn : Nat) (d : BitVec 5) (v : Code) (at_ : Nat)
  | ringStop (ring : Nat) (d : BitVec 5)
  | unbind (port : Nat) (d : BitVec 5)
deriving DecidableEq, Repr, Inhabited

/-- The condition a WAITING context waits for (R33). A barrier wait keeps in `met`, once its parity has passed, the barrier's scope and
release time at that moment (R227). -/
inductive Wait where
  | wfe
  | bar (acq : Bool) (va pa : Nat) (par : Bool) (met : Option (Nat × Nat))
  | cfg (d : BitVec 5) (tickets : List Nat)
  | cpy (d : BitVec 5) (tickets : List Nat)
deriving DecidableEq, Repr, Inhabited

/-- An ended copy, kept for CPY.WAIT and CPY.STAT (R244). -/
structure EndedCopy where
  ticket : Nat := 0
  code : Nat := 0
  units : Nat := 0
deriving DecidableEq, Repr, Inhabited

structure Ctx where
  st : CtxSt := .free
  lease : Nat := 0
  thaw : CtxSt := .free
  pc : Word := 0
  g : Vector Word 32 := Vector.replicate 32 0
  f : Vector Word 32 := Vector.replicate 32 0
  a : Vector Addr 8 := Vector.replicate 8 0
  status : Word := 0
  cause : Word := 0
  epc : Word := 0
  tvec : Word := 0
  tval : Word := 0
  tvalh : Word := 0
  fcr : Word := 0
  repstate : Word := 0
  leaseR : Word := 0
  ctxR : Word := 0
  tsfloor : Word := 0
  evhead : Word := 0
  evtail : Word := 0
  scratch : Word := 0
  evq : List Word := []
  evheld : List Word := []
  repOn : Bool := false
  repW : Option Code := none
  fbuf : List (Nat × Code) := []
  busy : Option Busy := none
  wait : Option Wait := none
  loadTk : Nat := 0
  cpyTk : Nat := 0
  cpyEnded : List EndedCopy := []
  snap : List Nat := [0, 0, 0, 0, 0, 0]
  sendBuf : List Token := []
  sendTile : Nat := 0
  sendRc : Nat := 0
  home : Nat := 0
  dbgHalt : Bool := false
  dbgPrev : CtxSt := .ready
  dbgAll : Bool := false
  haltBy : Nat := 0
deriving DecidableEq, Repr

structure Stoker where
  last : Nat := 7
  tlb : List TlbEnt := []
deriving DecidableEq, Repr, Inhabited

/-! ### Tiles -/

/-- What a lane's word gives on its chain: a token, or a bubble (R251). -/
abbrev Lane := Option Token

/-- State of one actor across firings (R253, R256): closed input queues, element counter, dormancy. -/
structure ActorSt where
  closed : List Nat := []
  count : Nat := 0
  dormant : Bool := false
deriving DecidableEq, Repr, Inhabited

/-- A firing in progress (R42, R45). `regw` holds the lane-register writes of the step, applied at its end.
`closedRead` lists the gated queues this firing read closed, `eos` that a word emitted EOS, `tid` is the id of the thread token that
it has read last (R71). `wait` is set while the step waits in the firing for a phase boundary (R282). -/
structure Firing where
  actor : Nat := 0
  step : Nat := 0
  lane : Nat := 0
  chain : Lane := some {}
  regw : List (Nat × Code) := []
  closedRead : List Nat := []
  eos : Bool := false
  tid : Nat := 0
  wait : Option Nat := none
deriving DecidableEq, Repr, Inhabited

/-- The block converter of CVTS (R271): the open block's values (an error stays an error token) with the header
latched at its first value, whether a header has been latched since, and the tokens of closed blocks still to be
sent. `eos` asks for the EOS at the output, and `ended` stays from then until the source's stream begins anew. -/
structure Conv where
  vals : List Token := []
  hdr : Option Code := none
  newHdr : Bool := false
  out : List Token := []
  eos : Bool := false
  ended : Bool := false
deriving DecidableEq, Repr, Inhabited

/-- A configuration on its way to a tile (R51). -/
structure Wave where
  ctx : Nat := 0
  ticket : Nat := 0
  cfg : TileCfg := {}
  rm : BitVec 2 := 0
  image : Nat := 0
  conf : Nat := 0
deriving DecidableEq, Repr, Inhabited

/-- A token in a router channel with what routing needs: the lease that sent it, the route class of the packet it
belongs to (0 for none; 1 on the last token of a flue's reply that a tile holds), and the branches of a multicast that have taken it, as
outputs (R387). -/
structure ChTok where
  tok : Token := {}
  lease : Nat := 0
  rc : Nat := 0
  taken : List Nat := []
deriving DecidableEq, Repr, Inhabited

/-- A press control token with its source (R288): the router, a PRS.ISSUE (acq, rel, scope) of a context, or a
PRS.READ of a context. -/
inductive PSrc where
  | router
  | issue (ctx : Nat) (acq rel : Bool) (scope : Nat)
  | read (ctx : Nat)
deriving DecidableEq, Repr, Inhabited

structure PTok where
  word : Code := 0
  src : PSrc := .router
deriving DecidableEq, Repr, Inhabited

/-- A beat of a wide port (R290): format, the two scales, the slot codes, how many of them are elements; for a beat of a
DRAIN the context that issued it, and on its last beat the scope of its release (R302); `first` marks a DRAIN's first. -/
structure Beat where
  fmt : Nat := 0
  s0 : Nat := 127
  s1 : Nat := 127
  slots : List Code := []
  n : Nat := 0
  who : Option Nat := none
  rel : Option Nat := none
  first : Bool := false
deriving DecidableEq, Repr, Inhabited

/-- The MMA or LOADW in progress (R292, R304). `panel` is the current chunk's weights, (code, scale) by row of the
chunk and column, and `panel2` the next chunk's, in the second panel (R287, R296). -/
structure PressRun where
  tok : PTok := {}
  desc : Word := 0
  chunk : Nat := 0
  row : Nat := 0
  panel : List (Code × Nat) := []
  panel2 : List (Code × Nat) := []
deriving DecidableEq, Repr, Inhabited

/-- A DRAIN in progress (R300): next element of the region, in row-major order. -/
structure PressDrainRun where
  tok : PTok := {}
  pos : Nat := 0
deriving DecidableEq, Repr, Inhabited

structure Press where
  ctl : List PTok := []
  wbuf : List Beat := []
  acc : Tbl Code := []
  run : Option PressRun := none
  drain : Option PressDrainRun := none
  wout : List Beat := []
deriving DecidableEq, Repr, Inhabited

/-- An OPW (`sw = false`) or SWW that reached the tile in the middle of a firing and takes effect at its end (R52). -/
structure LateWrite where
  sw : Bool := false
  key : Nat := 0
  word : Code := 0
deriving DecidableEq, Repr, Inhabited

/-- A tile. `fstream` are the tokens that have left o3 for the column's flue, `fbad` that they are being dropped (R307), and
`freply` the flue's replies on their way back, each as its tokens (R309). `threadOut` is what has left an output queue of a thread that
is longer than the queue, `threadIn` what has yet to enter an input queue of one that is entering it (R49). `rcAt` is the handler of the packet head at q3's head, where
RC.ROUTE has since changed it (R202). `localQ` are the inputs whose class-3 packets wait at LOCAL, in the order of their arrival (R201).
`cuts` are the numbers of the cut points of the configuration, by the index of their switch words (R444). `kern` names the kernel that its configuration is part of, and `loaded` counts the loads of
each image and configuration (R278). `readyQ` are the ready actors in the order in which they became so; the first `aged` of them
were ready before this fc (R46). -/
structure Tile where
  lease : Option Nat := none
  configured : Bool := false
  kern : Nat := 0
  loaded : List (Nat × Nat × Nat) := []
  rm : BitVec 2 := 0
  ops : Tbl Code := []
  actors : Tbl (BitVec 64) := []
  sw : Tbl (BitVec 16) := []
  cuts : List (Nat × Nat) := []
  kreg : Tbl Code := []
  latch : Tbl Code := []
  tags : Tbl (BitVec 80) := []
  inq : Tbl (List Token) := []
  outq : Tbl (List Token) := []
  hdr : Tbl (Option Code) := []
  ckpt : List (Nat × ChTok) := []
  divert : List Nat := []
  astate : Tbl ActorSt := []
  readyQ : List Nat := []
  aged : Nat := 0
  firing : Option Firing := none
  late : List LateWrite := []
  iter : Tbl Code := []
  conv : Conv := {}
  rcOpen : Tbl Nat := []
  sinkEos : Tbl Bool := []
  nodeOut : Tbl Nat := []
  rcMask : List Nat := []
  rcHandler : Tbl Nat := []
  rcAt : Option Nat := none
  chans : Tbl (List ChTok) := []
  otaken : Tbl (List Nat) := []
  threadOut : Tbl (List Token) := []
  threadIn : Tbl (List Token) := []
  hold : Tbl Nat := []
  rr : Tbl Nat := []
  localQ : List Nat := []
  waves : List Wave := []
  eosOut : List Nat := []
  snap : List Nat := [0, 0, 0, 0, 0, 0]
  halted : Bool := false
  haltBy : Nat := 0
  dbgOps : List Nat := []
  bank : Memory := []
  press : Press := {}
  fstream : List Token := []
  fbad : Bool := false
  freply : List (List Token) := []
deriving DecidableEq, Repr, Inhabited

/-- A flue (R21, R306): the requester that its round robin looks at first. Request streams and replies stand with their
tiles. -/
structure Flue where
  rr : Nat := 0
deriving DecidableEq, Repr, Inhabited

/-! ### Leases -/

inductive EngSt where
  | running
  | paused
  | faulted
  | finished
deriving DecidableEq, Repr, Inhabited

/-- An edge or wide engine (R34, R289). `committed` is the number of elements delivered or committed; the
architectural index is one less, and all ones when it is 0 (R179). `tile` is the edge tile, `side` the router port
it feeds or takes from (8 for a wide port), `inbuf` the tokens a write engine has accepted, `fmt` 15 while no page has
given a format; `eosDue` is set while the EOS of a read engine is still to be sent. `who`, `rel` and `wl` belong to the
beat in `inbuf` of a wide write engine: the context that issued its DRAIN, the scope of the release due after it, and the
lines that DRAIN wrote. -/
structure Engine where
  bound : Bool := false
  st : EngSt := .finished
  ctx : Nat := 0
  base : Nat := 0
  host : Option Nat := none
  dir : Bool := false
  ext : List Nat := [1, 1, 1, 1, 1]
  stride : List Int := [0, 0, 0, 0]
  pos : List Nat := [0, 0, 0, 0, 0]
  fmt : Nat := 0
  geom : Nat := 0
  exts : List TlbEnt := []
  committed : Nat := 0
  hdrDue : Bool := true
  lastBlk : Option Nat := none
  tile : Nat := 0
  side : Nat := 0
  inbuf : List Token := []
  eosDue : Bool := false
  who : Option Nat := none
  rel : Option Nat := none
  wl : List Nat := []
deriving DecidableEq, Repr, Inhabited

inductive RingSt where
  | undefined
  | defined
  | running
  | stopped
  | done
  | faulted
deriving DecidableEq, Repr, Inhabited

/-- A kindle entry (R194): buffer, actor, and whether its token has been handed on. -/
structure Kindle where
  buf : Nat := 0
  actor : Nat := 0
  handed : Bool := false
deriving DecidableEq, Repr, Inhabited

/-- A ring stop (R18): home stops of the tiles in the CW and CCW slots (their contents stand in the bank, R187),
the kindle queue, missed encounters. -/
structure RStop where
  cw : Option Nat := none
  ccw : Option Nat := none
  kq : List Kindle := []
  missed : Nat := 0
deriving DecidableEq, Repr, Inhabited

/-- A ring (R187 to R199). While it runs it is within beat `beat`, which a RING_BEAT ends; else `beat` is the next one.
`ending` is set by a RING.STOP to be served at the end of the beat, with its mode, and `asked` counts those of mode 0; it is 2 when a drain makes the beat in
progress its last, and 3 from that beat's end until the ring goes on. -/
structure Ring where
  st : RingSt := .undefined
  owner : Nat := 0
  beat : Nat := 0
  lapLim : Nat := 0
  cap : Nat := 0
  retA : Nat := 0
  retB : Nat := 0
  cntA : Nat := 0
  cntB : Nat := 0
  stops : List RStop := []
  ending : Option Nat := none
  asked : Nat := 0
deriving DecidableEq, Repr, Inhabited

/-- The open levels of one group, innermost first, each a list of ranges (start, length) (R228). -/
structure SnapGroup where
  unit : SUnit := {}
  levels : List (List (Nat × Nat)) := []
deriving DecidableEq, Repr, Inhabited

/-- An arrival at the next boundary of a unit (R216). -/
structure Arrival where
  unit : SUnit := {}
  agent : Agent := .ctx 0
  time : Nat := 0
  ordn : Nat := 0
deriving DecidableEq, Repr, Inhabited

/-- A publication record (R215): the latest time published by the lease to a unit. -/
structure Pub where
  lease : Nat := 0
  unit : SUnit := {}
  time : Nat := 0
deriving DecidableEq, Repr, Inhabited

inductive NodeSt where
  | waiting
  | held (code : Nat)
  | performed (v : Option Token)
deriving DecidableEq, Repr, Inhabited

/-- Where a memory node's access is (R277, R382): its request at its tile, on its way, or at the edge interface; its reply on its way back,
or at the tile again. -/
inductive NodePos where
  | tile
  | out
  | edge
  | back
  | home
deriving DecidableEq, Repr, Inhabited

/-- A memory node's access (R277 to R279), with the number of the access in its lease: the node's place and wave fields, the element counter
of its firing, the kernel that it belongs to, the element number `addr` (none makes no access and counts for ordering; `reply` is what it then gives),
and the operand. `gone` marks one whose tile has taken a new configuration since it was sent: its access is made, and what it gives is
dropped (R51, R285). -/
structure NodeReq where
  tile : Nat := 0
  lane : Nat := 0
  step : Nat := 0
  actor : Nat := 0
  count : Nat := 0
  opc : Nat := 0
  typ : Nat := 0
  dst : Nat := 0
  reg : Nat := 0
  seq : Nat := 0
  pred : Nat := 1023
  succ : Nat := 1023
  first : Bool := false
  last : Bool := false
  kern : Nat := 0
  inst : Nat := 0
  addr : Option Nat := none
  reply : Lane := none
  data : Code := 0
  tid : Nat := 0
  st : NodeSt := .waiting
  id : Nat := 0
  pos : NodePos := .tile
  gone : Bool := false
deriving DecidableEq, Repr, Inhabited

/-- A fault waiting for a reply (R361): code, level, unit (word 1 bits [22:0]), what it stopped. -/
inductive FaultUnit where
  | region
  | engine (port : Nat)
  | node (tile lane step : Nat)
  | copy (ctx ticket : Nat)
  | packet (queue : Nat)
deriving DecidableEq, Repr, Inhabited

structure OFault where
  code : Nat := 0
  level : Nat := 0
  unit : Nat := 0
  what : FaultUnit := .region
  replied : Bool := false
  words : List Word := []
deriving DecidableEq, Repr, Inhabited

/-- Where a lease stands; `ending` lasts within the step that ends it, in which its last writes are made (R348). -/
inductive LeaseSt where
  | none
  | running
  | draining
  | freezing
  | moving
  | copying
  | frozen
  | saved
  | resuming
  | ending
deriving DecidableEq, Repr, Inhabited

/-- The LEASE work in progress (R183): issuer (a context's key plus one; 0 for the placer or a reply; 4097 + 4096 × lease +
key for a context of a lease that has been saved since), fc at which it began, the corner tile that a move or resume goes to,
whether its drain has escalated to a freeze, and whether a resume ends a relocation (R352). -/
structure Work where
  issuer : Nat := 0
  began : Nat := 0
  dest : Nat := 0
  frozen : Bool := false
  reloc : Bool := false
deriving DecidableEq, Repr, Inhabited

/-- A copy in flight (R238 to R245). `lines` are the lines it wrote on phased pages, `owed` the bytes written and
not yet reported to the barrier. -/
structure Copy where
  ctx : Nat := 0
  ticket : Nat := 0
  lease : Nat := 0
  form : Nat := 0
  desc : List Word := []
  notify : Bool := false
  bar : Bool := false
  scope : Nat := 0
  acq : Bool := false
  rel : Bool := false
  units : Nat := 0
  acqDone : Bool := false
  pause : Option Nat := none
  lines : List Nat := []
  owed : Nat := 0
deriving DecidableEq, Repr, Inhabited

/-- A saved lease's image (R371): tiles and contexts by rectangle coordinates (rect, row, col), with the keys that they had. -/
structure SavedTile where
  rect : Nat := 0
  row : Nat := 0
  col : Nat := 0
  key : Nat := 0
  tile : Tile := {}
deriving DecidableEq, Repr, Inhabited

structure SavedCtx where
  rect : Nat := 0
  row : Nat := 0
  col : Nat := 0
  key : Nat := 0
  ctx : Ctx := {}
deriving DecidableEq, Repr

structure Saved where
  tiles : List SavedTile := []
  ctxs : List SavedCtx := []
  copies : List Copy := []
  loads : List Load := []
  time : Nat := 0
deriving DecidableEq, Repr

/-- A host endpoint of a launch (R431). -/
structure Endpoint where
  ha : Nat := 0
  bytes : Nat := 0
  write : Bool := false
  fmt : Nat := 0
  blk : Nat := 0
deriving DecidableEq, Repr, Inhabited

/-- A thread waiting in an entry queue: its token, its live values, the fc of its arrival. R49 keeps the entry queues in the lease's
memory and does not say where: the model keeps them with the lease, outside memory (DESIGN CHOICE, log entry 14). -/
structure Thread where
  tok : Token := {}
  live : List Token := []
  at_ : Nat := 0
deriving DecidableEq, Repr, Inhabited

/-- A lease (R346). `depth` is that of the buffer of its LAUNCH, 0 for the ring (R431). `late` are the faults of units that came to their stop after the freeze began, in the order of their units, whose
records are still to be written (R366). `entryq` holds its entry queues, which the model keeps outside memory because R49 gives their address
nowhere (DESIGN CHOICE, log entry 14). -/
structure Lease where
  st : LeaseSt := .none
  part : Nat := 0
  cls : Nat := 0
  slot : Nat := 0
  image : Image := {}
  die : Nat := 0
  row : Nat := 0
  col : Nat := 0
  placedAt : Nat := 0
  savedAt : Nat := 0
  saveVa : Nat := 0
  saveBytes : Nat := 0
  endpoints : List Endpoint := []
  queue : Nat := 0
  seq : Nat := 0
  cmp : Bool := false
  depth : Nat := 0
  engines : Tbl Engine := []
  rings : Tbl Ring := []
  snaps : List SnapGroup := []
  arr : List Arrival := []
  nodes : List NodeReq := []
  nodeN : Nat := 0
  fired : Tbl Nat := []
  done : Tbl Nat := []
  conf : Nat := 127
  entryq : Tbl (List Thread) := []
  faults : List OFault := []
  late : List OFault := []
  work : Option Work := none
  saved : Option Saved := none
  waiting : Bool := false
  budget : Word := 0
  used : Word := 0
  limit : Word := 0
  localUse : Tbl Word := []
  prog : Nat := 0
  peers : Tbl Nat := []
  haltAt : Nat := 0
  dbg : List Nat := []
  dbgHalt : Bool := false
  haltBy : Nat := 0
  starting : Bool := false
deriving DecidableEq, Repr

/-! ### Host, partitions and package -/

/-- A handler group (R433) with the records it holds back for want of room. -/
structure HGroup where
  base : Word := 0
  cfg : Word := 0
  tail : Word := 0
  head : Word := 0
  replyst : Word := 0
  msiaddr : Word := 0
  msidata : Word := 0
  held : List (List Word) := []
deriving DecidableEq, Repr, Inhabited

/-- A mailbox (R438). `past` are the codes of the requests that it has answered since the last GET_VERSION, which the state of the
exchange follows from (R439, log entry 12). -/
structure Mailbox where
  ctl : Word := 0
  sta : Word := 0
  buf : Memory := []
  past : List Nat := []
deriving DecidableEq, Repr, Inhabited

/-- Where a processor stands in a buffer or a loop body (R430, R431). A buffer has the HA of its word 0 in `base`, its next word
in `pos` and its length in `lim`. A loop body in a buffer counts `pos` and `lim` in words of that buffer and begins at `start`;
one in the ring (`size` is the ring's) begins at ring word `start`, and `pos` counts the words of it that have gone by.
`passes` are the passes still to be run, the present one included. -/
structure PFrame where
  base : Nat := 0
  size : Nat := 0
  pos : Nat := 0
  lim : Nat := 0
  start : Nat := 0
  passes : Nat := 0
  loop : Bool := false
deriving DecidableEq, Repr, Inhabited

/-- A command queue (R426). `stack` are the buffers and loop bodies that it is in, innermost first, `top` the top-level packet
in progress (seq, op, cmp) and `pkt` the words of the packet in progress, at any depth, of which a COPY has moved `moved` bytes.
`wait` is set while that packet is a WAIT, to the fc of its timeout (0 for none), and `met` once its condition has come to hold;
`launch` while it is a LAUNCH that has not started; `fheld` while it is held by a reseller or owner fault. `fetched` are the
words fetched ahead, by HA, and `cheld` the completion entries held for want of room. -/
structure Queue where
  qbase : Word := 0
  qcfg : Word := 0
  qtail : Word := 0
  qhead : Word := 0
  cbase : Word := 0
  cring : Word := 0
  seqs : Word := 0
  qstat : Word := 0
  proc : Option Nat := none
  stack : List PFrame := []
  top : Option (Nat × Nat × Bool) := none
  pkt : List Word := []
  moved : Nat := 0
  fetched : Tbl (Option Word) := []
  cheld : List (Word × Word) := []
  wait : Option Nat := none
  met : Bool := false
  launch : Bool := false
  fheld : Option Nat := none
deriving DecidableEq, Repr, Inhabited

/-- A frame that a migration has moved out of a larger owner page, the frame that it is in now, and the page's leaf (R343). -/
structure Fwd where
  src : Nat := 0
  dst : Nat := 0
  leaf : Nat := 0
deriving DecidableEq, Repr, Inhabited

/-- `fwd` are the frames that migrations have moved out of larger owner pages (R343). -/
structure Part where
  pcfg : Word := 0
  rights : Word := 0
  hbase : Word := 0
  hlimit : Word := 0
  dietab : Word := 0
  croot : Word := 0
  rroot : Word := 0
  oroot : Word := 0
  ivaddr : Word := 0
  ivcmd : Word := 0
  ivfrom : Word := 0
  refst : Word := 0
  quar : Word := 0
  poolseg : Tbl Word := []
  poolpa : Tbl Word := []
  allot : Tbl Word := []
  hq : HGroup := {}
  dbgctl : Word := 0
  dbgdata : Word := 0
  mb : Mailbox := {}
  queues : Tbl Queue := []
  inUse : Tbl Nat := []
  await : Tbl Nat := []
  resize : Tbl Word := []
  fwd : List Fwd := []
  faults : List OFault := []
  key : Bool := false
deriving DecidableEq, Repr, Inhabited

/-- The owner page (R422). -/
structure Pkg where
  state : Nat := 0
  stage : Nat := 0
  alarmcfg : Word := 0
  asrc : Tbl Word := []
  mdig : BitVec 256 := 0
  meas : Tbl (BitVec 256) := []
  ftframe : Word := 0
  ftcmd : Word := 0
  ftbusy : Bool := false
  ftfirst : Nat := 0
  hq : HGroup := {}
  mb : Mailbox := {}
  keys : Bool := true
  alarms : List Nat := []
deriving DecidableEq, Repr, Inhabited

/-- A class-1 or class-2 packet of a memory node on the mesh (R277, R382, R392): its lease and the number of its access there, the tenant
tag of its sender, the tiles that it goes between, and the output that it takes at the last of them. -/
structure NPkt where
  lease : Nat := 0
  id : Nat := 0
  tag : Nat := 0
  src : Nat := 0
  dst : Nat := 0
  out : Nat := 0
deriving DecidableEq, Repr, Inhabited

/-- A token in a slot of a flit (R394): its link of the module (0 the first row or column, 1 the second, 2 the trunk), its class and
virtual channel, and the tile and port that it goes to. Of the request (class 1) and the reply (class 2) of a stoker's access, on the
trunk, `tile` is the context; of a system request on a Gorisk port it is the transaction number. `pkt` is a memory node's packet. -/
structure FTok where
  tile : Nat := 0
  port : Nat := 0
  link : Nat := 0
  cls : Nat := 0
  vc : Nat := 0
  tok : ChTok := {}
  pkt : Option NPkt := none
deriving DecidableEq, Repr, Inhabited

/-- A flit in a replay buffer or on the lanes (R394): its number, its tokens in slot order, the credits that it returns (channel and tokens
freed), the last flit accepted in the other direction, if any was, and the nak. -/
structure Flit where
  seq : Nat := 0
  toks : List FTok := []
  credits : List (Nat × Nat) := []
  ack : Option Nat := none
  nak : Bool := false
deriving DecidableEq, Repr, Inhabited

/-- One direction of a link (R394, R395). Of its sender: the next number, the tokens that wait for a flit, the replay buffer, the fc at
which the acknowledgements last advanced, the tokens of each channel whose credits have not come back, and those of them whose credits
are on their way. The flits on the lanes. Of its receiver: the expected number, whether it has accepted a flit, the nak mark, and
whether the nak still has to be sent. -/
structure LinkDir where
  next : Nat := 0
  out : List FTok := []
  replay : List Flit := []
  acked : Nat := 0
  used : Tbl Nat := []
  ret : Tbl Nat := []
  wire : List Flit := []
  e : Nat := 0
  heard : Bool := false
  nak : Bool := false
  nakDue : Bool := false
deriving DecidableEq, Repr, Inhabited

/-- A seam module (R393 to R398): its mstat register, its two directions, lanes found faulty, the half or quarter of its lanes in use at
width 1 or 2, the fc at which the retrain in progress began, whether that is a full-width one, and the failed retrains in a row. -/
structure SeamMod where
  mstat : Word := 0
  d0 : LinkDir := {}
  d1 : LinkDir := {}
  bad : BitVec 64 := 0
  part : Nat := 0
  retrain : Option Nat := none
  full : Bool := false
  fails : Nat := 0
deriving DecidableEq, Repr, Inhabited

/-- An outstanding system request (R413, R414): its transaction number, the requester's package number and tenant tag, the context, the
package and address asked, and what is asked, with the fc at which it was last sent and its port. -/
structure GReq where
  txn : Nat := 0
  src : Nat := 0
  tag : Nat := 0
  ctx : Nat := 0
  pkg : Nat := 0
  rpa : Nat := 0
  op : AccOp := .barExpect 0
  sent : Nat := 0
  port : Nat := 0
deriving DecidableEq, Repr, Inhabited

/-- A request of another package that has reached this one by a port (R413, R414). -/
structure GIn where
  port : Nat := 0
  src : Nat := 0
  txn : Nat := 0
  tag : Nat := 0
  pa : Nat := 0
  op : AccOp := .barExpect 0
deriving DecidableEq, Repr, Inhabited

structure GPort where
  gstat : Word := 0
  d0 : LinkDir := {}
  d1 : LinkDir := {}
deriving DecidableEq, Repr, Inhabited

/-- The damper's view of a die (R406 to R409); `slowed` says that its level has been above 0 in the present period. -/
structure DieDamp where
  demand : Nat := 0
  grant : Nat := 0
  spent : Nat := 0
  level : Nat := 0
  tick : Nat := 0
  slowed : Bool := false
deriving DecidableEq, Repr, Inhabited

/-- The fabric control region (R380) and what stands behind it. `gseen` holds, for each remote package, the transactions of this one that
it keeps, with its first replies; `gin` the requests of other packages that have arrived, oldest first, and `gdone` what this package
keeps of each source (R413). -/
structure Fab where
  conn : Tbl Word := []
  connT : Tbl Nat := []
  mods : Tbl SeamMod := []
  dcfg : Word := 0xD48
  amps : Nat := 0
  tenths : Nat := 0
  dies : Tbl DieDamp := []
  pkgid : Word := 0
  pkgidSet : Bool := false
  ports : Tbl GPort := []
  win : Tbl Word := []
  greqs : List GReq := []
  gseen : Tbl (List (Nat × AccRes)) := []
  gin : List GIn := []
  gdone : Tbl (List (Nat × AccRes)) := []
  txn : Nat := 0
deriving DecidableEq, Repr, Inhabited

/-- A frame migration in progress (R343). `pool` are the partitions of the pool lines reserved for the frame's shadows. -/
structure Migr where
  part : Nat := 0
  src : Nat := 0
  dst : Nat := 0
  pool : List Nat := []
deriving DecidableEq, Repr, Inhabited

/-- A launch that the placer has not placed yet (R346, R354): the packet's image as read, its save area and endpoints,
its seq and cmp, the time of its submission, and the depth of the buffer that it stands in. -/
structure WaitLaunch where
  part : Nat := 0
  queue : Nat := 0
  image : Image := {}
  saveVa : Nat := 0
  saveBytes : Nat := 0
  endpoints : List Endpoint := []
  seq : Nat := 0
  cmp : Bool := false
  at_ : Nat := 0
  nowait : Bool := false
  depth : Nat := 0
deriving DecidableEq, Repr, Inhabited

/-- What the placer has begun for a waiting launch (R352, R353): the launch's corner, the moves still to be made and the
leases parked in their save images, each with its corner, and the leases being worked on. -/
structure Plan where
  part : Nat := 0
  queue : Nat := 0
  dest : Nat := 0
  moves : List (Nat × Nat) := []
  parked : List (Nat × Nat) := []
  busy : List Nat := []
deriving DecidableEq, Repr, Inhabited

/-- A command processor (R425): the queue it served last. -/
structure Proc where
  last : Nat := 0
deriving DecidableEq, Repr, Inhabited

/-! ### Which unit acts next -/

/-- What happens in one step: a stoker issues (its accesses either performed within the step, or sent as requests
that later steps perform), one lane of a firing runs, a command processor starts its next packet, or a named
event or outside input takes place. -/
inductive What where
  | issue (stoker : Nat) (transit : Bool)
  | lane (tile : Nat)
  | cmd (proc : Nat)
  | event (i : Instr)
deriving DecidableEq, Repr, Inhabited

/-- An entry of the agenda: `dt` fabric cycles pass, then `what` happens. -/
structure Act where
  dt : Nat := 0
  what : What := .issue 0 false
deriving DecidableEq, Repr, Inhabited

/-- Which context, tile and word the step in progress belongs to. -/
structure Cursor where
  ctx : Nat := 0
  tile : Nat := 0
  word : Code := 0
  transit : Bool := false
deriving DecidableEq, Repr, Inhabited

/-- A unit that serves several requests of one fc in a fixed order: a barrier object (R225), a press control queue (R288), an input
queue (R181, R443), an output queue (R182), a bank (R320). -/
inductive Served where
  | bar (pa : Nat)
  | ctl (tile : Nat)
  | inq (tile q : Nat)
  | outq (tile q : Nat)
  | bank (tile : Nat)
deriving DecidableEq, Repr, Inhabited

/-- What the end of the fc still has to do: an update of a tag table by a context, a slot's entry or, for none, the whole table
(R16, R237); the dirty mark of a slot that a lane stored into; a route class masked or unmasked (R201); an event record on its
way to a queue (R204, R205). `served` notes the rank of a request that a unit has served in this fc. -/
inductive Due where
  | tag (ctx tile : Nat) (slot : Option Nat) (ent : BitVec 80)
  | stored (tile slot : Nat)
  | mask (tile rc : Nat) (on : Bool)
  | event (ctx : Nat) (w : Word)
  | served (u : Served) (rank : Nat)
deriving DecidableEq, Repr, Inhabited

structure State where
  cur : Cursor := {}
  agenda : List Act := []
  fc : Nat := 0
  ordn : Nat := 0
  freeN : Nat := 0
  ctxs : Tbl Ctx := []
  stokers : Tbl Stoker := []
  tiles : Tbl Tile := []
  flues : Tbl Flue := []
  leases : Tbl Lease := []
  loads : List Load := []
  copies : List Copy := []
  reqs : List Req := []
  mem : Memory := []
  tags : Tbl (BitVec 16) := []
  lines : Tbl LineRec := []
  relT : Tbl Nat := []
  pubs : List Pub := []
  dirty : Tbl Stale := []
  dues : List Due := []
  migrs : List Migr := []
  parts : Tbl Part := []
  host : Memory := []
  procs : Tbl Proc := []
  waitL : List WaitLaunch := []
  plans : List Plan := []
  pkg : Pkg := {}
  fab : Fab := {}
  mesh : Tbl (List NPkt) := []
  hits : Tbl Nat := []
deriving DecidableEq, Repr

/-- Reasons the machine stops. -/
inductive Fault where
  /-- Raised by MIGRATE_FRAME alone, when the frame it names lies outside PA[38:16] (R436): the spec gives the
  package no such frame. Safe: the machine stops where no effect is given. -/
  | noSuchFrame
deriving DecidableEq, Repr, Inhabited

/-- Reasons an instruction is refused by the model. -/
inductive Refusal where
  /-- An instruction whose meaning is not written yet; raised by the arms of exec alone. Safe. -/
  | notModelled (mnemonic : String)
deriving DecidableEq, Repr, Inhabited

/-- What every meaning answers with. -/
abbrev Out := Host.Outcome State Fault Refusal

/-- The package right after reset: the rails are up and no boot stage has run (R442), no partition, lease or frame
tag exists, every register holds the value its table gives, and memory lists nothing. Registers the spec gives no
reset value are zero (log entries 2 to 7). -/
def State.reset : State := {}

end Sys2Proof.Machine
end

