-- ==== Sys2Proof/Config.lean ====
section
/-! DEFINITION. What the spec leaves open or to each implementation: opaque constants, so that no proof can lean on a
value of theirs. A free value is applied to `State.freeN`, a counter of the model's own (log entry 8). -/

namespace Sys2Proof.Config

open Sys2Proof.Machine

/-- Log entry 1: which unit acts next when the agenda is empty. -/
opaque freeAct : Nat → Act

/-- Log entry 8: a free choice between two outcomes that the spec both allows. -/
opaque freeBit : Nat → Bool

/-- Log entry 8: a free choice among n outcomes. -/
opaque freeNat : Nat → Nat

/-- Log entry 8: a value the spec leaves open. -/
opaque freeWord : Nat → Word

/-- Log entry 13: hash(pkg, line of the PA) of R413, reduced modulo the number of ports that are up. -/
opaque goriskHash : Nat → Nat → Nat

/-- Log entry 13: the damper's units for one unit of work of a kind (R406); dcfg holds no costs. -/
opaque damperCost : Nat → Nat

/-- Log entry 13: whether lane repair can replace a set of faulty lanes (R396). -/
opaque laneRepair : BitVec 64 → Bool

/-- Log entry 12: the response bytes of an SPDM request: which mailbox, the codes it has answered in the exchange, the bytes of the
request, the measurement blocks of the mailbox, and whether it may sign. -/
opaque spdmResponse : Nat → List Nat → List Byte → List (BitVec 256) → Bool → List Byte

/-- Log entry 12: whether an SPDM request has a bad length or state, by the codes answered before it in the exchange (R439). -/
opaque spdmBad : List Nat → List Byte → Bool

/-- Log entry 12: the SHA-256 digest of boot image i, and whether its signature checks (R437). -/
opaque bootDigest : Nat → BitVec 256
opaque bootSigned : Nat → Bool

/-- Log entry 13: what a remote package answers to a system request: package, address, transaction, and what it asks. -/
opaque remoteReply : Nat → Nat → Nat → AccOp → AccRes

/-- Log entry 11: the bytes of a save image in a page of its area, as a number (R371). -/
opaque imageBits : Nat → Nat → Nat

/-- Log entry 14: where threads enter a basic-block configuration of an image: which of its tile records, and queue. -/
opaque threadEntry : Nat → Nat → Nat

end Sys2Proof.Config
end

