-- ==== Sys2Proof/Machine/Num.lean ====
section
/-! DEFINITION. Number formats and exact arithmetic (03 R84 to R109): the value of every code, one rounding from the
exact value, the exceptional results, integer narrowing, E8M0 scales, and the L6 format with its exact K-sums. -/

namespace Sys2Proof.Machine

/-- Rounding modes (R92). -/
inductive Rm where
  | rne
  | rtz
  | rup
  | rdn
deriving DecidableEq, Repr, Inhabited

/-- The mode of a two-bit rm code (R29). -/
def Rm.ofBits (b : BitVec 2) : Rm :=
  match b.toNat with
  | 0 => .rne
  | 1 => .rtz
  | 2 => .rup
  | _ => .rdn

/-- The exception flags of a stoker operation (R29, R95). -/
structure FFlags where
  nv : Bool := false
  dz : Bool := false
  ovf : Bool := false
  uf : Bool := false
  nx : Bool := false
deriving DecidableEq, Repr, Inhabited

def FFlags.or (x y : FFlags) : FFlags :=
  { nv := x.nv || y.nv, dz := x.dz || y.dz, ovf := x.ovf || y.ovf, uf := x.uf || y.uf, nx := x.nx || y.nx }

/-- A value: NaN, an infinity, or (−1)^neg × m × 2^e exactly; m = 0 is a signed zero. -/
inductive FV where
  | nan
  | inf (neg : Bool)
  | num (neg : Bool) (m : Nat) (e : Int)
deriving DecidableEq, Repr, Inhabited

/-- A binary float layout (R86); `inf` says that the top exponent holds infinities and NaNs (R87). -/
structure Fmt where
  ebits : Nat
  mbits : Nat
  bias : Int
  inf : Bool
deriving DecidableEq, Repr, Inhabited

namespace Fmt
def e4m3 : Fmt := { ebits := 4, mbits := 3, bias := 7, inf := false }
def e5m2 : Fmt := { ebits := 5, mbits := 2, bias := 15, inf := true }
def bf16 : Fmt := { ebits := 8, mbits := 7, bias := 127, inf := true }
def fp32 : Fmt := { ebits := 8, mbits := 23, bias := 127, inf := true }
def fp64 : Fmt := { ebits := 11, mbits := 52, bias := 1023, inf := true }

def width (f : Fmt) : Nat := 1 + f.ebits + f.mbits
/-- The sign bit's weight. -/
def signW (f : Fmt) : Nat := 2 ^ (f.ebits + f.mbits)
/-- The top exponent with a zero fraction: infinity where the format has one. -/
def topCode (f : Fmt) : Nat := (2 ^ f.ebits - 1) * 2 ^ f.mbits
/-- The largest finite magnitude code (R86, R87). -/
def maxFin (f : Fmt) : Nat := if f.inf then f.topCode - 1 else f.topCode + 2 ^ f.mbits - 2
/-- The canonical NaN (R87). -/
def canonNaN (f : Fmt) : Nat := if f.inf then f.topCode + 2 ^ (f.mbits - 1) else f.topCode + 2 ^ f.mbits - 1

/-- The value of a code (R86, R87). -/
def dec (f : Fmt) (c : Nat) : FV :=
  let neg := decide (c / f.signW % 2 = 1)
  let mag := c % f.signW
  let ex := mag / 2 ^ f.mbits
  let fr := mag % 2 ^ f.mbits
  if f.inf && f.topCode < mag then .nan
  else if f.inf && mag == f.topCode then .inf neg
  else if !f.inf && f.maxFin < mag then .nan
  else if ex = 0 then .num neg fr (1 - f.bias - f.mbits)
  else .num neg (2 ^ f.mbits + fr) ((ex : Int) - f.bias - f.mbits)

/-- Whether a code is subnormal and not zero. -/
def isSub (f : Fmt) (c : Nat) : Bool :=
  let mag := c % f.signW
  0 < mag && mag < 2 ^ f.mbits

def isNaN (f : Fmt) (c : Nat) : Bool := f.dec c == .nan

/-- The code with its sign inverted, cleared or set. -/
def signOf (f : Fmt) (c : Nat) : Bool := decide (c / f.signW % 2 = 1)
def withSign (f : Fmt) (neg : Bool) (c : Nat) : Nat := (if neg then f.signW else 0) + c % f.signW

end Fmt

/-- Whether rounding goes up in magnitude: `odd` is the kept low bit, `cmp` compares the rest with half a unit,
`inexact` says the rest is not zero (R92). -/
def roundUp (rm : Rm) (neg odd inexact : Bool) (cmp : Ordering) : Bool :=
  match rm with
  | .rne => cmp == .gt || (cmp == .eq && odd)
  | .rtz => false
  | .rup => inexact && !neg
  | .rdn => inexact && neg

/-- Compares the part below the kept bits with half a unit; `sticky` stands for a positive rest below it. -/
def restCmp (rest half : Nat) (sticky : Bool) : Ordering :=
  if rest < half then .lt else if rest > half then .gt else if sticky then .gt else .eq

/-- m × 2^(−sh), with `sticky` for a further positive rest, rounded to an integer; and whether it was inexact. -/
def roundShift (rm : Rm) (neg : Bool) (m : Nat) (sh : Int) (sticky : Bool) : Nat × Bool :=
  if sh ≤ 0 then (m * 2 ^ (-sh).toNat, sticky)
  else
    let n := sh.toNat
    let q := m / 2 ^ n
    let rest := m % 2 ^ n
    let inexact := rest != 0 || sticky
    (if roundUp rm neg (q % 2 == 1) inexact (restCmp rest (2 ^ (n - 1)) sticky) then q + 1 else q, inexact)

/-- R96: a rounded magnitude above the largest finite value. -/
def Fmt.overflow (f : Fmt) (rm : Rm) (neg : Bool) : Nat :=
  let toInf := match rm with
    | .rne => true
    | .rtz => false
    | .rup => !neg
    | .rdn => neg
  f.withSign neg (if f.inf && toInf then f.topCode else f.maxFin)

/-- R92, R94 to R96: the code nearest an exact value in the mode, and its flags. `sticky` adds a positive rest below
the last bit of m, which then has at least mbits + 3 bits. -/
def Fmt.encS (f : Fmt) (rm : Rm) (ftz : Bool) (v : FV) (sticky : Bool) : Nat × FFlags :=
  match v with
  | .nan => (f.canonNaN, {})
  | .inf neg => (f.withSign neg (if f.inf then f.topCode else f.maxFin), {})
  | .num neg m e =>
    if m = 0 then (f.withSign neg 0, {})
    else
      let qmin : Int := 1 - f.bias - f.mbits
      let q : Int := max ((Nat.log2 m : Int) + e - f.mbits) qmin
      let r := roundShift rm neg m (q - e) sticky
      let code := (q - qmin).toNat * 2 ^ f.mbits + r.1
      if f.maxFin < code then (f.overflow rm neg, { ovf := true, nx := true })
      else if code < 2 ^ f.mbits && ftz && (code != 0 || r.2) then (f.withSign neg 0, { uf := true, nx := true })
      else (f.withSign neg code, { uf := r.2 && decide (code < 2 ^ f.mbits), nx := r.2 })

def Fmt.enc (f : Fmt) (rm : Rm) (ftz : Bool) (v : FV) : Nat × FFlags := f.encS rm ftz v false

namespace FV

def isNum : FV → Bool
  | .num _ _ _ => true
  | _ => false
def isZero : FV → Bool
  | .num _ m _ => m == 0
  | _ => false
def isNeg : FV → Bool
  | .nan => false
  | .inf n => n
  | .num n _ _ => n
def neg : FV → FV
  | .nan => .nan
  | .inf n => .inf (!n)
  | .num n m e => .num (!n) m e

/-- The value times 2^k, exactly. -/
def scale (k : Int) : FV → FV
  | .num n m e => .num n m (e + k)
  | v => v

/-- The signed integer of a finite value in units of 2^e0, for e0 at most its exponent. -/
def units (e0 : Int) : FV → Int
  | .num n m e => (if n then -1 else 1) * ((m * 2 ^ (e - e0).toNat : Nat) : Int)
  | _ => 0

def expo : FV → Int
  | .num _ _ e => e
  | _ => 0

def ofInt (z : Int) : FV := .num (decide (z < 0)) z.natAbs 0

/-- Exact sum and whether it raises nv (R95). -/
def add (rm : Rm) (x y : FV) : FV × Bool :=
  match x, y with
  | .nan, _ => (.nan, false)
  | _, .nan => (.nan, false)
  | .inf n, .inf k => if n == k then (.inf n, false) else (.nan, true)
  | .inf n, _ => (.inf n, false)
  | _, .inf n => (.inf n, false)
  | .num n m e, .num k p g =>
    let e0 := min e g
    let z := units e0 (.num n m e) + units e0 (.num k p g)
    if z = 0 then
      (.num (if n == k then n else rm == .rdn) 0 e0, false)
    else (.num (decide (z < 0)) z.natAbs e0, false)

/-- Exact product and nv. -/
def mul (x y : FV) : FV × Bool :=
  match x, y with
  | .nan, _ => (.nan, false)
  | _, .nan => (.nan, false)
  | .inf n, .inf k => (.inf (n != k), false)
  | .inf n, .num k m _ => if m = 0 then (.nan, true) else (.inf (n != k), false)
  | .num k m _, .inf n => if m = 0 then (.nan, true) else (.inf (n != k), false)
  | .num n m e, .num k p g => (.num (n != k) (m * p) (e + g), false)

/-- Exact x × y + z (R106, R145). A NaN addend beside a product of 0 and an infinity raises nv: R95 has a row for each and does
not say which goes first (DESIGN CHOICE, log entry 28). -/
def fma (rm : Rm) (x y z : FV) : FV × Bool :=
  let p := mul x y
  let s := add rm p.1 z
  (s.1, p.2 || s.2)

/-- Order of two values that are no NaN; −0 equals +0. -/
def cmp (x y : FV) : Ordering :=
  match x, y with
  | .inf n, .inf k => if n == k then .eq else if n then .lt else .gt
  | .inf n, _ => if n then .lt else .gt
  | _, .inf n => if n then .gt else .lt
  | _, _ =>
    let e0 := min x.expo y.expo
    compare (units e0 x) (units e0 y)

/-- Rounds a finite value to an integer in the mode; and whether that changed it. -/
def toInt (rm : Rm) : FV → Int × Bool
  | .num n m e =>
    let r := roundShift rm n m (-e) false
    ((if n then -1 else 1) * (r.1 : Int), r.2)
  | _ => (0, false)

end FV

/-- floor(sqrt n), one bit of the root at a time from bit `k - 1` down. -/
def isqrtBits (n : Nat) : Nat → Nat → Nat
  | 0, r => r
  | k + 1, r => isqrtBits n k (if (r + 2 ^ k) * (r + 2 ^ k) ≤ n then r + 2 ^ k else r)

def isqrt (n : Nat) : Nat := isqrtBits n (Nat.log2 n / 2 + 1) 0

/-! ### Operations on codes -/

/-- R94: an input with its subnormal flushed, and whether it was flushed. -/
def Fmt.inp (f : Fmt) (ftz : Bool) (c : Nat) : FV × Bool :=
  if ftz && f.isSub c then (.num (f.signOf c) 0 0, true) else (f.dec c, false)

/-- The flags of flushed inputs (R94). -/
def flushFlags (b : Bool) : FFlags := { uf := b, nx := b }

def Fmt.done (f : Fmt) (rm : Rm) (ftz : Bool) (v : FV × Bool) (flushed : Bool) : Nat × FFlags :=
  let r := f.enc rm ftz v.1
  (r.1, (r.2.or { nv := v.2 }).or (flushFlags flushed))

def Fmt.add (f : Fmt) (rm : Rm) (ftz : Bool) (a b : Nat) : Nat × FFlags :=
  let x := f.inp ftz a
  let y := f.inp ftz b
  f.done rm ftz (FV.add rm x.1 y.1) (x.2 || y.2)

def Fmt.sub (f : Fmt) (rm : Rm) (ftz : Bool) (a b : Nat) : Nat × FFlags :=
  let x := f.inp ftz a
  let y := f.inp ftz b
  f.done rm ftz (FV.add rm x.1 y.1.neg) (x.2 || y.2)

def Fmt.mul (f : Fmt) (rm : Rm) (ftz : Bool) (a b : Nat) : Nat × FFlags :=
  let x := f.inp ftz a
  let y := f.inp ftz b
  f.done rm ftz (FV.mul x.1 y.1) (x.2 || y.2)

/-- a × b + c, or a × b − c (R145). -/
def Fmt.fma (f : Fmt) (rm : Rm) (ftz subc : Bool) (a b c : Nat) : Nat × FFlags :=
  let x := f.inp ftz a
  let y := f.inp ftz b
  let z := f.inp ftz c
  f.done rm ftz (FV.fma rm x.1 y.1 (if subc then z.1.neg else z.1)) (x.2 || y.2 || z.2)

/-- R297: a value added to an accumulator, whose own bits no flush reads; the result is flushed. -/
def Fmt.accum (f : Fmt) (ftz : Bool) (acc v : Nat) : Nat := (f.enc .rne ftz (FV.add .rne (f.dec acc) (f.dec v)).1).1

/-- R95, R145: the quotient. -/
def Fmt.div (f : Fmt) (rm : Rm) (ftz : Bool) (a b : Nat) : Nat × FFlags :=
  let x := f.inp ftz a
  let y := f.inp ftz b
  let fl := flushFlags (x.2 || y.2)
  let sgn := x.1.isNeg != y.1.isNeg
  match x.1, y.1 with
  | .nan, _ => (f.canonNaN, fl)
  | _, .nan => (f.canonNaN, fl)
  | .inf _, .inf _ => (f.canonNaN, fl.or { nv := true })
  | .inf _, _ => (f.withSign sgn f.topCode, fl)
  | _, .inf _ => (f.withSign sgn 0, fl)
  | .num _ m e, .num _ p g =>
    if p = 0 then
      if m = 0 then (f.canonNaN, fl.or { nv := true }) else (f.withSign sgn f.topCode, fl.or { dz := true })
    else
      let k := f.mbits + 4 + Nat.log2 p
      let r := f.encS rm ftz (.num sgn (m * 2 ^ k / p) (e - g - k)) (decide (m * 2 ^ k % p ≠ 0))
      (r.1, r.2.or fl)

/-- R95, R145: the square root. -/
def Fmt.sqrt (f : Fmt) (rm : Rm) (ftz : Bool) (a : Nat) : Nat × FFlags :=
  let x := f.inp ftz a
  let fl := flushFlags x.2
  match x.1 with
  | .nan => (f.canonNaN, fl)
  | .inf neg => if neg then (f.canonNaN, fl.or { nv := true }) else (f.topCode, fl)
  | .num neg m e =>
    if m = 0 then (f.withSign neg 0, fl)
    else if neg then (f.canonNaN, fl.or { nv := true })
    else
      let k := 2 * (f.mbits + 4)
      let k := if (e - k) % 2 = 0 then k else k + 1
      let n := m * 2 ^ k
      let r := isqrt n
      let s := f.encS rm ftz (.num false r ((e - k) / 2)) (decide (r * r ≠ n))
      (s.1, s.2.or fl)

/-- R146: the order of the codes that are no NaN, −0 below +0. -/
def Fmt.totalLt (f : Fmt) (a b : Nat) : Bool :=
  let x := f.dec a
  let y := f.dec b
  if x.isZero && y.isZero then f.signOf a && !f.signOf b else FV.cmp x y == .lt

/-- R146: FMIN (`max = false`) and FMAX; flags are those of flushed inputs. -/
def Fmt.minmax (f : Fmt) (ftz max : Bool) (a b : Nat) : Nat × FFlags :=
  let fa := ftz && f.isSub a
  let fb := ftz && f.isSub b
  let a := if fa then f.withSign (f.signOf a) 0 else a
  let b := if fb then f.withSign (f.signOf b) 0 else b
  let r :=
    if f.isNaN a && f.isNaN b then f.canonNaN
    else if f.isNaN a then b
    else if f.isNaN b then a
    else if max then (if f.totalLt a b then b else a)
    else (if f.totalLt b a then b else a)
  (r, flushFlags (fa || fb))

/-- The relations of compares (R148, R263). -/
inductive Rel where
  | eq
  | ne
  | lt
  | le
deriving DecidableEq, Repr, Inhabited

def Rel.holds (r : Rel) (o : Ordering) : Bool :=
  match r with
  | .eq => o == .eq
  | .ne => o != .eq
  | .lt => o == .lt
  | .le => o != .gt

/-- A float comparison; a NaN makes every relation false but `ne`. -/
def FV.rel (r : Rel) (x y : FV) : Bool :=
  if x == .nan || y == .nan then r == .ne else r.holds (FV.cmp x y)

/-- R148: a stoker compare with its flags. -/
def Fmt.compare (f : Fmt) (ftz : Bool) (r : Rel) (a b : Nat) : Bool × FFlags :=
  let x := f.inp ftz a
  let y := f.inp ftz b
  let nan := x.1 == .nan || y.1 == .nan
  (FV.rel r x.1 y.1, (flushFlags (x.2 || y.2)).or { nv := nan && r != .eq })

/-! ### Integers (R85, R88) -/

/-- The signed or unsigned range of width w. -/
def intLo (sgn : Bool) (w : Nat) : Int := if sgn then -(2 ^ (w - 1) : Nat) else 0
def intHi (sgn : Bool) (w : Nat) : Int := if sgn then (2 ^ (w - 1) - 1 : Nat) else (2 ^ w - 1 : Nat)

def clampInt (lo hi z : Int) : Int := if z < lo then lo else if hi < z then hi else z

/-- The w-bit pattern of an integer, wrapped modulo 2^w. -/
def wrapNat (w : Nat) (z : Int) : Nat := (z % (2 ^ w : Nat)).toNat

/-- The signed value of w bits. -/
def signed (w n : Nat) : Int :=
  let m := n % 2 ^ w
  if m < 2 ^ (w - 1) then (m : Int) else (m : Int) - (2 ^ w : Nat)

/-- An exact result in a w-bit pattern: clamped when `sat`, else wrapped (R88). -/
def narrow (sat sgn : Bool) (w : Nat) (z : Int) : Nat :=
  wrapNat w (if sat then clampInt (intLo sgn w) (intHi sgn w) z else z)

/-- R98: a float to an integer of a range: NaN gives 0, an infinity the nearest end; with the flags of a stoker
conversion. -/
def FV.toRange (rm : Rm) (lo hi : Int) (v : FV) : Int × FFlags :=
  match v with
  | .nan => (0, { nv := true })
  | .inf neg => (if neg then lo else hi, { nv := true })
  | .num n m e =>
    let r := FV.toInt rm (.num n m e)
    if r.1 < lo then (lo, { nv := true, nx := r.2 })
    else if hi < r.1 then (hi, { nv := true, nx := r.2 })
    else (r.1, { nx := r.2 })

/-! ### L6 (R91, R99 to R102) -/

/-- R91: T[f]. -/
def l6T (f : Nat) : Nat :=
  match f with
  | 0 => 0x10000
  | 1 => 0x13070
  | 2 => 0x16A0A
  | _ => 0x1AE8A

/-- The signed logarithm e of a code. -/
def l6E (c : Nat) : Int := signed 5 (c % 32)
def l6Sign (c : Nat) : Bool := decide (c / 32 % 2 = 1)
def l6Zero : Nat := 0x10
def l6NaR : Nat := 0x30

/-- R91: D(e) as a value. -/
def l6D (e : Int) : FV := .num false (l6T (e % 4).toNat) (e / 4 - 16)

/-- The value of an L6 code; NaR reads as NaN. -/
def l6Dec (c : Nat) : FV :=
  if c % 64 = l6Zero then .num false 0 0
  else if c % 64 = l6NaR then .nan
  else match l6D (l6E c) with
    | .num _ m e => .num (l6Sign c) m e
    | v => v

/-- The code of a sign and a logarithm. -/
def l6Code (neg : Bool) (e : Int) : Nat := (if neg then 32 else 0) + wrapNat 5 e

/-- The largest e from −15 up to −16 + n with D(e) ≤ v, if any. -/
def l6Floor (v : FV) : Nat → Option Int
  | 0 => none
  | n + 1 =>
    let e : Int := -15 + n
    if FV.cmp (l6D e) v != .gt then some e else l6Floor v n

/-- R99: a value, already divided by the destination scale, to L6. -/
def l6Enc (rm : Rm) (v : FV) : Nat :=
  match v with
  | .nan => l6NaR
  | .inf _ => l6NaR
  | .num neg m e =>
    if m = 0 then l6Zero
    else
      let y : FV := .num false m e
      let lo := l6Floor y 31
      let loV : FV := match lo with
        | some x => l6D x
        | none => .num false 0 0
      if lo = some 15 then l6Code neg 15
      else if FV.cmp loV y == .eq then
        match lo with
        | some x => l6Code neg x
        | none => l6Zero
      else
        let hi : Int := match lo with
          | some x => x + 1
          | none => -15
        let hiV := l6D hi
        -- compares y − lo with hi − y, as 2y with lo + hi
        let c := FV.cmp (y.scale 1) (FV.add .rne loV hiV).1
        let loEven : Bool := match lo with
          | some x => x % 2 == 0
          | none => true
        let up : Bool := match rm with
          | .rne => c == .gt || (c == .eq && !loEven)
          | .rtz => false
          | .rup => !neg
          | .rdn => neg
        if up then l6Code neg hi
        else match lo with
          | some x => l6Code neg x
          | none => l6Zero

/-- R101: the contribution of a product, signed; zero operands contribute nothing. -/
def l6Contribution (a b : Nat) : Int :=
  if a % 64 = l6Zero || b % 64 = l6Zero then 0
  else
    let p := l6E a + l6E b
    let c : Int := ((l6T (p % 4).toNat * 2 ^ (p / 4 + 8).toNat : Nat) : Int)
    if l6Sign a != l6Sign b then -c else c

/-- R102: the FP32 value of a K-sum under the sum of the two scales; exactly 0 gives +0.0. -/
def l6BlockFp32 (k : Int) (ssum : Int) : Nat :=
  if k = 0 then 0 else (Fmt.fp32.enc .rne false ((FV.ofInt k).scale (ssum - 254 - 24))).1

/-! ### Types by code (R61, R84, R85) -/

/-- The float layout of a type code. -/
def tyFmt (t : Nat) : Option Fmt :=
  match t with
  | 4 => some .bf16
  | 5 => some .fp32
  | 6 => some .e4m3
  | 7 => some .e5m2
  | _ => none

/-- The integer width and signedness of a type code; PAIR16 is handled by halves. -/
def tyInt (t : Nat) : Option (Nat × Bool) :=
  match t with
  | 0 => some (8, true)
  | 1 => some (16, true)
  | 2 => some (32, true)
  | 3 => some (16, false)
  | 10 => some (8, false)
  | _ => none

/-- The width of a type (R84). -/
def tyWidth (t : Nat) : Nat :=
  match t with
  | 0 => 8
  | 1 => 16
  | 2 => 32
  | 3 => 16
  | 4 => 16
  | 5 => 32
  | 6 => 8
  | 7 => 8
  | 8 => 6
  | 9 => 32
  | _ => 8

/-- R85: a lane result of w bits as a lane value: sign-extended for I8 and I16, else zero-extended. -/
def laneExt (t : Nat) (n : Nat) : Code :=
  let w := tyWidth t
  if t = 0 || t = 1 then BitVec.ofInt 32 (signed w n) else BitVec.ofNat 32 (n % 2 ^ w)

/-- The exact value of a lane value in a type under an E8M0 scale (R85, R89); integers ignore no scale here: callers
pass 127 where the scale is ignored. -/
def tyVal (t : Nat) (scale : Nat) (v : Code) : FV :=
  if scale = 0xFF then .nan
  else
    let k : Int := (scale : Int) - 127
    match tyFmt t with
    | some f => (f.dec (v.toNat % 2 ^ f.width)).scale k
    | none =>
      if t = 8 then (l6Dec (v.toNat % 64)).scale k
      else match tyInt t with
        | some (w, sg) => (FV.ofInt (if sg then signed w v.toNat else ((v.toNat % 2 ^ w : Nat) : Int))).scale k
        | none => FV.ofInt (signed 32 v.toNat)

/-- R98, R99: an exact value to a destination type, already divided by its scale. `sat` clamps integer sources;
float sources always clamp. -/
def toTy (rm : Rm) (sf fromInt : Bool) (t : Nat) (v : FV) : Nat :=
  match tyFmt t with
  | some f => (f.enc rm sf v).1
  | none =>
    if t = 8 then l6Enc rm v
    else match tyInt t with
      | some (w, sg) =>
        if fromInt then narrow sf sg w (FV.toInt .rtz v).1
        else wrapNat w (v.toRange rm (intLo sg w) (intHi sg w)).1
      | none => 0

/-- R100: floor(log2 a) of a finite non-zero value. -/
def FV.flog2 : FV → Int
  | .num _ m e => (Nat.log2 m : Int) + e
  | _ => 0

/-- R100: the scale the part chooses for a block of values. -/
def blockScale (t : Nat) (xs : List FV) : Nat :=
  if xs.any (fun x => !x.isNum) then 0xFF
  else
    let ys := xs.filter (fun x => !x.isZero)
    match ys with
    | [] => 127
    | y :: r =>
      let mx := r.foldl (fun a x => max a x.flog2) y.flog2
      let emax : Int := if t = 6 then 8 else if t = 7 then 15 else 3
      (clampInt 0 254 (mx - emax + 127)).toNat

end Sys2Proof.Machine
end

