-- ==== Sys2Proof/Machine/Ops.lean ====
section
/-! DEFINITION. The named operations over the state: sparse tables, memory, register access, coordinates, handler
queues and fault records (R71, R433), event queues (R203, R204), region freeze (R365), TAKING AN EXCEPTION (R152,
R153) and the return from one (R156), and the completion of an instruction (R48, R163). -/

/-- Bits [lo + n − 1 : lo] of a number. -/
def Sys2Proof.Machine.bits (w lo n : Nat) : Nat := w / 2 ^ lo % 2 ^ n

/-- Bits [lo + n − 1 : lo] of a word as a number. -/
def BitVec.fld {k : Nat} (w : BitVec k) (lo n : Nat) : Nat := Sys2Proof.Machine.bits w.toNat lo n

/-- The word with bits [lo + n − 1 : lo] replaced. -/
def BitVec.put {k : Nat} (w : BitVec k) (lo n v : Nat) : BitVec k :=
  BitVec.ofNat k (w.toNat - Sys2Proof.Machine.bits w.toNat lo n * 2 ^ lo + v % 2 ^ n * 2 ^ lo)

namespace Sys2Proof.Machine

/-! ### Sparse tables and memory -/

section Tables
variable {α : Type}

/-- The element at a key. -/
def Tbl.get (d : α) (t : Tbl α) (k : Nat) : α :=
  match t with
  | [] => d
  | (j, v) :: r => if j = k then v else Tbl.get d r k

/-- The table without a key. -/
def Tbl.erase (t : Tbl α) (k : Nat) : Tbl α := t.filter (fun e => e.1 != k)

/-- Inserts before the first larger key. -/
def Tbl.ins (t : Tbl α) (k : Nat) (v : α) : Tbl α :=
  match t with
  | [] => [(k, v)]
  | (j, w) :: r => if k < j then (k, v) :: (j, w) :: r else (j, w) :: Tbl.ins r k v

/-- Writes a key, keeping the canonical form: the default element is not listed. -/
def Tbl.set [DecidableEq α] (d : α) (t : Tbl α) (k : Nat) (v : α) : Tbl α :=
  if v = d then Tbl.erase t k else Tbl.ins (Tbl.erase t k) k v

/-- Keys strictly rising. -/
def Tbl.sorted (t : Tbl α) : Bool :=
  match t with
  | [] => true
  | (j, _) :: r => r.all (fun e => j < e.1) && Tbl.sorted r

/-- The canonical form: keys strictly rising, no default element listed. -/
def Tbl.wf [DecidableEq α] (d : α) (t : Tbl α) : Bool := Tbl.sorted t && t.all (fun e => e.2 ≠ d)

end Tables

/-- The canonical form of a memory: an unlisted address reads as 0 (log entry 4). -/
def Memory.wf (m : Memory) : Bool := Tbl.wf (0 : Byte) m

def Memory.read (m : Memory) (a : Nat) : Byte := Tbl.get (0 : Byte) m a
def Memory.write (m : Memory) (a : Nat) (b : Byte) : Memory := Tbl.set (0 : Byte) m a b

/-- n bytes from a, little-endian (R7). -/
def Memory.readN (m : Memory) (a : Nat) : Nat → Nat
  | 0 => 0
  | n + 1 => (m.read a).toNat + 256 * Memory.readN m (a + 1) n

/-- Writes the low n bytes of a value at a, little-endian. -/
def Memory.writeN (m : Memory) (a : Nat) : Nat → Nat → Memory
  | 0, _ => m
  | n + 1, v => Memory.writeN (m.write a (BitVec.ofNat 8 v)) (a + 1) n (v / 256)

/-- A 64-bit word of a memory. -/
def Memory.word (m : Memory) (a : Nat) : Word := BitVec.ofNat 64 (m.readN a 8)
def Memory.setWord (m : Memory) (a : Nat) (w : Word) : Memory := m.writeN a 8 w.toNat

/-- Writes a list of 64-bit words. -/
def Memory.setWords (m : Memory) (a : Nat) : List Word → Memory
  | [] => m
  | w :: r => Memory.setWords (m.setWord a w) (a + 8) r

/-! ### Fields of words -/


def boolBit (b : Bool) : Nat := if b then 1 else 0

/-- Inserts before the first element that is not smaller. -/
def insertBy {α : Type} (f : α → Nat) (x : α) : List α → List α
  | [] => [x]
  | y :: r => if f x ≤ f y then x :: y :: r else y :: insertBy f x r

/-- A list in rising order of a key; equals keep their order. -/
def sortBy {α : Type} (f : α → Nat) (l : List α) : List α := l.foldr (insertBy f) []

/-- Replaces element i of a list, if there is one. -/
def listSet {α : Type} (l : List α) (i : Nat) (x : α) : List α := l.set i x

/-! ### Reading and writing the parts of the state -/

namespace State
def ctx (s : State) (k : Nat) : Ctx := Tbl.get {} s.ctxs k
def setCtx (s : State) (k : Nat) (c : Ctx) : State := { s with ctxs := Tbl.set {} s.ctxs k c }
def modCtx (s : State) (k : Nat) (f : Ctx → Ctx) : State := s.setCtx k (f (s.ctx k))
def stoker (s : State) (k : Nat) : Stoker := Tbl.get {} s.stokers k
def setStoker (s : State) (k : Nat) (x : Stoker) : State := { s with stokers := Tbl.set {} s.stokers k x }
def tile (s : State) (k : Nat) : Tile := Tbl.get {} s.tiles k
def setTile (s : State) (k : Nat) (t : Tile) : State := { s with tiles := Tbl.set {} s.tiles k t }
def modTile (s : State) (k : Nat) (f : Tile → Tile) : State := s.setTile k (f (s.tile k))
def flue (s : State) (k : Nat) : Flue := Tbl.get {} s.flues k
def setFlue (s : State) (k : Nat) (x : Flue) : State := { s with flues := Tbl.set {} s.flues k x }
def lease (s : State) (k : Nat) : Lease := Tbl.get {} s.leases k
def setLease (s : State) (k : Nat) (l : Lease) : State := { s with leases := Tbl.set {} s.leases k l }
def modLease (s : State) (k : Nat) (f : Lease → Lease) : State := s.setLease k (f (s.lease k))
def part (s : State) (k : Nat) : Part := Tbl.get {} s.parts k
def setPart (s : State) (k : Nat) (p : Part) : State := { s with parts := Tbl.set {} s.parts k p }
def modPart (s : State) (k : Nat) (f : Part → Part) : State := s.setPart k (f (s.part k))
/-- The running context of the step, and its registers. -/
def cc (s : State) : Ctx := s.ctx s.cur.ctx
def modC (s : State) (f : Ctx → Ctx) : State := s.modCtx s.cur.ctx f
/-- The tile of the step. -/
def ct (s : State) : Tile := s.tile s.cur.tile
def modT (s : State) (f : Tile → Tile) : State := s.modTile s.cur.tile f
/-- A free choice between two outcomes (log entry 8). -/
def free (s : State) : Bool := Config.freeBit s.freeN
def drawn (s : State) : State := { s with freeN := s.freeN + 1 }
end State

/-- General register x; g0 reads as zero (R23). -/
def Ctx.rg (c : Ctx) (x : BitVec 5) : Word := if x = 0 then 0 else c.g.get x.toFin
/-- A write to general register x; one to g0 is discarded (R23, R122). -/
def Ctx.wg (c : Ctx) (x : BitVec 5) (v : Word) : Ctx :=
  if x = 0 then c else { c with g := c.g.set x.toNat v x.isLt }
def Ctx.rf (c : Ctx) (x : BitVec 5) : Word := c.f.get x.toFin
def Ctx.wf (c : Ctx) (x : BitVec 5) (v : Word) : Ctx := { c with f := c.f.set x.toNat v x.isLt }
def Ctx.ra (c : Ctx) (x : BitVec 3) : Addr := c.a.get x.toFin
def Ctx.wa (c : Ctx) (x : BitVec 3) (v : Addr) : Ctx := { c with a := c.a.set x.toNat v x.isLt }

/-! ### Requests of one fc (R31) -/

/-- Whether a unit has served, in this fc, a request that comes after one of a rank. -/
def lateFor (s : State) (u : Served) (rank : Nat) : Bool :=
  s.dues.any (fun d => match d with
    | .served v r => v == u && rank < r
    | _ => false)

/-- Notes a request that a unit serves. -/
def serve (s : State) (u : Served) (rank : Nat) : State :=
  if s.dues.contains (.served u rank) then s else { s with dues := s.dues ++ [.served u rank] }

/-- R320: in one fc a bank serves firings, then ring stops, then the press, then copies. -/
def bankRing : Nat := 1
def bankPress : Nat := 2
def bankCopy : Nat := 3

/-! ### Coordinates (R2, R4, R53) -/

def tileKey (die row col : Nat) : Nat := die * 1024 + row * 32 + col
def tileDie (k : Nat) : Nat := k / 1024
def tileRow (k : Nat) : Nat := k / 32 % 32
def tileCol (k : Nat) : Nat := k % 32
/-- Package coordinates of a tile. -/
def tilePRow (k : Nat) : Nat := 32 * (tileDie k / 4) + tileRow k
def tilePCol (k : Nat) : Nat := 32 * (tileDie k % 4) + tileCol k

/-- A router channel: input port, class and virtual channel (R381). -/
def chanKey (port cls vc : Nat) : Nat := (port * 8 + cls) * 2 + vc
/-- The tokens that a router channel holds (R381). -/
def chanCap : Nat := 4

/-- The tile at package coordinates, if they lie in the package. -/
def tileAt (r c : Int) : Option Nat :=
  if 0 ≤ r && r < 64 && 0 ≤ c && c < 128 then
    let r := r.toNat
    let c := c.toNat
    some (tileKey (r / 32 * 4 + c / 32) (r % 32) (c % 32))
  else none

/-- The stoker of a tile's block. -/
def tileStoker (k : Nat) : Nat := (tileDie k * 8 + tileRow k / 4) * 8 + tileCol k / 4
def ctxStoker (k : Nat) : Nat := k / 8
def stokerDie (st : Nat) : Nat := st / 64
def stokerBRow (st : Nat) : Nat := st / 8 % 8
def stokerBCol (st : Nat) : Nat := st % 8
def ctxDie (k : Nat) : Nat := stokerDie (k / 8)
/-- North-west tile of a stoker's block. -/
def blockTile (st : Nat) : Nat := tileKey (stokerDie st) (4 * stokerBRow st) (4 * stokerBCol st)

/-- A tile is a press tile when row and col are even: the north-west tile of its quad (R286). -/
def isPress (k : Nat) : Bool := tileRow k % 2 == 0 && tileCol k % 2 == 0

/-- The reseller and customer parts of a partition key. -/
def partR (p : Nat) : Nat := p / 32
def partC (p : Nat) : Nat := p % 32

/-- Entry i of a die table (R404): a valid entry's die. -/
def dieEnt (w : Word) (i : Nat) : Option Nat :=
  if w.fld (4 * i + 3) 1 = 1 then some (w.fld (4 * i) 3) else none

/-- The number of valid entries of a die table. -/
def dieCount (w : Word) : Nat := ((List.range 8).filter (fun i => (dieEnt w i).isSome)).length

/-- The physical die of a level-1 or level-2 partition's logical die. -/
def physDie (s : State) (p d : Nat) : Option Nat :=
  if partC p = 0 then dieEnt (s.part p).dietab d
  else match dieEnt (s.part p).dietab d with
    | none => none
    | some e => dieEnt (s.part (partR p * 32)).dietab e

/-- The logical number, at a level (0 owner, 1 reseller, 2 customer), of a physical die; the physical number where
the level's table does not hold the die. -/
def logDie (s : State) (level p phys : Nat) : Nat :=
  if level = 0 then phys
  else
    let q := if level = 1 then partR p * 32 else p
    ((List.range 8).find? (fun d => physDie s q d == some phys)).getD phys

/-! ### Scope units (R53) -/

/-- The unit of an agent at a scope. -/
def agentUnit (a : Agent) (sc : Nat) : SUnit :=
  match a with
  | .tile k =>
    if sc ≤ 4 then { scope := sc, die := tileDie k, row := tileRow k / 2 ^ sc, col := tileCol k / 2 ^ sc }
    else if sc = 5 then { scope := 5, die := tileDie k }
    else { scope := sc }
  | .ctx k =>
    let st := k / 8
    if sc ≤ 1 then { scope := sc, self := k + 1 }
    else if sc ≤ 4 then
      { scope := sc, die := stokerDie st, row := stokerBRow st / 2 ^ (sc - 2), col := stokerBCol st / 2 ^ (sc - 2) }
    else if sc = 5 then { scope := 5, die := stokerDie st }
    else { scope := sc }

/-- The unit at a wider scope that contains a unit. -/
def SUnit.lift (u : SUnit) (sc : Nat) : SUnit :=
  if sc ≤ u.scope then u
  else if u.self ≠ 0 then agentUnit (.ctx (u.self - 1)) sc
  else if u.scope ≤ 4 then
    let k := 2 ^ (sc - u.scope)
    if sc ≤ 4 then { scope := sc, die := u.die, row := u.row / k, col := u.col / k }
    else if sc = 5 then { scope := 5, die := u.die }
    else { scope := sc }
  else { scope := sc }

/-- Whether a unit contains an agent. -/
def SUnit.has (u : SUnit) (a : Agent) : Bool := agentUnit a u.scope == u

/-- Whether a unit lies inside another. -/
def SUnit.inside (u v : SUnit) : Bool := u.scope ≤ v.scope && u.lift v.scope == v

/-- The smallest scope from `sc` up, within n tries, at which one unit contains a unit and an agent. -/
def meetScope (u : SUnit) (a : Agent) (sc : Nat) : Nat → Nat
  | 0 => 6
  | n + 1 => if u.scope ≤ sc && u.lift sc == agentUnit a sc then sc else meetScope u a (sc + 1) n

/-! ### Time (R8, R345) -/

/-- Global time in ns: 1 GHz beside the 2.1 GHz fabric clock (log entry 2). -/
def timeNs (s : State) : Nat := s.fc * 10 / 21

/-! ### Host memory and handler queues (R416, R433) -/

def hostWord (s : State) (a : Nat) : Word := s.host.word a
def setHostWord (s : State) (a : Nat) (w : Word) : State := { s with host := s.host.setWord a w }

/-- The handler group of a level for a partition. -/
def hgroup (s : State) (level p : Nat) : HGroup :=
  if level = 0 then s.pkg.hq
  else if level = 1 then (s.part (partR p * 32)).hq
  else (s.part p).hq

def setHgroup (s : State) (level p : Nat) (h : HGroup) : State :=
  if level = 0 then { s with pkg := { s.pkg with hq := h } }
  else if level = 1 then s.modPart (partR p * 32) (fun q => { q with hq := h })
  else s.modPart p (fun q => { q with hq := h })

/-- The size of a handler queue in words: 2^9 to 2^20, else none (R433). -/
def HGroup.size (h : HGroup) : Nat :=
  let l := h.cfg.fld 0 5
  if 9 ≤ l && l ≤ 20 then 2 ^ l else 0

/-- R433: writes words at hqtail, wrapping. -/
def writeHqWords (s : State) (base size tail : Nat) : List Word → State
  | [] => s
  | w :: r => writeHqWords (setHostWord s (base + 8 * (tail % size)) w) base size (tail + 1) r

/-- Whether a handler queue has room for n words: one word stays free, so that full and empty differ. -/
def HGroup.room (h : HGroup) (n : Nat) : Bool :=
  let sz := h.size
  0 < sz && n + (h.tail.toNat + sz - h.head.toNat % sz) % sz < sz

/-- A 4-byte MSI write (R433). -/
def msiWrite (s : State) (h : HGroup) : State :=
  { s with host := s.host.writeN h.msiaddr.toNat 4 (h.msidata.fld 0 32) }

/-- Writes a record that the queue has room for, and raises the MSI when the queue was empty. -/
def putRecord (s : State) (level p : Nat) (ws : List Word) : State :=
  let h := hgroup s level p
  let s1 := writeHqWords s h.base.toNat h.size h.tail.toNat ws
  let s2 := setHgroup s1 level p { h with tail := BitVec.ofNat 64 ((h.tail.toNat + ws.length) % h.size) }
  if h.tail = h.head && h.cfg.fld 8 1 = 1 then msiWrite s2 h else s2

/-- Writes the records that a queue holds back while they fit, in order. -/
def flushRecords (s : State) (level p : Nat) : Nat → State
  | 0 => s
  | n + 1 =>
    let h := hgroup s level p
    match h.held with
    | [] => s
    | ws :: r =>
      if h.room ws.length then flushRecords (putRecord (setHgroup s level p { h with held := r }) level p ws) level p n
      else s

/-- R433: a record goes to the queue, or is held while the queue lacks room. -/
def postRecord (s : State) (level p : Nat) (ws : List Word) : State :=
  let h := hgroup s level p
  let s1 := setHgroup s level p { h with held := h.held ++ [ws] }
  flushRecords s1 level p (h.held.length + 1)

/-- A fault record before packing (R71); coordinates are physical. -/
structure FRec where
  code : Nat := 0
  level : Nat := 2
  list : List Word := []
  die : Nat := 0
  row : Nat := 0
  col : Nat := 0
  lane : Nat := 0
  step : Nat := 0
  stk : Bool := false
  edge : Bool := false
  atag : Nat := 0
  actor : Nat := 0
  ctxn : Nat := 0
  lease : Nat := 0
  wseq : Nat := 0x3FF
  index : Nat := 0
  tid : Nat := 0
  opa : Nat := 0
  opb : Nat := 0
  va : Nat := 0
deriving DecidableEq, Repr, Inhabited

/-- The unit bits [22:0] of word 1, with a die number already in the level's numbering. -/
def FRec.unit (r : FRec) : Nat :=
  r.die % 8 + r.row % 32 * 2 ^ 3 + r.col % 32 * 2 ^ 8 + r.lane % 8 * 2 ^ 13 + r.step % 32 * 2 ^ 16
    + boolBit r.stk * 2 ^ 21 + boolBit r.edge * 2 ^ 22

/-- The eight words of a record (R71). -/
def FRec.words (r : FRec) (now : Nat) : List Word :=
  [ BitVec.ofNat 64 (r.code % 256 + r.level % 4 * 2 ^ 8 + r.va / 2 ^ 64 % 2 ^ 16 * 2 ^ 16 + r.list.length % 2 ^ 16 * 2 ^ 32),
    BitVec.ofNat 64 r.unit,
    BitVec.ofNat 64 (r.atag % 256 + r.actor % 8 * 2 ^ 8 + r.ctxn % 8 * 2 ^ 11 + r.lease % 4096 * 2 ^ 14 + r.wseq % 1024 * 2 ^ 26),
    BitVec.ofNat 64 (r.index % 2 ^ 48 + r.tid % 2 ^ 16 * 2 ^ 48),
    BitVec.ofNat 64 r.opa, BitVec.ofNat 64 r.opb, BitVec.ofNat 64 r.va, BitVec.ofNat 64 now ] ++ r.list

/-- The record with its die numbered as the owning level numbers dies. -/
def FRec.forLevel (r : FRec) (s : State) : FRec := { r with die := logDie s r.level (s.lease r.lease).part r.die }

/-- Writes a record to its level's queue. -/
def writeFRec (s : State) (r : FRec) : State :=
  postRecord s r.level (s.lease r.lease).part ((r.forLevel s).words (timeNs s))

/-! ### Event queues (R203, R204) -/

/-- A record of R203. -/
def evWord (kind status aux src value : Nat) : Word :=
  BitVec.ofNat 64 (value % 2 ^ 32 + src % 256 * 2 ^ 32 + aux % 256 * 2 ^ 40 + status % 256 * 2 ^ 48 + kind % 256 * 2 ^ 56)

/-- Writes a record that the queue has room for. -/
def Ctx.pushEvent (c : Ctx) (w : Word) : Ctx :=
  { c with evq := c.evq ++ [w], evtail := BitVec.ofNat 64 ((c.evtail.toNat + 1) % 256) }

/-- R203: at most 255 records. -/
def Ctx.evFull (c : Ctx) : Bool := 255 ≤ c.evq.length

/-- R204: a record goes to the queue, or is held by its poster while the queue is full. -/
def Ctx.post (c : Ctx) (w : Word) : Ctx :=
  if c.st = .free then c
  else if c.evFull || !c.evheld.isEmpty then { c with evheld := c.evheld ++ [w] }
  else c.pushEvent w

/-- A record that comes before those that wait for room (R185). -/
def Ctx.postFirst (c : Ctx) (w : Word) : Ctx :=
  if c.evFull then { c with evheld := w :: c.evheld } else c.pushEvent w

/-- R204, R205: a record that reaches a context's queue is seen from the end of the fc on. -/
def postEvent (s : State) (k : Nat) (w : Word) : State :=
  if (s.ctx k).st = .free then s else { s with dues := s.dues ++ [.event k w] }

/-- The contexts of a lease, by key. -/
def leaseCtxs (s : State) (l : Nat) : List Nat :=
  (s.ctxs.filter (fun e => e.2.st != .free && e.2.lease == l)).map (fun e => e.1)

/-- The tiles of a lease, by key. -/
def leaseTiles (s : State) (l : Nat) : List Nat :=
  (s.tiles.filter (fun e => e.2.lease == some l)).map (fun e => e.1)

/-- Posts to every context of a lease, in context order. -/
def postAll (s : State) (l : Nat) (w : Word) : State :=
  (leaseCtxs s l).foldl (fun s k => postEvent s k w) s

/-- A lease whose units work: running, draining, in the drain of a move, or making its last writes; not frozen, saved or ended. -/
def Lease.live (l : Lease) : Bool := l.st == .running || l.st == .draining || l.st == .moving || l.st == .ending

/-- A lease whose units a freeze stops, and that still holds its tiles. -/
def Lease.stopping (l : Lease) : Bool := l.st == .frozen || l.st == .freezing || l.st == .copying

def leaseLive (s : State) (l : Nat) : Bool := (s.lease l).live && !(s.lease l).dbgHalt

/-! ### Region freeze (R365) -/

/-- A context's state on a freeze: FROZEN, keeping what it was (R33). -/
def Ctx.freeze (c : Ctx) : Ctx :=
  match c.st with
  | .free => c
  | .frozen => c
  | st => { c with st := .frozen, thaw := st }

/-- The end of a freeze: the state before it (R33). -/
def Ctx.thawed (c : Ctx) : Ctx := if c.st = .frozen then { c with st := c.thaw } else c

/-- The key in the checkpoint buffer of a flue reply's tokens, which enter at TREE in class 4 (R307). -/
def replyKey : Nat := (7 * 8 + 4) * 2

/-- A reply's tokens as tokens in flight that a tile holds, the last of them marked. -/
def landReply (l : Nat) : List Token → List (Nat × ChTok)
  | [] => []
  | x :: r => (replyKey, { tok := x, lease := l, rc := if r.isEmpty then 1 else 0 }) :: landReply l r

/-- R313: the replies on their way to a tile as tokens in flight that the tile holds; the flue is rid of them. -/
def Tile.landReplies (t : Tile) : Tile :=
  { t with ckpt := t.ckpt ++ t.freply.flatMap (landReply (t.lease.getD 0)), freply := [] }

/-- Applies a change to every context of a lease. -/
def modLeaseCtxs (s : State) (l : Nat) (f : Ctx → Ctx) : State :=
  (leaseCtxs s l).foldl (fun s k => s.modCtx k f) s

/-- Applies a change to every tile of a lease. -/
def modLeaseTiles (s : State) (l : Nat) (f : Tile → Tile) : State :=
  (leaseTiles s l).foldl (fun s k => s.modTile k f) s

/-- R199, R365: the beat in progress is a ring's last. -/
def Ring.lastBeat (g : Ring) : Ring := if g.st == .running && g.ending.isNone then { g with ending := some 2 } else g

/-- R365, R372: every unit of the lease stops, and replies on their way to its tiles wait at them. -/
def stopUnits (s : State) (l : Nat) (st : LeaseSt) : State :=
  (modLeaseTiles (modLeaseCtxs s l Ctx.freeze) l Tile.landReplies).modLease l (fun x =>
    { x with st := st, haltAt := s.ordn + 1, rings := x.rings.map (fun e => (e.1, e.2.lastBeat)) })

/-- The issuer code of a context of a saved lease (structure Work). -/
def savedIssuer (l k : Nat) : Nat := 4097 + 4096 * l + k
/-- The issuer code of nobody. -/
def noIssuer : Nat := 2 ^ 32

/-- R183: the completion event of LEASE work: to its issuer, wherever that context is now, or, for work of the placer, to
every context of the lease. -/
def postWork (s : State) (l : Nat) (w : Work) (ev : Word) : State :=
  if w.issuer = 0 then postAll s l ev
  else if w.issuer ≤ 4096 then postEvent s (w.issuer - 1) ev
  else if w.issuer = noIssuer then s
  else
    let m := (w.issuer - 4097) / 4096
    let k := (w.issuer - 4097) % 4096
    s.modLease m (fun x => { x with saved := x.saved.map (fun sv =>
      { sv with ctxs := sv.ctxs.map (fun c => if c.key = k then { c with ctx := c.ctx.post ev } else c) }) })

/-- The work on a lease has ended. -/
def clearWork (s : State) (l : Nat) : State := s.modLease l (fun x => { x with work := none })

/-- R377: a move ends where the lease stands; its event carries 0x15. -/
def stopMove (s : State) (l : Nat) : State :=
  clearWork (postWork s l ((s.lease l).work.getD {}) (evWord 0x08 0x15 0 0 l)) l

/-- R365: every unit of the lease stops. A fault during the drain of a move stops the move (R377). A drain in progress goes on as
a freeze, and so does a LEASE.FREEZE that has been put off for a load (log entry 11). A lease whose units are stopped
already, or that is out of the array, stays as it is. -/
def freezeRegion (s : State) (l : Nat) : State :=
  let le := s.lease l
  match le.st with
  | .none => s
  | .freezing => s
  | .copying => s
  | .frozen => s
  | .saved => s
  | .resuming => s
  | .ending => s
  | .moving => stopMove (stopUnits s l .frozen) l
  | .draining => (stopUnits s l .freezing).modLease l (fun x => { x with work := x.work.map (fun w => { w with frozen := true }) })
  | .running => stopUnits s l (if le.work.isSome then .freezing else .frozen)

/-- A record as an outstanding fault (R361). -/
def FRec.fault (r : FRec) (s : State) (what : FaultUnit) : OFault :=
  let r' := r.forLevel s
  { code := r.code, level := r.level, unit := r'.unit, what, replied := false, words := r'.words (timeNs s) }

/-- A record of an outstanding fault: kept with the lease until its reply (R361). A fault during the drain of a move stops the move
(R377). -/
def openFault (s : State) (r : FRec) (what : FaultUnit) : State :=
  let s1 := (writeFRec s r).modLease r.lease (fun l => { l with faults := l.faults ++ [r.fault s what] })
  if (s.lease r.lease).st = .moving then freezeRegion s1 r.lease else s1

/-- R365, R366: a fabric fault of a lease freezes its region and writes its record; a unit that has stopped raises none. -/
def fabricFault (s : State) (r : FRec) : State :=
  if (s.lease r.lease).live then openFault (freezeRegion s r.lease) r .region else s

/-- R366: where the unit of a fault stands among those of its freeze: by die, row, column, lane and step. -/
def OFault.place (f : OFault) : Nat :=
  (((bits f.unit 0 3 * 32 + bits f.unit 3 5) * 32 + bits f.unit 8 5) * 8 + bits f.unit 13 3) * 32 + bits f.unit 16 5

/-- R366: a fault of a unit that works or has not come to its stop yet. The one that starts the freeze writes its record at once; those of
the units that stop after it stand in the order of their units. -/
def lateFault (s : State) (r : FRec) : State :=
  if (s.lease r.lease).st = .none then s
  else if (s.lease r.lease).stopping then
    s.modLease r.lease (fun x => { x with late := sortBy OFault.place (x.late ++ [r.fault s .region]) })
  else openFault (freezeRegion s r.lease) r .region

/-- R366: the records of the units that stopped after a freeze began, once every unit has stopped. -/
def writeLate (s : State) (l : Nat) : State :=
  let le := s.lease l
  (le.late.foldl (fun s f => postRecord s f.level le.part f.words) s).modLease l (fun x =>
    { x with faults := x.faults ++ x.late, late := [] })

/-! ### Taking an exception (R152 to R156) -/

/-- R360: the owning level of a code. -/
def codeLevel (code : Nat) : Nat :=
  if code = 0x05 then 1 else if code = 0x06 || code = 0x08 then 0 else 2

/-- The record of a stoker context's fault: its block's north-west tile, stk set (R71). -/
def ctxRec (s : State) (k code level va : Nat) : FRec :=
  let t := blockTile (k / 8)
  { code, level, die := tileDie t, row := tileRow t, col := tileCol t, stk := true, ctxn := k % 8,
    lease := (s.ctx k).lease, va }

/-- R152, R153: the context becomes FROZEN at the instruction, the region freezes, and the record goes to the level; `va` is the
fault's VA, 0 where it has none (R71). -/
def freezeCtx (s : State) (k code level va : Nat) : State :=
  lateFault s (ctxRec s k code level va)

/-- Trap entry (R152): cause, tval and status are written and pc goes to tvec; epc holds pc, which is the REP prefix
inside a REP. A context that waits is READY in its handler; one that a freeze holds is so when the
freeze ends. -/
def Ctx.enter (c : Ctx) (code level : Nat) (async : Bool) (tval tvalh : Word) : Ctx :=
  let ie := c.status.fld 0 1
  { c with
    epc := c.pc
    cause := BitVec.ofNat 64 (boolBit async * 2 ^ 63 + level * 2 ^ 8 + code)
    tval, tvalh
    status := ((c.status.put 1 1 ie).put 0 1 0).put 2 1 1
    pc := c.tvec
    repOn := false
    wait := none
    busy := none
    st := if c.st = .frozen then .frozen else .ready
    thaw := if c.st = .frozen then .ready else c.thaw }

/-- R152: whether a synchronous trap enters the handler: one in a trap, or without a handler, freezes the region instead. -/
def Ctx.traps (c : Ctx) : Bool := c.status.fld 2 1 == 0 && c.tvec != 0

/-- R152: a synchronous trap of a customer-owned code. -/
def trapSync (s : State) (k code : Nat) (tval tvalh : Word) (va : Nat := 0) : State :=
  let c := s.ctx k
  if c.status.fld 2 1 = 1 then freezeCtx s k code (codeLevel code) va
  else if c.tvec = 0 then freezeCtx s k code 2 va
  else s.setCtx k (c.enter code 2 false tval tvalh)

/-- R153: a synchronous fault goes to the level that owns its code. -/
def fault (s : State) (k code : Nat) (tval tvalh : Word) (va : Nat := 0) : State :=
  if codeLevel code = 2 then trapSync s k code tval tvalh va
  else freezeCtx s k code (codeLevel code) va

/-- A fault whose tval, tvalh and record hold a VA (R71, R137). -/
def faultVa (s : State) (k code va : Nat) : State :=
  fault s k code (BitVec.ofNat 64 va) (BitVec.ofNat 64 (va / 2 ^ 64)) va

/-- R154: the condition of an asynchronous event trap. -/
def Ctx.asyncDue (c : Ctx) : Bool :=
  c.status.fld 0 1 == 1 && c.tvec != 0 && (c.st == .ready || c.st == .waiting) && c.busy == none && !c.evq.isEmpty

/-- R154: takes it. -/
def Ctx.asyncTrap (c : Ctx) : Ctx := c.enter 0 2 true 0 0

/-- The fault of the running context. -/
def raise (s : State) (code : Nat) (tval tvalh : Word) : State := fault s s.cur.ctx code tval tvalh

/-- A fault with a VA (R137). -/
def raiseVa (s : State) (code va : Nat) : State := faultVa s s.cur.ctx code va

/-- A decode failure (R116): tval holds the word. -/
def raiseIll (s : State) : State := raise s 0x01 (BitVec.ofNat 64 s.cur.word.toNat) 0

/-- R166, R169, R211: a register operand out of order traps with 0x07, tval holding it. -/
def raiseOp (s : State) (v : Word) : State := raise s 0x07 v 0

/-! ### Completion (R48, R155, R163) -/

/-- The debug level of a lease: the attached level with the highest number (R155). -/
def debugLevel (s : State) (l : Nat) : Option Nat :=
  let d := (s.lease l).dbg
  if d.contains 2 then some 2 else if d.contains 1 then some 1 else if d.contains 0 then some 0 else none

/-- R33, R378: a debugger's halt of a context. One that a freeze holds is HALTED when the freeze ends. -/
def Ctx.dbgStop (c : Ctx) (level : Nat) : Ctx :=
  if c.dbgHalt then { c with haltBy := level }
  else if c.st = .frozen then { c with thaw := .halted, dbgPrev := c.thaw, dbgHalt := true, haltBy := level }
  else { c with st := .halted, dbgPrev := c.st, dbgHalt := true, haltBy := level }

/-- R378: a debugger's resume of a context: the state that it had. -/
def Ctx.dbgGo (c : Ctx) : Ctx :=
  let b := { c with dbgHalt := false, dbgAll := false }
  if !c.dbgHalt then c
  else if c.st = .halted then { b with st := c.dbgPrev }
  else if c.st = .frozen && c.thaw = .halted then { b with thaw := c.dbgPrev }
  else b

/-- R155: a stop for the debugger: HALTED with the cause, and a record to the level. -/
def debugStop (s : State) (k code level : Nat) : State :=
  let s1 := s.modCtx k (fun c => { c.dbgStop level with cause := BitVec.ofNat 64 (level * 2 ^ 8 + code) })
  writeFRec s1 (ctxRec s k code level 0)

/-- The lease of the running context makes progress (R367). -/
def progress (s : State) (l : Nat) : State := s.modLease l (fun x => { x with prog := 0 })

/-- R163: the repeat in progress has completed: the next repeat, or past the pair of words. -/
def Ctx.repNext (c : Ctx) : Ctx :=
  let nx := c.repstate.fld 0 6
  if nx < c.repstate.fld 6 6 then { c with repstate := c.repstate.put 0 6 (nx + 1) }
  else { c with repstate := c.repstate.put 31 1 0, status := c.status.put 4 1 0, repOn := false, pc := c.pc + 8 }

/-- A REP that is given up at its prefix: repstate.active and status.rep clear (R156, R166). -/
def Ctx.repClear (c : Ctx) : Ctx := { c with repOn := false, repstate := c.repstate.put 31 1 0, status := c.status.put 4 1 0 }

/-- pc past the instruction: the next word, or the next repeat. -/
def Ctx.past (c : Ctx) : Ctx := if c.repOn then c.repNext else { c with pc := c.pc + 4 }

/-- A context's completion: no instruction is in flight any more. -/
def Ctx.idle (c : Ctx) : Ctx := { c with busy := none, wait := none, st := if c.st = .waiting then .ready else c.st }

/-- What a context is when no freeze holds it. -/
def Ctx.beneath (c : Ctx) : CtxSt := if c.st = .frozen then c.thaw else c.st

/-- R27, R155: single-step stops the context after a completed instruction, a freeze or its own HALT notwithstanding (R160); with no
level attached it traps (R27), which a halted context does not. -/
def stepStop (s : State) (k : Nat) : State :=
  let c := s.ctx k
  if c.status.fld 3 1 = 1 && !c.dbgHalt && (c.beneath = .ready || c.beneath = .halted) then
    match debugLevel s c.lease with
    | some lv => debugStop s k 0x16 lv
    | none => if c.beneath = .ready then trapSync s k 0x16 0 0 else s
  else s

/-- The end of an instruction of context k: the change f of the context, progress, and the step stop. -/
def complete (s : State) (k : Nat) (f : Ctx → Ctx) : State :=
  let s1 := s.modCtx k (fun c => (f c).idle)
  stepStop (progress s1 (s.ctx k).lease) k

/-- An instruction of the running context that falls through, after writing registers by f. -/
def retire (s : State) (f : Ctx → Ctx) : State := complete s s.cur.ctx (fun c => (f c).past)

/-- An instruction of the running context that sets pc itself. -/
def retireTo (s : State) (pc : Word) (f : Ctx → Ctx) : State :=
  complete s s.cur.ctx (fun c => { f c with pc := pc })

/-- Writes one general register and completes. -/
def retireG (s : State) (d : BitVec 5) (v : Word) : State := retire s (fun c => c.wg d v)

/-- R156: return from an exception, once intrap is known to be set. -/
def Ctx.eret (c : Ctx) : Ctx :=
  let pie := c.status.fld 1 1
  { c with
    status := ((c.status.put 0 1 pie).put 2 1 0).put 4 1 (c.repstate.fld 31 1)
    pc := c.epc
    repOn := c.repstate.fld 31 1 == 1
    repW := none }

end Sys2Proof.Machine
end

