-- ==== Sys2Proof/Machine/Link.lean ====
section
/-! DEFINITION. The link layer of a seam module and of a Gorisk port: flits, credits, acknowledgements and replay (12 R394, R395, R410). A
link has two directions; the flits of one carry the acknowledgements and credits of the other. -/

namespace Sys2Proof.Machine

/-- R394: the slots and the credit returns of a flit, and the tokens that a receiving channel of a module holds. -/
def flitSlots : Nat := 38
def flitReturns : Nat := 8
def seamCredits : Nat := 32

/-- R394: the channel of a token on a module: link, class and virtual channel. -/
def linkChan (link cls vc : Nat) : Nat := link * 16 + cls * 2 + vc
def FTok.channel (x : FTok) : Nat := linkChan x.link x.cls x.vc

/-! ### The sender (R394, R395) -/

/-- The flits from a number on. -/
def fromSeq (seq : Nat) : List Flit → List Flit
  | [] => []
  | f :: r => if f.seq = seq then f :: r else fromSeq seq r

/-- The flits after an acknowledged one. -/
def afterSeq (seq : Nat) : List Flit → List Flit
  | [] => []
  | f :: r => if f.seq = seq then r else afterSeq seq r

/-- The tokens of a direction that its receiver has not accepted, in order. -/
def LinkDir.undelivered (d : LinkDir) : List FTok := (fromSeq d.e d.replay).flatMap (fun f => f.toks) ++ d.out

/-- Those of a channel, by number. -/
def LinkDir.onTheWay (d : LinkDir) (c : Nat) : Nat := (d.undelivered.filter (fun x => x.channel == c)).length

/-- A token goes to the sender. -/
def LinkDir.take (d : LinkDir) (x : FTok) : LinkDir :=
  { d with out := d.out ++ [x], used := Tbl.set 0 d.used x.channel (Tbl.get 0 d.used x.channel + 1) }

/-- R394: a token goes to the sender, against a credit of its channel. -/
def LinkDir.send (d : LinkDir) (x : FTok) : Option LinkDir :=
  if seamCredits ≤ Tbl.get 0 d.used x.channel then none else some (d.take x)

/-- R394: the credits that the receiver of a direction has to return: of each channel the tokens that it has freed. `held` are the tokens
that stand in the channel. -/
def LinkDir.freed (d : LinkDir) (held : Nat → Nat) : List (Nat × Nat) :=
  ((d.used.map (fun e => (e.1, e.2 - d.onTheWay e.1 - held e.1 - Tbl.get 0 d.ret e.1))).filter (fun e => e.2 != 0)).take flitReturns

/-- The last flit that the receiver of a direction has accepted. -/
def LinkDir.ackNow (d : LinkDir) (mod : Nat) : Option Nat := if d.heard then some ((d.e + mod - 1) % mod) else none

/-- Adds counts to a table. -/
def addTo (t : Tbl Nat) (cs : List (Nat × Nat)) : Tbl Nat := cs.foldl (fun t e => Tbl.set 0 t e.1 (Tbl.get 0 t e.1 + e.2)) t
/-- Takes counts from a table. -/
def takeFrom (t : Tbl Nat) (cs : List (Nat × Nat)) : Tbl Nat := cs.foldl (fun t e => Tbl.set 0 t e.1 (Tbl.get 0 t e.1 - e.2)) t

/-- R394, R395: direction d sends its next flit, if its replay buffer has room; r is the other direction, which the flit acknowledges. -/
def fillFlit (lim mod fc : Nat) (held : Nat → Nat) (d r : LinkDir) : Option (LinkDir × LinkDir) :=
  if lim ≤ d.replay.length then none
  else
    let f : Flit :=
      { seq := d.next, toks := d.out.take flitSlots, credits := r.freed held, ack := r.ackNow mod, nak := r.nakDue }
    some ({ d with next := (d.next + 1) % mod, out := d.out.drop flitSlots, replay := d.replay ++ [f], wire := d.wire ++ [f]
                   acked := if d.replay.isEmpty then fc else d.acked },
      { r with ret := addTo r.ret f.credits, nakDue := false })

/-- R395: every flit not acknowledged goes again, in order, with the acknowledgement as it is now. -/
def LinkDir.again (d r : LinkDir) (mod : Nat) : LinkDir :=
  { d with wire := d.wire ++ d.replay.map (fun f => { f with ack := r.ackNow mod, nak := false }) }

/-! ### The receiver (R395) -/

/-- What the sender of r learns from a flit of d: an acknowledgement, and a nak, after which it sends again. -/
def LinkDir.hear (r d : LinkDir) (mod fc : Nat) (f : Flit) : LinkDir :=
  let r1 := match f.ack with
    | some a => if r.replay.any (fun g => g.seq == a) then { r with replay := afterSeq a r.replay, acked := fc } else r
    | none => r
  if f.nak then r1.again d mod else r1

/-- What a receiver makes of the flit at the head of the lanes. -/
structure Heard where
  d : LinkDir := {}
  r : LinkDir := {}
  toks : List FTok := []
  replays : Bool := false
deriving DecidableEq, Repr, Inhabited

/-- CRC good: the flit is accepted, with its tokens and credits, or discarded; its acknowledgement counts either way (log entry 17). -/
def receiveGood (mod fc : Nat) (d r : LinkDir) : Heard :=
  match d.wire with
  | [] => { d, r }
  | f :: w =>
    let r1 := r.hear d mod fc f
    let replays := f.nak && !r1.replay.isEmpty
    if f.seq = d.e then
      { d := { d with wire := w, e := (d.e + 1) % mod, nak := false, heard := true }
        r := { r1 with used := takeFrom r1.used f.credits, ret := takeFrom r1.ret f.credits }, toks := f.toks, replays }
    else { d := { d with wire := w }, r := r1, replays }

/-- CRC bad: the flit is discarded; the first time since the last accepted one, a nak is due. -/
def LinkDir.reject (d : LinkDir) : LinkDir := { d with wire := d.wire.drop 1, nak := true, nakDue := d.nakDue || !d.nak }

/-- R395: whether acknowledgements have not advanced for 512 fc. -/
def LinkDir.overdue (d : LinkDir) (fc : Nat) : Bool := !d.replay.isEmpty && d.acked + 512 ≤ fc

/-- R395: the sender sends again from its oldest flit. -/
def LinkDir.timeout (d r : LinkDir) (mod fc : Nat) : LinkDir := { d.again r mod with acked := fc }

/-- The tokens of a direction that a condition keeps. -/
def LinkDir.keep (d : LinkDir) (p : FTok → Bool) : LinkDir :=
  let f (x : Flit) : Flit := { x with toks := x.toks.filter p }
  { d with out := d.out.filter p, replay := d.replay.map f, wire := d.wire.map f }

/-- Adds one to a saturating 16-bit field. -/
def bump16 (w : Word) (lo : Nat) : Word := w.put lo 16 (min (w.fld lo 16 + 1) 65535)

end Sys2Proof.Machine
end

