-- ==== Sys2Proof/Machine/Carry.lean ====
section
/-! DEFINITION. The way between dies (12 R382, R385, R393 to R397, R399, R403): seam modules, circuits, flits sent, and the packets of stoker
accesses on their way. -/

namespace Sys2Proof.Machine

/-! ### Seams and their modules (R393, R396) -/

/-- The seam between two neighbouring dies, and whether the first is its lower end (R393). -/
def seamOf (a b : Nat) : Option (Nat × Bool) :=
  let up (x y : Nat) : Option Nat :=
    if y = x + 1 && x % 4 ≠ 3 then some (3 * (x / 4) + x % 4) else if y = x + 4 && x < 4 then some (6 + x) else none
  match up a b with
  | some n => some (n, true)
  | none => (up b a).map (fun n => (n, false))

/-- The two dies of a seam. -/
def seamDies (n : Nat) : Nat × Nat := if n < 6 then (4 * (n / 3) + n % 3, 4 * (n / 3) + n % 3 + 1) else (n - 6, n - 2)

def seamMod (s : State) (k : Nat) : SeamMod := Tbl.get {} s.fab.mods k
def setSeamMod (s : State) (k : Nat) (m : SeamMod) : State :=
  { s with fab := { s.fab with mods := Tbl.set {} s.fab.mods k m } }

/-- Direction 0 goes out of the lower die. -/
def SeamMod.dir (m : SeamMod) (d : Nat) : LinkDir := if d = 0 then m.d0 else m.d1
def SeamMod.setDir (m : SeamMod) (d : Nat) (x : LinkDir) : SeamMod := if d = 0 then { m with d0 := x } else { m with d1 := x }

/-! ### Modules that carry (R396, R397, R399) -/

def SeamMod.width (m : SeamMod) : Nat := m.mstat.fld 6 2
def SeamMod.live (m : SeamMod) : Bool := m.width != 3

/-- Whether all modules of a seam are down (R399). -/
def seamIsDown (s : State) (n : Nat) : Bool := (List.range 16).all (fun m => !(seamMod s (n * 16 + m)).live)

/-- R397: the module that carries a module's links: itself, or the lowest-numbered live one above it, wrapping. -/
def carrier (s : State) (k : Nat) : Option Nat :=
  let n := k / 16
  let m := k % 16
  if (seamMod s k).live then some k
  else
    let ls := (List.range 16).filter (fun i => (seamMod s (n * 16 + i)).live)
    ((ls.filter (fun i => m < i)).head?.orElse (fun _ => ls.head?)).map (fun i => n * 16 + i)

/-- The seams on a detour path (R399). -/
def detourSeams (n : Nat) : List Nat :=
  let d := seamDies n
  let path : List Nat :=
    if n < 6 then (if n < 3 then [d.1, d.1 + 4, d.1 + 5, d.2] else [d.1, d.1 - 4, d.1 - 3, d.2])
    else if d.1 < 3 then [d.1, d.1 + 1, d.1 + 5, d.2] else [3, 2, 6, 7]
  (path.zip (path.drop 1)).filterMap (fun p => (seamOf p.1 p.2).map (fun x => x.1))

/-- R401, R403: the circuits that are up from one die to another for a class and take new packets, by entry. -/
def serving (s : State) (a b cls : Nat) : List Nat :=
  (s.fab.conn.filter (fun e => e.2.fld 61 2 == 2 && e.2.fld 63 1 == 1 && e.2.fld 32 3 == a && e.2.fld 35 3 == b
    && e.2.fld (48 + cls) 1 == 1)).map (fun e => e.1)

/-- Whether circuits for class 5 join the dies of a seam both ways (R399). -/
def detourLit (s : State) (n : Nat) : Bool :=
  let d := seamDies n
  !(serving s d.1 d.2 5).isEmpty && !(serving s d.2 d.1 5).isEmpty

/-- R399: whether the flits of a seam that is down reach the other end: by the detour path, or by circuits for class 5. -/
def detourUp (s : State) (n : Nat) : Bool := (detourSeams n).all (fun x => !seamIsDown s x) || detourLit s n

/-- Whether a module carries flits now, its own or those that it has taken over: it is up and does not retrain (R396). -/
def carries (s : State) (k : Nat) : Bool :=
  match carrier s k with
  | some c => (seamMod s c).retrain.isNone
  | none => false

/-- Whether a module's flits move now: over the module that carries them, or, of a seam that is down, as class-5 packets over the modules
of the same number on its detour path or over circuits (R397, R399, log entry 17). -/
def flitsMove (s : State) (k : Nat) : Bool :=
  carries s k || ((carrier s k).isNone
    && (detourLit s (k / 16) || (detourSeams (k / 16)).all (fun n => carries s (n * 16 + k % 16))))

/-! ### Requests and replies (R382, R385, R393) -/

/-- R385: the next die on the way from one to another: along the die columns first, then along the die rows. -/
def nextDie (a b : Nat) : Nat :=
  if a % 4 < b % 4 then a + 1 else if b % 4 < a % 4 then a - 1 else if a < b then a + 4 else a - 4

/-- R385, R393: the crossings from one die to another, each 2 × module + direction; every line keeps its module. -/
def crossings (sel b : Nat) : Nat → Nat → List Nat
  | _, 0 => []
  | a, f + 1 =>
    if a = b then []
    else match seamOf a (nextDie a b) with
      | some (n, up) => (2 * (16 * n + sel) + (if up then 0 else 1)) :: crossings sel b (nextDie a b) f
      | none => []

/-- The home die of a PA. -/
def homeDie (pa : Nat) : Nat := pa / 2 ^ 36 % 8

/-- The crossing that stands for the circuit of a connection entry. -/
def circuitHop (e : Nat) : Nat := 320 + e

/-- R403, R385: the way of a trunk packet of class 1 or 2 for a line: among the circuits that serve it the one that PA[10:7]
chooses, else seam by seam (R393: the module is PA[10:7]). -/
def trunkWay (s : State) (a b cls pa : Nat) : List Nat :=
  let cs := serving s a b cls
  match cs[bits pa 7 4 % cs.length]? with
  | some e => [circuitHop e]
  | none => crossings (bits pa 7 4) b a 4

/-- The class of an access's packet: 1 for the request, 2 for the reply. -/
def Req.cls (r : Req) : Nat := if r.res.isNone then 1 else 2

/-- The dies that a packet goes between. -/
def Req.ends (r : Req) : Nat × Nat := if r.res.isNone then (ctxDie r.ctx, homeDie r.pa) else (homeDie r.pa, ctxDie r.ctx)

/-- R323, R399: whether a way can be crossed now. -/
def wayOpen (s : State) (way : List Nat) : Bool := way.all (fun h => 320 ≤ h || flitsMove s (h / 2))

/-- R393, R403: whether a packet of a class that crosses a way at once overtakes none: none sent before it stands at one of its
crossings, and none of its pair of dies is held back, or still on a path from before the circuits changed. -/
def wayClear (s : State) (a b cls : Nat) (way : List Nat) : Bool :=
  s.reqs.all (fun q => q.cls != cls || (!(match q.way.head? with
    | some h => way.contains h
    | none => false)
    && (q.ends != (a, b) || (!q.held && (q.way.isEmpty || q.via == serving s a b cls)))))

/-- Whether a packet of class 1 or 2 for a line crosses now, behind all that were sent before it. -/
def crosses (s : State) (a b cls pa : Nat) : Bool :=
  let way := trunkWay s a b cls pa
  wayOpen s way && wayClear s a b cls way

/-- R323: whether an access of a unit on a die reaches a line's home, and its reply the die. The accesses of engines, nodes,
copies and fetches cross within their step (log entry 26). -/
def reaches (s : State) (die pa : Nat) : Bool := crosses s die (homeDie pa) 1 pa && crosses s (homeDie pa) die 2 pa

/-- R393, R403: the way of a trunk packet of class 4 to a stoker's block: the first circuit that serves it, else seam by seam, on the
module that the block's index chooses. -/
def ctlWay (s : State) (a b blk : Nat) : List Nat :=
  match serving s a b 4 with
  | e :: _ => [circuitHop e]
  | [] => crossings (blk % 16) b a 4

/-- R399, R403: whether packets of class 4 pass now from one stoker's block to another and back. They cross within the step that sends
them (log entry 26). -/
def blocksMeet (s : State) (x y : Nat) : Bool :=
  wayOpen s (ctlWay s (stokerDie x) (stokerDie y) y) && wayOpen s (ctlWay s (stokerDie y) (stokerDie x) x)

/-- R2, R399: whether a link between neighbouring tiles can be crossed now: within a die, or over the seam module of its row or column. -/
def linkOpen (s : State) (j k : Nat) : Bool :=
  match seamOf (tileDie j) (tileDie k) with
  | none => true
  | some (n, _) => flitsMove s (n * 16 + (if n < 6 then tileRow j else tileCol j) / 2)

/-- R403: whether a new packet is held at its source die: one of its pair and class is on its way by a path that was chosen
before the circuits changed. -/
def oldPath (s : State) (r : Req) : Bool :=
  s.reqs.any (fun q => !q.held && !q.way.isEmpty && q.cls == r.cls && q.ends == r.ends
    && q.via != serving s r.ends.1 r.ends.2 r.cls)

/-- Whether an earlier packet of the pair and class is held. -/
def heldBehind (s : State) (r : Req) : Bool :=
  s.reqs.any (fun q => q.held && q.cls == r.cls && q.ends == r.ends && q.ctx != r.ctx)

/-- R403: a packet sets out. -/
def Req.launch (s : State) (r : Req) : Req :=
  { r with held := false, via := serving s r.ends.1 r.ends.2 r.cls, way := trunkWay s r.ends.1 r.ends.2 r.cls r.pa }

/-- R403: a new packet sets out, or is held. -/
def Req.setOut (s : State) (r : Req) : Req :=
  if oldPath s r || heldBehind s r then { r with held := true, way := [] } else r.launch s

/-- The token that stands in a flit for a packet of an access. -/
def Req.mark (r : Req) : FTok := { tile := r.ctx, link := 2, cls := r.cls }

/-- A packet that goes on leaves the receiving channel in which it stood. -/
def leaveChannel (s : State) (r : Req) : State :=
  { s with reqs := s.reqs.map (fun q => if q.ctx = r.ctx then { q with came := none } else q) }

/-- Sends the packet of an access over its next seam, if it is not on its way there and its channel has a credit. -/
def sendReq (s : State) (r : Req) : State :=
  match r.way with
  | [] => s
  | h :: _ =>
    if 320 ≤ h then s
    else
    let m := seamMod s (h / 2)
    let d := m.dir (h % 2)
    if d.undelivered.contains r.mark then s
    else match d.send r.mark with
      | none => s
      | some d' =>
        let t := setSeamMod s (h / 2) (m.setDir (h % 2) d')
        if r.came.isSome then leaveChannel t r else t

/-- R403: the held packets set out, in order, once no packet is on an old path. -/
def releaseReqs (s : State) : State :=
  (List.range s.reqs.length).foldl (fun s i => match s.reqs[i]? with
    | none => s
    | some r => if r.held && !oldPath s r then { s with reqs := s.reqs.set i (r.launch s) } else s) s

/-- Packets that have waited go: held ones, and those that found no credit. -/
def pumpReqs (s : State) : State :=
  let s1 := releaseReqs s
  s1.reqs.foldl sendReq s1

/-- Packet i has made its next crossing. A request that has reached its home stands behind those that reached it before
(R222). -/
def crossReq (s : State) (i : Nat) : State :=
  match s.reqs[i]? with
  | none => s
  | some r =>
    let way := r.way.drop 1
    let r1 := { r with way, came := if way.isEmpty then none else r.way.head? }
    if r1.way.isEmpty && r1.res.isNone then { s with reqs := s.reqs.eraseIdx i ++ [r1] }
    else { s with reqs := s.reqs.set i r1 }

/-- A packet has crossed a seam. -/
def crossed (s : State) (x : FTok) : State :=
  match s.reqs.findIdx? (fun r => r.ctx == x.tile && r.way != [] && r.mark == x) with
  | none => s
  | some i => crossReq s i

/-- What the flits of every seam module still hold, of the tokens that a condition keeps. -/
def keepToks (s : State) (p : FTok → Bool) : State :=
  { s with fab := { s.fab with mods := s.fab.mods.map (fun e => (e.1, { e.2 with d0 := e.2.d0.keep p, d1 := e.2.d1.keep p })) } }

/-- The packets of some contexts leave the seams (R348). -/
def stripReqs (s : State) (cs : List Nat) : State := keepToks s (fun y => !(y.link == 2 && cs.contains y.tile))

end Sys2Proof.Machine
end

