-- ==== Sys2Proof/Machine/Complete.lean ====
section
/-! DEFINITION. Command queues as far as every unit needs them: completion entries, seqs, and the stop of a queue (13 R426 to R429). -/

namespace Sys2Proof.Machine

/-- A command queue of a partition. -/
def cq (s : State) (p q : Nat) : Queue := Tbl.get {} (s.part p).queues q
def setCq (s : State) (p q : Nat) (x : Queue) : State :=
  s.modPart p (fun r => { r with queues := Tbl.set {} r.queues q x })
def modCq (s : State) (p q : Nat) (f : Queue → Queue) : State := setCq s p q (f (cq s p q))

/-- Fields of a queue's registers (R426). -/
def Queue.ringSize (x : Queue) : Nat := 2 ^ x.qcfg.fld 0 5
def Queue.compSize (x : Queue) : Nat := 2 ^ x.qcfg.fld 8 5
def Queue.cmsi (x : Queue) : Bool := x.qcfg.fld 17 1 == 1
def Queue.st (x : Queue) : Nat := x.qstat.fld 0 2
def Queue.lastacc (x : Queue) : Nat := x.seqs.fld 0 32
def Queue.ctail (x : Queue) : Nat := x.cring.fld 0 16
def Queue.chead (x : Queue) : Nat := x.cring.fld 16 16

/-- R431: whether n bytes at an HA lie in the partition's host range. -/
def inHost (s : State) (p a n : Nat) : Bool := (s.part p).hbase.toNat ≤ a && a + n ≤ (s.part p).hlimit.toNat

/-- R428: the completion ring is full. -/
def Queue.compFull (x : Queue) : Bool := (x.ctail + 1) % x.compSize == x.chead % x.compSize

/-- R428: writes a completion entry that the ring has room for; one into an empty ring raises the MSI. -/
def writeCompletion (s : State) (p q : Nat) (e : Word × Word) : State :=
  let x := cq s p q
  let a := x.cbase.toNat + 16 * x.ctail
  let s1 := setHostWord (setHostWord s a e.1) (a + 8) e.2
  let s2 := setCq s1 p q { x with cring := x.cring.put 0 16 ((x.ctail + 1) % x.compSize) }
  if x.cmsi && x.ctail == x.chead then msiWrite s2 (hgroup s2 2 p) else s2

/-- Whether the next completion entry lies in the partition's host range, which may have been set anew since the queue was enabled. -/
def compIn (s : State) (p : Nat) (x : Queue) : Bool := inHost s p (x.cbase.toNat + 16 * x.ctail) 16

/-- R431: a queue whose ring or completion ring has come to lie outside the host range stops with 0x44 at seq lastacc (DEDUCED, log
entry 24). -/
def Queue.breached (x : Queue) : Queue :=
  if x.st = 1 then { x with qstat := BitVec.ofNat 64 (2 + 0x44 * 2 ^ 8 + x.lastacc * 2 ^ 32), fetched := [] } else x

/-- R428: completion entries held for want of room are written, in order, while there is room; one outside the host range stops the
queue and stays held. -/
def flushCompletions (s : State) (p q : Nat) : Nat → State
  | 0 => s
  | n + 1 =>
    let x := cq s p q
    match x.cheld with
    | [] => s
    | e :: r =>
      if x.compFull then s
      else if !compIn s p x then setCq s p q x.breached
      else flushCompletions (writeCompletion (setCq s p q { x with cheld := r }) p q e) p q n

/-- The two words of a completion entry (R428). -/
def completionEntry (seq status op lease : Nat) : Word × Word :=
  (BitVec.ofNat 64 (seq % 2 ^ 32 + status % 256 * 2 ^ 32 + op % 256 * 2 ^ 40), BitVec.ofNat 64 (lease % 4096))

/-- R428: a completion entry, written or held. -/
def postCompletion (s : State) (p q : Nat) (e : Word × Word) : State :=
  let x := cq s p q
  flushCompletions (setCq s p q { x with cheld := x.cheld ++ [e] }) p q (x.cheld.length + 1)

/-- The seqs of packets of a queue that have started and not completed: the packet in progress, and LAUNCHes of the ring whose leases
still live. -/
def openSeqs (s : State) (p q : Nat) : List Nat :=
  (match (cq s p q).top with
    | some (seq, _, _) => [seq]
    | none => [])
    ++ (s.leases.filter (fun e => e.2.st != .none && e.2.part == p && e.2.queue == q && e.2.depth == 0)).map (fun e => e.2.seq)

/-- R427: lastcmp, just below the oldest packet that is still open. -/
def settleCmp (s : State) (p q : Nat) : State :=
  let x := cq s p q
  let back := (openSeqs s p q).foldl (fun m n => max m ((x.lastacc + 2 ^ 32 - n) % 2 ^ 32 + 1)) 0
  setCq s p q { x with seqs := x.seqs.put 32 32 ((x.lastacc + 2 ^ 32 - back) % 2 ^ 32) }

/-- The packet in progress has ended. -/
def Queue.dropPkt (x : Queue) : Queue :=
  { x with pkt := [], moved := 0, wait := none, met := false, launch := false, fheld := none }

/-- The words of the innermost frames by another n. -/
def skipIn (n : Nat) : List PFrame → List PFrame
  | [] => []
  | f :: r => { f with pos := f.pos + n } :: r

/-- Whether a frame is a buffer. -/
def PFrame.isBuf (f : PFrame) : Bool := f.size == 0 && !f.loop

/-- The buffers that a queue is in. -/
def Queue.depth (x : Queue) : Nat := (x.stack.filter PFrame.isBuf).length

/-- R431: leaves the buffers and loop bodies that have been run to their ends; a loop with passes left begins its next one. With `hold`
set, a buffer inside another is not left: its INDIRECT has not completed. -/
def Queue.popDone (x : Queue) (hold : Bool) : Nat → Queue
  | 0 => x
  | n + 1 =>
    match x.stack with
    | [] => x
    | f :: r =>
      if f.pos < f.lim then x
      else if f.loop && 1 < f.passes then
        if f.size = 0 then { x with stack := { f with pos := f.start, passes := f.passes - 1 } :: r }
        else { x with qhead := BitVec.ofNat 64 f.start, stack := { f with pos := 0, passes := f.passes - 1 } :: r }
      else if hold && f.isBuf && r.any PFrame.isBuf then x
      else
        let r' := match r with
          | [] => []
          | g :: rr => if f.loop && f.size = 0 then { g with pos := f.pos } :: rr else g :: rr
        ({ x with stack := r' } : Queue).popDone hold n

/-- R426, R429: the state of a queue after its top-level packet has ended: a disabled queue is idle, a failed packet stops it.
A loop in the ring goes on behind a packet of its body. -/
def Queue.after (x : Queue) (status seq : Nat) : Queue :=
  let y0 := { x.dropPkt with top := none, stack := if status = 0 then x.stack.filter (fun f => f.size != 0) else [] }
  let y := y0.popDone false y0.stack.length
  if x.st = 3 then { y with qstat := y.qstat.put 0 2 0, stack := [], fetched := [], proc := none }
  else if status = 0 || x.st ≠ 1 then y
  else { y with qstat := BitVec.ofNat 64 (2 + status * 2 ^ 8 + seq * 2 ^ 32), fetched := [] }

/-- Whether a fault is one of a packet of a queue. -/
def OFault.ofQueue (f : OFault) (q : Nat) : Bool := f.what == .packet q

/-- R428, R429: the top-level packet in progress completes with a status. -/
def packetEnd (s : State) (p q status lease : Nat) : State :=
  let x := cq s p q
  match x.top with
  | none => s
  | some (seq, op, cmp) =>
    let s0 : State :=
      { s.modPart p (fun r => { r with faults := r.faults.filter (fun f => !f.ofQueue q) }) with
        waitL := s.waitL.filter (fun w => !(w.part == p && w.queue == q))
        plans := s.plans.filter (fun w => !(w.part == p && w.queue == q)) }
    let s1 := setCq s0 p q (x.after status seq)
    let s2 := if cmp then postCompletion s1 p q (completionEntry seq status op lease) else s1
    settleCmp s2 p q

/-- The processor stands in a buffer. -/
def Queue.inBuffer (x : Queue) : Bool := x.stack.any (fun f => f.size == 0)

/-- R431: an INDIRECT in progress waits for leases that its LAUNCHes started: those of buffers from a depth on. -/
def innerLive (s : State) (p q depth : Nat) : Bool :=
  match (cq s p q).top with
  | some (seq, 2, _) =>
    s.leases.any (fun e => e.2.st != .none && e.2.part == p && e.2.queue == q && e.2.seq == seq && depth ≤ e.2.depth)
  | _ => false

/-- Whether the innermost buffer or loop body has been run to its end. -/
def Queue.spent (x : Queue) : Bool := (x.stack.head?.map (fun f => f.lim ≤ f.pos : PFrame → Bool)).getD false

/-- R425, R431: the packet in progress is done: the next word of its buffer, or the end of the top-level packet. -/
def settlePacket (s : State) (p q : Nat) : State :=
  let x := (cq s p q).dropPkt
  let y := x.popDone (innerLive s p q 2) x.stack.length
  let s1 := setCq s p q y
  if y.inBuffer || innerLive s1 p q 1 then s1 else packetEnd s1 p q 0 0

/-- Whether the packet in progress of a queue is the LAUNCH of a seq, or one in a buffer of it. -/
def launching (s : State) (p q seq : Nat) : Bool :=
  (cq s p q).launch && ((cq s p q).top.map (fun t => t.1 == seq)).getD false

/-- R425: a LAUNCH has started: its queue goes on, and its completion comes with the lease's end. One inside a buffer leaves
the packet that names the buffer in progress. -/
def launchStarted (s : State) (p q seq : Nat) : State :=
  let x := cq s p q
  match launching s p q seq, x.top with
  | true, some (_, 1, _) => settleCmp (setCq s p q (x.after 0 0)) p q
  | true, some _ => settlePacket s p q
  | _, _ => s

/-- R348, R429: the completion of a LAUNCH that had started. -/
def launchEnd (s : State) (p q seq : Nat) (cmp : Bool) (status lease : Nat) : State :=
  let s1 := if cmp then postCompletion s p q (completionEntry seq status 1 lease) else s
  settleCmp s1 p q

/-- R427, R440: a queue stops with a status at seq lastacc; a packet in progress ends with it, but a LAUNCH of the ring whose lease is
placed already goes on. An INDIRECT ends, and a lease that it has placed runs on. -/
def stopQueue (s : State) (p status q : Nat) : State :=
  let x := cq s p q
  if x.st ≠ 1 && x.st ≠ 3 then s
  else
    let seq := (x.top.map (fun t => t.1)).getD 0
    let placed := s.leases.any (fun e => e.2.starting && e.2.part == p && e.2.queue == q && e.2.depth == 0)
    let s1 := if placed then launchStarted s p q seq else packetEnd s p q status 0
    modCq s1 p q (fun y =>
      { y with qstat := BitVec.ofNat 64 (2 + status * 2 ^ 8 + x.lastacc * 2 ^ 32), fetched := [] })

end Sys2Proof.Machine
end

