-- ==== Sys2Proof/Machine/Alarm.lean ====
section
/-! DEFINITION. Alarms and their classes, quarantine and the package halt (13 R429, R434, R439, R440). -/

namespace Sys2Proof.Machine

/-- R439: the default class of an alarm source. -/
def alarmDefault (src : Nat) : Nat :=
  match src with
  | 0 => 0
  | 1 => 1
  | 2 => 1
  | 3 => 0
  | 4 => 0
  | _ => 3

/-- The class of a source: its default, or the higher class the owner wrote; 5 to 7 are fixed at 3 (R439). -/
def alarmClass (s : State) (src : Nat) : Nat :=
  if 5 ≤ src then 3 else max (alarmDefault src) ((Tbl.get 0 s.pkg.asrc src).fld 0 2)

/-- The asrc register as it reads: class and saturating count. -/
def asrcWord (s : State) (src : Nat) : Word :=
  ((Tbl.get (0 : Word) s.pkg.asrc src)).put 0 2 (alarmClass s src)

/-- The queues of a partition that are enabled, stopped with a status at seq lastacc. -/
def stopQueues (s : State) (p status : Nat) : State :=
  ((s.part p).queues.map (fun e => e.1)).foldl (fun s q => stopQueue s p status q) s

/-- The leases of a partition, by id. -/
def partLeases (s : State) (p : Nat) : List Nat :=
  (s.leases.filter (fun e => e.2.st != .none && e.2.part == p)).map (fun e => e.1)

/-- A partition is quarantined: its launches, replies of act 0 and debug resumes are refused (R440). -/
def quarantined (s : State) (p : Nat) : Bool := (s.part p).quar.fld 0 1 == 1

/-- R440: a lease of a quarantined partition freezes where it stands, with nothing saved: the work on it ends, a move with 0x15 (R377)
and a drain or freeze with no event (log entry 13). -/
def freezeUnsaved (s : State) (l : Nat) : State :=
  match (s.lease l).st with
  | .running => clearWork (stopUnits s l .frozen) l
  | .draining => clearWork (stopUnits s l .frozen) l
  | .freezing => clearWork (s.modLease l (fun x => { x with st := .frozen })) l
  | .copying => stopMove (s.modLease l (fun x => { x with st := .frozen })) l
  | _ => freezeRegion s l

/-- R440: quarantines a partition: its leases freeze, its queues stop with 0x45. -/
def quarantine (s : State) (p : Nat) : State :=
  (stopQueues ((partLeases s p).foldl freezeUnsaved s) p 0x45).modPart p (fun x => { x with quar := 1 })

/-- R440, class 2: a quarantine, with which erase2 also erases the partition's key. -/
def quarantineAlarm (s : State) (p : Nat) : State :=
  (quarantine s p).modPart p (fun x => { x with key := x.key && s.pkg.alarmcfg.fld 0 1 == 0 })

/-- R440, class 3, and R441: every unit stops; `erase` also erases the key store. -/
def haltPackage (s : State) (erase : Bool) : State :=
  { s with pkg := { s.pkg with state := 2, keys := if erase then false else s.pkg.keys } ,
           parts := if erase then s.parts.map (fun e => (e.1, { e.2 with key := false })) else s.parts }

/-- R434: an alarm's record: source and class in opa, the tag in opb, the lease id in word 2. -/
def alarmRecord (s : State) (src tag lease : Nat) : State :=
  postRecord s 0 0
    (({ code := 0, level := 0, opa := src * 2 ^ 8 + alarmClass s src, opb := tag, lease } : FRec).words (timeNs s))

/-- R440, class 1: the record is a fault of the owner's, which waits for a reply; no unit stops for it. -/
def alarmFault (s : State) (lease : Nat) : State := { s with pkg := { s.pkg with alarms := s.pkg.alarms ++ [lease] } }

/-- R440: an alarm counts, writes its record, and acts by its class. `tag` is the offending tenant tag, 0 for none. -/
def alarm (s : State) (src tag lease : Nat) : State :=
  let w := Tbl.get (0 : Word) s.pkg.asrc src
  let n := w.fld 32 32
  let w' := w.put 32 32 (if n + 1 < 2 ^ 32 then n + 1 else n)
  let s1 := { s with pkg := { s.pkg with asrc := Tbl.set 0 s.pkg.asrc src w' } }
  let s2 := alarmRecord s1 src tag lease
  let p := tag / 2 ^ 11 * 32 + tag / 2 ^ 6 % 32
  match alarmClass s src with
  | 1 => alarmFault s2 lease
  | 2 => if tag = 0 || p % 32 = 0 then alarmFault s2 lease else quarantineAlarm s2 p
  | 3 => haltPackage s2 true
  | _ => s2

end Sys2Proof.Machine
end

