-- ==== Sys2Proof/Machine/Mem.lean ====
section
/-! DEFINITION. Memory beneath the instructions: the three translation stages and their tables (10 R314 to R316),
frame tags (13 R436), the translation cache (05 R142), the versions of phased lines, their publication and their
shadow pool (10 R327 to R342), open proof ranges (07 R228 to R230), release and acquire (07 R214, R215). -/

namespace Sys2Proof.Machine

/-! ### Versions of a line (R330 to R336) -/

/-- Who reads or writes: a lease and its agent; none is an agent of the part, which reads the base. A command processor is an
agent of its own beside every lease (R431): its lease is 0, which no lease has, `proc` its partition, and the number of its
agent names the queue. -/
structure Who where
  lease : Nat := 0
  agent : Agent := .ctx 0
  proc : Option Nat := none
deriving DecidableEq, Repr, Inhabited

/-- An agent's snapshot time for scope t, 1 to 6 (R333). -/
def snapTime (s : State) (a : Agent) (t : Nat) : Nat :=
  match a with
  | .ctx k => (s.ctx k).snap.getD (t - 1) 0
  | .tile k => (s.tile k).snap.getD (t - 1) 0

/-- The first widening after which a version's unit contained the agent: its ordinal and the unit before it. -/
def entryWidening (final : SUnit) (a : Agent) : List (Nat × SUnit) → Option (Nat × SUnit)
  | [] => none
  | (n, u) :: r =>
    let after := match r with
      | [] => final
      | (_, x) :: _ => x
    if after.has a then some (n, u) else entryWidening final a r

/-- The partition for which an agent acts, and its slot (R418). -/
def Who.part (s : State) (w : Who) : Nat := w.proc.getD (s.lease w.lease).part
def Who.slot (s : State) (w : Who) : Nat := if w.proc.isSome then 63 else (s.lease w.lease).slot

/-- R328, R333: whether an agent may read a version: one that it has written into, in its unit, it may. A command processor takes in every release before each packet (R431). -/
def canRead (s : State) (w : Option Who) (v : VTag) : Bool :=
  match w with
  | none => 6 ≤ v.unit.scope
  | some w =>
    if v.lease ≠ w.lease || (w.proc.isSome && 6 ≤ v.unit.scope) then 6 ≤ v.unit.scope
    else if !v.unit.has w.agent then false
    else if v.writers.contains w.agent then true
    else
      let first := match v.hist with
        | [] => v.unit
        | (_, u) :: _ => u
      if first.has w.agent then true
      else match entryWidening v.unit w.agent v.hist with
        | none => true
        | some (n, before) =>
          let t := meetScope before w.agent 0 7
          t = 0 || n ≤ snapTime s w.agent t

/-- The content of a frame's line: its newest version. -/
def frameLine (s : State) (ln : Nat) : LineData := BitVec.ofNat 1024 (s.mem.readN (ln * 128) 128)
def setFrameLine (s : State) (ln : Nat) (d : LineData) : State :=
  { s with mem := s.mem.writeN (ln * 128) 128 d.toNat }

def lineRec (s : State) (ln : Nat) : LineRec := Tbl.get {} s.lines ln
def setLineRec (s : State) (ln : Nat) (r : LineRec) : State := { s with lines := Tbl.set {} s.lines ln r }

/-- The first older version that the agent may read; the last is the base. -/
def pickOlder (s : State) (w : Option Who) : List Shadow → Option Shadow
  | [] => none
  | [x] => some x
  | x :: r =>
    match x.tag with
    | none => some x
    | some v => if canRead s w v then some x else pickOlder s w r

/-- R333: the content an agent reads of a line. -/
def lineFor (s : State) (w : Option Who) (ln : Nat) : LineData :=
  let r := lineRec s ln
  match r.cur with
  | none => frameLine s ln
  | some v =>
    if canRead s w v then frameLine s ln
    else match pickOlder s w r.older with
      | some x => x.data
      | none => frameLine s ln

/-- One byte as an agent reads it. -/
def readByteAs (s : State) (w : Option Who) (pa : Nat) : Byte :=
  match (lineRec s (pa / 128)).cur with
  | none => s.mem.read pa
  | some _ => (lineFor s w (pa / 128)).extractLsb' (8 * (pa % 128)) 8

/-- n bytes as an agent reads them. -/
def readAs (s : State) (w : Option Who) (pa : Nat) : Nat → Nat
  | 0 => 0
  | n + 1 => (readByteAs s w pa).toNat + 256 * readAs s w (pa + 1) n

/-! ### Frame tags (R418, R436) -/

/-- A tenant tag (R418). -/
def mkTag (p slot : Nat) : Nat := partR p * 2 ^ 11 + partC p * 2 ^ 6 + slot

def frameTag (s : State) (pa : Nat) : Nat := (Tbl.get (0xFFFF : BitVec 16) s.tags (pa / 65536)).toNat

/-- R436: whether a frame admits an access. -/
def admits (ft tag : Nat) : Bool :=
  ft == tag || (ft % 64 == 63 && ft / 64 == tag / 64) || tag == 0

/-- The installed stacks end at PA 2^39 (R2, R436; log entry 16). -/
def paTop : Nat := 2 ^ 39

/-! ### Translation (R314 to R316) -/

/-- The stage of a walk. -/
inductive Stage where
  | cust
  | res
  | own
deriving DecidableEq, Repr, Inhabited

def Stage.code : Stage → Nat
  | .cust => 0x04
  | .res => 0x05
  | .own => 0x06

/-- The page size of a leaf by its level. -/
def leafSize (level : Nat) : Nat := if level = 6 then 2 ^ 32 else if level = 7 then 2 ^ 24 else 2 ^ 16

/-- R315, R316, R412: whether a valid entry is malformed. -/
def entryBad (st : Stage) (level e : Nat) : Bool :=
  if bits e 1 1 = 0 then
    level == 8 || e != bits e 0 2 + bits e 64 52 * 2 ^ 64
  else
    let oa := bits e 64 48 * 65536
    level < 6 || bits e 21 5 != 0 || bits e 125 3 != 0 || 11 ≤ bits e 8 4 || bits e 14 3 == 7
      || oa % leafSize level != 0
      || (st == .own && 2 ^ 52 ≤ oa)
      || (st != .cust && (bits e 112 13 != 0 || bits e 58 6 != 0 || bits e 26 32 != 0 || bits e 17 4 != 0
            || bits e 14 3 != 0 || bits e 12 2 != 0 || bits e 8 4 != 0 || bits e 6 1 != 0 || bits e 5 1 != 0))
      || (st != .own && bits e 7 1 != 0)
      || (st == .own && (bits e 7 1 == 1) != (bits oa 51 1 == 1))

/-- What a walk gives: the leaf, its level, and the output address. -/
structure Walked where
  e : Nat := 0
  level : Nat := 8
  out : Nat := 0
deriving DecidableEq, Repr, Inhabited

/-- A table entry at a PA, read by the part with a tag. -/
def tableEntry (s : State) (tag pa : Nat) : Except Nat Nat :=
  if paTop ≤ pa then .error 0x06
  else if !admits (frameTag s pa) tag then .error 0x08
  else .ok (readAs s none pa 16)

/-- One stage's walk from a table down: `toPa` brings a table address of this stage to a PA. -/
def walk (s : State) (st : Stage) (tag inp : Nat) (toPa : Nat → Except Nat Nat) :
    Nat → Nat → Nat → Except Nat Walked
  | 0, _, _ => .error st.code
  | n + 1, level, table =>
    match toPa (table + 16 * bits inp (80 - 8 * level) 8) with
    | .error c => .error c
    | .ok pa =>
      match tableEntry s tag pa with
      | .error c => .error c
      | .ok e =>
        if bits e 0 1 = 0 || entryBad st level e then .error st.code
        else if bits e 1 1 = 1 then
          .ok { e, level, out := bits e 64 48 * 65536 + inp % leafSize level }
        else walk s st tag inp toPa n (level + 1) (bits e 64 52 * 4096)

/-- R343: a frame that a migration has moved out of a larger owner page; as long as the page's leaf stands, it counts as pages of
64 KiB. -/
def Walked.moved (w : Walked) (fwd : List Fwd) : Walked :=
  let here := fwd.filter (fun e => e.leaf == w.e)
  if w.level < 8 && !here.isEmpty then
    { w with level := 8, out := (match here.find? (fun e => e.src == w.out / 65536) with
        | some e => e.dst
        | none => w.out / 65536) * 65536 + w.out % 65536 }
  else w

/-- The owner walk of an SA. -/
def ownerWalk (s : State) (p sa : Nat) : Except Nat Walked :=
  let root := (s.part p).oroot.toNat
  if root = 0 then .error 0x06
  else (walk s .own 0 sa (fun pa => .ok pa) 6 3 root).map (fun w => w.moved (s.part p).fwd)

/-- The reseller walk of a CA. -/
def resellerWalk (s : State) (p ca : Nat) : Except Nat Walked :=
  let root := (s.part p).rroot.toNat
  if root = 0 then .error 0x05
  else walk s .res (mkTag (partR p * 32) 63) ca (fun sa => (ownerWalk s p sa).map (fun w => w.out)) 6 3 root

/-- A CA to a PA through the reseller and owner stages. -/
def caToPa (s : State) (p ca : Nat) : Except Nat Nat :=
  match resellerWalk s p ca with
  | .error c => .error c
  | .ok w => (ownerWalk s p w.out).map (fun w => w.out)

/-- The customer walk of a VA. -/
def customerWalk (s : State) (p va : Nat) : Except Nat Walked :=
  let root := (s.part p).croot.toNat
  if root = 0 then .error 0x04
  else walk s .cust (mkTag p 63) va (caToPa s p) 8 1 root

/-- The signed value of soff (R317). -/
def soffOf (e : Nat) : Int := signed 32 (bits e 26 32)

/-- R314 to R316: a VA through all three stages: the page as a translation-cache entry of the lease. -/
def translate (s : State) (p lease va : Nat) : Except Nat TlbEnt :=
  match customerWalk s p va with
  | .error c => .error c
  | .ok wc =>
    match resellerWalk s p wc.out with
    | .error c => .error c
    | .ok wr =>
      match ownerWalk s p wr.out with
      | .error c => .error c
      | .ok wo =>
        let size := min (leafSize wc.level) (min (leafSize wr.level) (leafSize wo.level))
        let perm (b : Nat) : Bool := bits wc.e b 1 == 1 && bits wr.e b 1 == 1 && bits wo.e b 1 == 1
        .ok { lease, va := va - va % size, size, pa := wo.out - wo.out % size,
              attr := { r := perm 2, w := perm 3, x := perm 4, ms := bits wc.e 5 1 == 1, gp := bits wc.e 6 1 == 1,
                        sysw := bits wo.e 7 1 == 1, fmt := bits wc.e 8 4, blk := bits wc.e 12 2,
                        gscope := bits wc.e 14 3, gslot := bits wc.e 58 6, grow := bits wc.e 112 6,
                        gcol := bits wc.e 118 7, soff := soffOf wc.e } }

/-- The cached entry of a lease for a VA (R142). -/
def tlbFind (t : List TlbEnt) (lease va : Nat) : Option TlbEnt :=
  t.find? (fun e => e.lease == lease && e.va ≤ va && va < e.va + e.size)

/-- R418, R434, R436: the tag of the access that a frame has refused at a VA: where the VA is walked, that of the walk whose table the
frame holds; else that of the access itself, `own`. An owner walk carries the tag 0, which every frame admits. -/
def refusedTag (s : State) (p own va : Nat) : Nat :=
  let reseller := mkTag (partR p * 32) 63
  let customer := walk s .cust (mkTag p 63) va
    (fun ca => match caToPa s p ca with | .error 0x08 => .error 0x108 | x => x) 8 1 (s.part p).croot.toNat
  match customer with
  | .error 0x108 => reseller
  | .error 0x08 => mkTag p 63
  | .error _ => own
  | .ok w => match resellerWalk s p w.out with
    | .error 0x08 => reseller
    | _ => own

/-- The class 1 alarm for a refused access of a lease (R436, R439); `kept`: its translation stood in a cache. -/
def tagAlarm (s : State) (l va : Nat) (kept : Bool) : State :=
  let own := mkTag (s.lease l).part (s.lease l).slot
  alarm s 1 (if kept then own else refusedTag s (s.lease l).part own va) l

/-- The same for an access through a context's stoker. Of one to a system window the remote package raises the alarm (R414). -/
def ctxTagAlarm (s : State) (k va : Nat) : State :=
  let l := (s.ctx k).lease
  match tlbFind (s.stoker (ctxStoker k)).tlb l va, translate s (s.lease l).part l va with
  | some e, _ => if e.attr.sysw then s else tagAlarm s l va true
  | none, .ok e => if e.attr.sysw then s else tagAlarm s l va false
  | none, .error _ => tagAlarm s l va false

/-- Translates for a context through its stoker's cache, filling it on a miss; the oldest entry leaves when 64 are
held (log entry 17). -/
def translateCtx (s : State) (k va : Nat) : Except Nat (State × TlbEnt) :=
  let l := (s.ctx k).lease
  let st := s.stoker (ctxStoker k)
  match tlbFind st.tlb l va with
  | some e => .ok (s, e)
  | none =>
    match translate s (s.lease l).part l va with
    | .error c => .error c
    | .ok e =>
      .ok (s.setStoker (ctxStoker k) { st with tlb := (if 64 ≤ st.tlb.length then st.tlb.drop 1 else st.tlb) ++ [e] }, e)

/-! ### Group-private pages (R335) -/

/-- The lease in a slot of a partition. -/
def leaseInSlot (s : State) (p slot : Nat) : Option Nat :=
  (s.leases.find? (fun e => e.2.st != .none && e.2.part == p && e.2.slot == slot)).map (fun e => e.1)

/-- The owning unit of a group-private page. -/
def gpUnit (s : State) (p : Nat) (a : PageAttr) : Option (Nat × SUnit) :=
  match leaseInSlot s p a.gslot with
  | none => none
  | some l =>
    let le := s.lease l
    let corner := tileKey le.die le.row le.col
    (tileAt (tilePRow corner + a.grow) (tilePCol corner + a.gcol)).map (fun t => (l, agentUnit (.tile t) a.gscope))

/-- R335: whether an agent belongs to the owning group of a group-private page. -/
def gpAllows (s : State) (w : Who) (a : PageAttr) : Bool :=
  match gpUnit s (w.part s) a with
  | none => false
  | some (l, u) => l == w.lease && u.has w.agent

/-! ### Open proof ranges (R228, R230) -/

def inRanges (va : Nat) (rs : List (Nat × Nat)) : Bool := rs.any (fun r => r.1 ≤ va && va < r.1 + r.2)

/-- The innermost open level of a group that holds a VA; levels are numbered from 1, outermost. -/
def levelHolding (va : Nat) : List (List (Nat × Nat)) → Option Nat
  | [] => none
  | rs :: outer => if inRanges va rs then some (outer.length + 1) else levelHolding va outer

/-- The open groups of a partition that hold a VA: lease, unit, innermost level. -/
def openHolds (s : State) (p va : Nat) : List (Nat × SUnit × Nat) :=
  s.leases.flatMap (fun e =>
    if e.2.part = p then
      e.2.snaps.filterMap (fun g => (levelHolding va g.levels).map (fun n => (e.1, g.unit, n)))
    else [])

/-! ### The shadow pool (R340 to R342) -/

/-- The stack, and so the home die, of a line. -/
def lineHome (ln : Nat) : Nat := ln * 128 / 2 ^ 36

def poolLimit (p : Part) (d : Nat) : Nat := (Tbl.get (0 : Word) p.poolseg d).fld 0 24

/-- Takes a pool line, or fails for want of one. -/
def takePool (s : State) (p d : Nat) : Option State :=
  let q := s.part p
  let n := Tbl.get 0 q.inUse d
  if n < poolLimit q d then some (s.setPart p { q with inUse := Tbl.set 0 q.inUse d (n + 1) }) else none

/-- A freed shadow waits for the sweeper (R342). -/
def freeShadow (s : State) (x : Shadow) : State :=
  s.modPart x.part (fun q => { q with await := Tbl.set 0 q.await x.die (Tbl.get 0 q.await x.die + 1) })

def freeShadows (s : State) (xs : List Shadow) : State := xs.foldl freeShadow s

/-! ### Freeing (R334) -/

/-- Which of a line's versions an agent selects: 0 the newest, j + 1 the j-th older one. -/
def pickIdx (s : State) (w : Option Who) (r : LineRec) : Nat :=
  match r.cur with
  | none => 0
  | some v =>
    if canRead s w v then 0
    else
      let i := r.older.findIdx (fun x => match x.tag with
        | none => true
        | some t => canRead s w t)
      min (i + 1) r.older.length

/-- Every agent that may read a version of a lease. A tile that has no configuration yet reads nothing, and holds no version back (R457).
-/
def leaseAgents (s : State) (l : Nat) : List (Option Who) :=
  (leaseCtxs s l).map (fun k => some { lease := l, agent := .ctx k })
    ++ ((leaseTiles s l).filter (fun k => (s.tile k).configured)).map (fun k => some { lease := l, agent := .tile k })

/-- The older versions kept, and those freed. -/
def splitKept (used : List Nat) : Nat → List Shadow → List Shadow × List Shadow
  | _, [] => ([], [])
  | j, x :: r =>
    let q := splitKept used (j + 1) r
    if x.proof.isSome || used.contains j then (x :: q.1, q.2) else (q.1, x :: q.2)

/-- Whether a lease is out of the array, so that the agents that may read its versions have no place. -/
def Lease.away (l : Lease) : Bool := l.st == .saved || l.st == .resuming

/-- R334: frees the versions of a line that no agent may still read in preference to a newer one and that shadow no
proof level; a line left with one version has only a base. A line with a version of a lease that is out of the array keeps
all of them. -/
def gcLine (s : State) (ln : Nat) : State :=
  let r := lineRec s ln
  match r.cur with
  | none => s
  | some v =>
    if (s.lease v.lease).away || r.older.any (fun x => match x.tag with
      | some t => (s.lease t.lease).away
      | none => false) then s
    else
    let ws := none :: (leaseAgents s v.lease ++ r.older.flatMap (fun x => match x.tag with
      | some t => leaseAgents s t.lease
      | none => []))
    let used := ws.map (fun w => pickIdx s w r)
    let q := splitKept used 1 r.older
    let s1 := freeShadows s q.2
    if q.1.isEmpty then setLineRec s1 ln {} else setLineRec s1 ln { r with older := q.1 }

/-- Frees on every line that has versions of a lease. -/
def gcLease (s : State) (l : Nat) : State :=
  let of (t : Option VTag) : Bool := match t with
    | some v => v.lease == l
    | none => false
  (s.lines.filter (fun e => of e.2.cur || e.2.older.any (fun x => of x.tag))).foldl (fun s e => gcLine s e.1) s

/-! ### Writes (R331) -/

/-- Keeps a content that HBM may still hold beneath the slices, and the agent whose write stands in them (R219, R322). -/
def noteDirty (s : State) (a : Agent) (ln : Nat) (old : LineData) : State :=
  let x := Tbl.get {} s.dirty ln
  let y : Stale := { data := if x.data.contains old then x.data else x.data ++ [old]
                     by_ := if x.by_.contains a then x.by_ else x.by_ ++ [a] }
  { s with dirty := Tbl.set {} s.dirty ln y }

/-- A write of a frame's line by an agent through the slices. -/
def writeFrame (s : State) (a : Agent) (ln : Nat) (d : LineData) : State :=
  let old := frameLine s ln
  if old = d then s else setFrameLine (noteDirty s a ln old) ln d

/-- The data with the masked bits replaced. -/
def mergeBits (old mask val : LineData) : LineData := (old &&& ~~~mask) ||| (val &&& mask)

/-- Whether an agent has arrived at a boundary since a version was made: its later writes are not that boundary's
(R332). -/
def arrivedSince (s : State) (w : Who) (made : Nat) : Bool :=
  (s.lease w.lease).arr.any (fun a => a.agent == w.agent && made ≤ a.ordn)

/-- An agent has written into a version. -/
def VTag.wrote (v : VTag) (a : Agent) : VTag := if v.writers.contains a then v else { v with writers := v.writers ++ [a] }

/-- R331: a phased write of the masked bits of one line; 0x0B for another group's open range, 0x0C for want of a pool
line. -/
def writeLine (s : State) (w : Who) (ln va : Nat) (mask val : LineData) : Except Nat State :=
  let p := w.part s
  let holds := openHolds s p va
  if holds.any (fun h => h.1 != w.lease || !h.2.1.has w.agent) then .error 0x0B
  else
    let r := lineRec s ln
    let old := frameLine s ln
    let new := mergeBits old mask val
    let mine := holds.head?
    let due : Option (Nat × SUnit × Nat) := match mine with
      | none => none
      | some h => if r.older.any (fun x => x.proof == some h) then none else some h
    let made : VTag := { lease := w.lease, unit := agentUnit w.agent 0, va := va / 128 * 128, made := s.ordn,
                         writers := [w.agent] }
    let fresh : Except Nat State :=
      match takePool s p (lineHome ln) with
      | none => .error 0x0C
      | some s1 =>
        let sh : Shadow := { tag := r.cur, data := old, proof := due, stale := (Tbl.get {} s.dirty ln).data, part := p, die := lineHome ln }
        .ok (writeFrame (setLineRec s1 ln { cur := some made, older := sh :: r.older }) w.agent ln new)
    match r.cur with
    | none => fresh
    | some v =>
      if due.isSome then fresh
      else if v.lease = w.lease && v.unit == agentUnit w.agent 0 && !arrivedSince s w v.made then
        .ok (writeFrame (setLineRec s ln { r with cur := some (v.wrote w.agent) }) w.agent ln new)
      else if canRead s (some w) v then fresh
      else if v.lease = w.lease then
        let t := meetScope v.unit w.agent v.unit.scope 7
        let v' : VTag :=
          VTag.wrote { v with unit := v.unit.lift t, hist := v.hist ++ [(s.ordn, v.unit)] } w.agent
        .ok (writeFrame (setLineRec s ln { r with cur := some v' }) w.agent ln new)
      else .ok (writeFrame (setLineRec (freeShadows s r.older) ln {}) w.agent ln new)

/-- A phased write of n bytes (at most a line) by masked value, over the one or two lines it touches. -/
def writePhased (s : State) (w : Who) (pa va n : Nat) (mask val : Nat) : Except Nat State :=
  let off := pa % 128
  let m := mask % 2 ^ (8 * n) * 2 ^ (8 * off)
  let v := val % 2 ^ (8 * n) * 2 ^ (8 * off)
  match writeLine s w (pa / 128) va (BitVec.ofNat 1024 m) (BitVec.ofNat 1024 v) with
  | .error c => .error c
  | .ok s1 =>
    if off + n ≤ 128 then .ok s1
    else writeLine s1 w (pa / 128 + 1) ((va / 128 + 1) * 128) (BitVec.ofNat 1024 (m / 2 ^ 1024)) (BitVec.ofNat 1024 (v / 2 ^ 1024))

/-! ### Publication (R214 to R216, R332) -/

/-- R332, R336: a version takes a unit, but while a level holds its line it widens at most to that group's unit. -/
def widenTo (s : State) (target : SUnit) (v : VTag) : VTag :=
  let holds := (openHolds s (s.lease v.lease).part v.va).filter (fun h => h.1 == v.lease && v.unit.inside h.2.1)
  let t : SUnit := holds.foldl (fun t h => if h.2.1.scope < t.scope then h.2.1 else t) target
  if v.unit == t || t.scope < v.unit.scope then v else { v with unit := t, hist := v.hist ++ [(s.ordn, v.unit)] }

def widenRec (s : State) (target : SUnit) (ok : VTag → Bool) (r : LineRec) : LineRec :=
  let f (v : VTag) : VTag := if ok v then widenTo s target v else v
  { cur := r.cur.map f, older := r.older.map (fun x => { x with tag := x.tag.map f }) }

/-- Widens the versions that satisfy `ok` on the lines that satisfy `on`, then frees what nobody reads any more. -/
def publish (s : State) (l : Nat) (target : SUnit) (on : Nat → Bool) (ok : VTag → Bool) : State :=
  let s1 := { s with lines := s.lines.map (fun e => if on e.1 then (e.1, widenRec s target ok e.2) else e) }
  gcLease s1 l

/-- R215: records a publication time of a lease to a unit. -/
def recordPub (s : State) (l : Nat) (u : SUnit) (t : Nat) : State :=
  match s.pubs.find? (fun p => p.lease == l && p.unit == u) with
  | none => { s with pubs := s.pubs ++ [{ lease := l, unit := u, time := t }] }
  | some _ =>
    { s with pubs := s.pubs.map (fun p => if p.lease == l && p.unit == u then { p with time := max p.time t } else p) }

/-- R214, R332: a release by an agent at a scope, over the lines that satisfy `on`. Scope 7 publishes as scope 6. -/
def releaseOn (s : State) (w : Who) (scope : Nat) (on : Nat → Bool) : State :=
  let u := agentUnit w.agent (min scope 6)
  let s1 := publish s w.lease u on (fun v => v.lease == w.lease && v.unit.has w.agent && v.unit.inside u)
  recordPub s1 w.lease u (timeNs s)

def releaseBy (s : State) (w : Who) (scope : Nat) : State := releaseOn s w scope (fun _ => true)

/-- Snapshot times for scopes 1 to s set to the present (R333). -/
def freshSnap (old : List Nat) (scope now : Nat) : List Nat :=
  (List.range 6).map (fun i => if i + 1 ≤ scope then now else old.getD i 0)

def refresh (s : State) (a : Agent) (scope : Nat) : State :=
  match a with
  | .ctx k => s.modCtx k (fun c => { c with snap := freshSnap c.snap scope s.ordn })
  | .tile k => s.modTile k (fun t => { t with snap := freshSnap t.snap scope s.ordn })

/-- The latest publication time that an acquire at a scope takes in (R215). -/
def pubTime (s : State) (w : Who) (scope : Nat) : Nat :=
  s.pubs.foldl (fun m p =>
    if p.lease == w.lease && p.unit.scope ≤ scope && p.unit.has w.agent then max m p.time else m) 0

/-- R215: tsfloor never falls. -/
def raiseFloor (s : State) (k t : Nat) : State :=
  s.modCtx k (fun c => { c with tsfloor := BitVec.ofNat 64 (max c.tsfloor.toNat t) })

/-- R214, R215: an acquire at a scope, with the time recorded with what it read. -/
def acquireBy (s : State) (w : Who) (scope seen : Nat) : State :=
  let t := max seen (pubTime s w scope)
  let s1 := refresh s w.agent scope
  let s2 := match w.agent with
    | .ctx k => raiseFloor s1 k t
    | .tile _ => s1
  gcLease s2 w.lease

/-! ### Budgets (R357 to R359) -/

/-- Counts an HBM line transfer of a lease at a die. -/
def Lease.countHbm (x : Lease) (die : Nat) : Lease :=
  let w := Tbl.get (0 : Word) x.localUse die
  { x with localUse := Tbl.set 0 x.localUse die (w.put 0 32 (min (w.fld 0 32 + 1) (2 ^ 32 - 1))) }

def countHbm (s : State) (l die : Nat) : State := s.modLease l (fun x => x.countHbm die)

/-- Counts tokens injected by a lease at a die. -/
def countInj (s : State) (l die : Nat) : State :=
  s.modLease l (fun x =>
    let w := Tbl.get (0 : Word) x.localUse die
    { x with localUse := Tbl.set 0 x.localUse die (w.put 32 32 (min (w.fld 32 32 + 1) (2 ^ 32 - 1))) })

/-- Whether a lease has spent its budget of HBM transfers, or of injections, as the hearth knows it. -/
def hbmSpent (l : Lease) : Bool := l.limit.fld 0 32 != 0 && 64 * l.limit.fld 0 32 ≤ l.used.fld 0 32
def injSpent (l : Lease) : Bool := l.limit.fld 32 32 != 0 && 64 * l.limit.fld 32 32 ≤ l.used.fld 32 32

/-! ### The checks of an access (R116, checks 4 to 6) -/

/-- What an access needs of its page. -/
structure Need where
  r : Bool := false
  w : Bool := false
  x : Bool := false
  ms : Bool := false
  noProof : Bool := false
  noSys : Bool := false
deriving DecidableEq, Repr, Inhabited

/-- The package and remote PA of a system-window PA; none when its window entry is not valid (R412). -/
def windowOf (s : State) (pa : Nat) : Option (Nat × Nat) :=
  let w := Tbl.get (0 : Word) s.fab.win (bits pa 40 11)
  if w.fld 63 1 = 1 then some (w.fld 0 12, w.fld 40 12 * 2 ^ 40 + bits pa 0 40) else none

/-- R116, on a translated page: whether the owner's address is one at all (0x06, R412, log entry 16), then permission (0x07),
the frame tag (0x08), memory-side (0x09), open proof ranges (0x0A) and other groups' ranges (0x0B). A system window is treated as
memory-side (R326); its frames lie on another package and are not tagged here. -/
def pageCheck (s : State) (w : Who) (va : Nat) (e : TlbEnt) (n : Need) : Except Nat Nat :=
  let pa := e.pa + (va - e.va)
  let a := e.attr
  let holds := openHolds s (w.part s) va
  if (if a.sysw then (windowOf s pa).isNone else paTop ≤ pa) then .error 0x06
  else if (n.r && !a.r) || (n.w && !a.w) || (n.x && !a.x) then .error 0x07
  else if a.gp && !gpAllows s w a then .error 0x07
  else if n.noSys && a.sysw then .error 0x07
  else if !a.sysw && !admits (frameTag s pa) (mkTag (w.part s) (w.slot s)) then .error 0x08
  else if n.ms && !a.ms && !a.sysw then .error 0x09
  else if n.noProof && !holds.isEmpty then .error 0x0A
  else if n.w && holds.any (fun h => h.1 != w.lease || !h.2.1.has w.agent) then .error 0x0B
  else .ok pa

/-- R359: whether a lease that has spent its budget has a request to a page held: one that misses the slices, a free choice (log
entry 8), or that passes none. -/
def hbmHeld (s : State) (l : Nat) (a : PageAttr) : Bool := hbmSpent (s.lease l) && (a.ms || s.free)

/-- Whether a page is served as a phased page at an access (R325, R328, R335). -/
def isPhased (s : State) (w : Who) (va : Nat) (a : PageAttr) : Bool :=
  !a.ms && !a.sysw && (!a.gp || !(openHolds s (w.part s) va).isEmpty)

/-- A load of n bytes at its line. -/
def loadAt (s : State) (w : Who) (va pa : Nat) (a : PageAttr) (n : Nat) : Nat :=
  if isPhased s w va a then readAs s (some w) pa n else s.mem.readN pa n

/-- A store of n bytes, or of some of their bits, at its line. A store to a memory-side or group-private page is
applied in place. -/
def storeAt (s : State) (w : Who) (va pa : Nat) (a : PageAttr) (n mask val : Nat) : Except Nat State :=
  if isPhased s w va a then writePhased s w pa va n mask val
  else
    let full := 2 ^ (8 * n) - 1
    let m := mask % 2 ^ (8 * n)
    let old := s.mem.readN pa n
    let v := (old &&& (full ^^^ m)) ||| (val &&& m)
    let s1 := if a.ms then s else noteDirty s w.agent (pa / 128) (frameLine s (pa / 128))
    .ok { s1 with mem := s1.mem.writeN pa n v }

def fullMask (n : Nat) : Nat := 2 ^ (8 * n) - 1

/-! ### Slice hints (R218, R219) -/

/-- R219: a dropped line: each byte is as last written or as last written back, a free choice (log entry 8). -/
def dropLine (s : State) (ln : Nat) : State :=
  match (Tbl.get {} s.dirty ln).data with
  | [] => s
  | x :: r =>
    let n := s.freeN
    let back := (x :: r).getD (Config.freeNat n % (r.length + 1)) x
    let pick := (Config.freeWord (n + 1)).toNat + (Config.freeWord (n + 2)).toNat * 2 ^ 64
    let cur := frameLine s ln
    let new := (List.range 128).foldl (fun a i =>
      a + (if pick.testBit i then cur.fld (8 * i) 8 else back.fld (8 * i) 8) * 2 ^ (8 * i)) 0
    setFrameLine { s with freeN := n + 3 } ln (BitVec.ofNat 1024 new)

/-- R219, R321: whether the slice of a scope that serves a stoker's block, or one beneath it, may hold a line dirty: an agent that it
serves has written it, or one of another die, which the sectors' slices serve. A slice holds lines of its own die alone. -/
def mayHoldDirty (s : State) (st scope ln : Nat) : Bool :=
  let near (t : Nat) : Bool :=
    t / 64 == st / 64 && (stokerBRow t / 2 ^ (scope - 2) == stokerBRow st / 2 ^ (scope - 2))
      && (stokerBCol t / 2 ^ (scope - 2) == stokerBCol st / 2 ^ (scope - 2))
  lineHome ln == stokerDie st && (Tbl.get {} s.dirty ln).by_.any (fun a => match a with
    | .ctx k => 2 ≤ scope && (near (k / 8) || (scope == 4 && ctxDie k != lineHome ln))
    | .tile k => near (tileStoker k) || (scope == 4 && tileDie k != lineHome ln))

/-- R219: the line at a VA is dropped unless the rule skips it, or it stands in none of the slices named, which `may` says. -/
def discardAt (s : State) (p : Nat) (w : Who) (may : Nat → Bool) (va : Nat) : State :=
  match translate s p w.lease va with
  | .error _ => s
  | .ok e =>
    match pageCheck s w va e { w := true } with
    | .error _ => s
    | .ok pa =>
      let ln := pa / 128
      if e.attr.ms || e.attr.sysw || !may ln || !(lineRec s ln).older.isEmpty || !(openHolds s p va).isEmpty then s else dropLine s ln

/-- n lines from a VA upward. -/
def discardLines (s : State) (p : Nat) (w : Who) (may : Nat → Bool) (va : Nat) : Nat → State
  | 0 => s
  | n + 1 => discardLines (discardAt s p w may (va % 2 ^ 80)) p w may (va + 128) n

/-- The lines that hold a byte of a range. -/
def discardRange (s : State) (p : Nat) (w : Who) (may : Nat → Bool) (va len : Nat) : State :=
  if len = 0 then s else discardLines s p w may (va / 128 * 128) ((va % 128 + len + 127) / 128)

end Sys2Proof.Machine
end

