-- ==== Sys2Proof/Machine/Access.lean ====
section
/-! DEFINITION. The memory accesses of stoker contexts: the issue checks (04 R116, 07 R211), what each access does at
its line (05 R138, 07 R221, R224, R247), and its completion (05 R123). An access is performed within its issue step,
or sent as a request that a later step performs at the home or the base die (07 R222, 10 R331). -/

namespace Sys2Proof.Machine

/-! ### Rectangle coordinates (R168) -/

/-- The tile at rectangle coordinates of a lease, where the lease is placed. -/
def rectTile (s : State) (l rect row col : Nat) : Option Nat :=
  let le := s.lease l
  match le.image.rects[rect]? with
  | none => none
  | some r =>
    if row < r.rows && col < r.cols then
      let corner := tileKey le.die le.row le.col
      tileAt (tilePRow corner + r.row0 + row) (tilePCol corner + r.col0 + col)
    else none

/-- The rectangle coordinates of a tile of a lease: the first rectangle that holds it. -/
def tileRect (s : State) (l k : Nat) : Option (Nat × Nat × Nat) :=
  let le := s.lease l
  let corner := tileKey le.die le.row le.col
  ((List.range le.image.rects.length).findSome? (fun i =>
    match le.image.rects[i]? with
    | none => none
    | some r =>
      let dr : Int := tilePRow k - (tilePRow corner + r.row0)
      let dc : Int := tilePCol k - (tilePCol corner + r.col0)
      if 0 ≤ dr && dr < r.rows && 0 ≤ dc && dc < r.cols then some (i, dr.toNat, dc.toNat) else none))

/-- The fields of a tile selector (R168). -/
def selTile (s : State) (l : Nat) (v : Nat) : Option Nat := rectTile s l (bits v 0 6) (bits v 6 6) (bits v 12 7)
def selIdx (v : Nat) : Nat := bits v 19 5
def selSub (v : Nat) : Nat := bits v 24 3
def selFlag (v : Nat) : Bool := bits v 27 1 == 1
def selHigh (v : Nat) : Bool := v / 2 ^ 28 == 0

/-! ### Atomics, barriers and buffers at the base die -/

/-- R221: the new value of an atomic on the low w bytes. -/
def atomNew (fn w m x c : Nat) : Nat :=
  let b := 8 * w
  match fn with
  | 0x00 => (m + x) % 2 ^ b
  | 0x01 => (Fmt.fp32.add .rne false (m % 2 ^ 32) (x % 2 ^ 32)).1
  | 0x02 => m &&& x
  | 0x03 => m ||| x
  | 0x04 => m ^^^ x
  | 0x05 => if signed b x < signed b m then x else m
  | 0x06 => if signed b m < signed b x then x else m
  | 0x07 => min m x
  | 0x08 => max m x
  | 0x09 => x
  | 0x0A => if m = c then x else m
  | _ => if x ≤ m then 0 else m + 1

/-- A barrier object as its fields (R223). -/
structure Bar where
  par : Nat := 0
  cl : Nat := 0
  left : Nat := 0
  pend : Nat := 0
  scope : Nat := 0
  expect : Nat := 0
  tsrel : Nat := 0
deriving DecidableEq, Repr, Inhabited

def barRead (m : Memory) (pa : Nat) : Bar :=
  let w0 := m.readN pa 8
  let w1 := m.readN (pa + 8) 8
  { par := bits w0 63 1, cl := bits w0 62 1, left := bits w0 36 16, pend := bits w0 0 36, scope := bits w1 16 3,
    expect := bits w1 0 16, tsrel := m.readN (pa + 16) 8 }

/-- Writes the fields of a barrier, leaving the other bits as they stand. -/
def barWrite (m : Memory) (pa : Nat) (b : Bar) : Memory :=
  let w0 := m.word pa
  let w1 := m.word (pa + 8)
  let m1 := m.setWord pa ((((w0.put 63 1 b.par).put 62 1 b.cl).put 36 16 b.left).put 0 36 b.pend)
  let m2 := m1.setWord (pa + 8) ((w1.put 16 3 b.scope).put 0 16 b.expect)
  m2.setWord (pa + 16) (BitVec.ofNat 64 b.tsrel)

/-- R224, R225: once the operations of an fc are applied, whether the phase completes. -/
def Bar.settle (b : Bar) : Bar :=
  if b.cl = 0 && b.left = 0 && b.pend = 0 then
    { b with par := 1 - b.par, left := b.expect, cl := if b.expect = 0 then 1 else 0 }
  else b

/-- R224: lowers pend by bytes a copy reports; none if that would take it below zero (R226). -/
def Bar.report (b : Bar) (n : Nat) : Option Bar :=
  if n ≤ b.pend then some { b with pend := b.pend - n } else none

/-- A buffer control block (R246). -/
structure CBlk where
  base : Nat := 0
  w1 : Nat := 0
  w2 : Nat := 0
  w3 : Nat := 0
deriving DecidableEq, Repr, Inhabited

def cbRead (m : Memory) (pa : Nat) : CBlk :=
  { base := m.readN pa 8, w1 := m.readN (pa + 8) 8, w2 := m.readN (pa + 16) 8, w3 := m.readN (pa + 24) 8 }

def CBlk.cap (b : CBlk) : Nat := bits b.w1 17 17
def CBlk.esize (b : CBlk) : Nat := bits b.w1 34 4
def CBlk.bank (b : CBlk) : Bool := bits b.w1 16 1 == 1
def CBlk.prod (b : CBlk) : Nat := bits b.w2 0 18
def CBlk.cons (b : CBlk) : Nat := bits b.w3 0 18
def CBlk.count (b : CBlk) : Nat := (b.prod + (2 * b.cap - b.cons % (2 * b.cap))) % (2 * b.cap)
/-- Room is negative where software has stored pointers further apart than cap. -/
def CBlk.room (b : CBlk) : Int := (b.cap : Int) - b.count

/-- R247: whether a block passes the checks of CB.INIT for a lease. -/
def CBlk.ok (b : CBlk) (s : State) (l : Nat) : Bool :=
  bits b.w1 38 26 == 0 && bits b.w2 18 46 == 0 && bits b.w3 18 46 == 0
    && b.esize ≤ 5 && 1 ≤ b.cap && b.cap ≤ 65536
    && (!b.bank ||
        (bits b.base 48 16 == 0 && bits b.w1 0 16 == 0 && selHigh (bits b.base 0 32) && selIdx b.base == 0
          && selSub b.base == 0 && !selFlag b.base && (selTile s l (bits b.base 0 32)).isSome
          && bits b.base 32 16 + b.cap * 4 * 2 ^ b.esize ≤ 65536))

/-! ### What an access does at its line -/

/-- The bytes an access covers, which its address must be a multiple of (R137, R220, R223, R246). -/
def accSize : AccOp → Nat
  | .load _ w _ => w
  | .store w _ => w
  | .atom _ w _ _ _ _ _ _ => w
  | _ => 32

/-- What an access needs of its page (R141, R220, R223, R246). -/
def accNeed : AccOp → Need
  | .load _ _ _ => { r := true }
  | .store _ _ => { w := true }
  | .atom _ _ _ _ _ scope _ _ => { r := true, w := true, ms := true, noProof := true, noSys := scope != 7 }
  | _ => { r := true, w := true, ms := true, noProof := true, noSys := true }

/-- The value of a load, extended as its form says (R138). -/
def loadVal (w : Nat) (sgn : Bool) (n : Nat) : Word :=
  if sgn then BitVec.ofInt 64 (signed (8 * w) n) else BitVec.ofNat 64 n

/-- R215: a memory-side line keeps the time of the last release applied to it. -/
def stampLine (s : State) (pa : Nat) : State := { s with relT := Tbl.set 0 s.relT (pa / 128) (timeNs s) }

/-- The agent of a context. -/
def ctxWho (s : State) (k : Nat) : Who := { lease := (s.ctx k).lease, agent := .ctx k }

/-- A line transfer that takes place or not, as is free (log entry 8). -/
def freeHbm (s : State) (l die : Nat) : State :=
  s.drawn.modLease l (fun x => { x with localUse := if s.free then (x.countHbm die).localUse else x.localUse })

/-- R406: a line access of a die's slices in the present step, for the damper. -/
def State.hit (s : State) (die : Nat) : State := { s with hits := Tbl.set 0 s.hits die (Tbl.get 0 s.hits die + 1) }

/-- The line transfers of n lines from a PA, for the budget (R358): one for each at the base die; through the slices, one for each
that misses them and one for each line written back in turn, both free choices. Each is an operation of the slices of its die (R406). -/
def countLines (s : State) (l pa : Nat) (cached : Bool) : Nat → State
  | 0 => s
  | n + 1 =>
    let die := pa / 2 ^ 36
    countLines ((if cached then freeHbm (freeHbm s l die) l die else countHbm s l die).hit die) l (pa + 128) cached n

/-- The lines that n bytes at a PA touch. -/
def linesAt (pa n : Nat) : Nat := (pa % 128 + n + 127) / 128

/-- The line transfers of an access to one line. -/
def countAccess (s : State) (l pa : Nat) (cached : Bool) : State := countLines s l pa cached 1

/-- The release time recorded at what an acquire takes in (R215). -/
def seenTime (s : State) (op : AccOp) (pa : Nat) : Nat :=
  match op with
  | .barTest _ _ _ => (barRead s.mem pa).tsrel
  | .barWait _ _ => (barRead s.mem pa).tsrel
  | _ => Tbl.get 0 s.relT (pa / 128)

/-- What an acquiring access takes in where it is performed: the scope of its barrier and the release time recorded there (R215, R227). -/
def seenAt (s : State) (op : AccOp) (pa : Nat) : Nat × Nat := ((barRead s.mem pa).scope, seenTime s op pa)

/-! ### Barrier operations of one fc (R225) -/

/-- R225: the place of a barrier operation among those of its fc: by kind, then by context. -/
def barRank (k : Nat) : AccOp → Option Nat
  | .barInit _ _ => some k
  | .barExpect _ => some (4096 + k)
  | .barArrive drop _ _ _ => some ((if drop then 8192 else 12288) + k)
  | .barReport _ => some (16384 + k)
  | _ => none

/-- Whether an operation comes too late for its barrier in this fc, so that it is applied in the next. -/
def barLate (s : State) (k pa : Nat) (op : AccOp) : Bool :=
  match barRank k op with
  | none => false
  | some r => lateFor s (.bar pa) r

/-- Notes a barrier operation that is applied. -/
def barServe (s : State) (k pa : Nat) (op : AccOp) : State :=
  match barRank k op with
  | none => s
  | some r => serve s (.bar pa) r

/-- R227: the base die wakes the waiters of a barrier whose parity is no longer theirs, those included whose answer is on its way; each
takes the barrier's scope and release time as they are then. -/
def markBar (s : State) (pa : Nat) : State :=
  let b := barRead s.mem pa
  { s with
    ctxs := s.ctxs.map (fun e =>
      match e.2.wait with
      | some (.bar acq va pa' p none) =>
        if pa' = pa && b.par != boolBit p then (e.1, { e.2 with wait := some (.bar acq va pa' p (some (b.scope, b.tsrel))) }) else e
      | _ => e)
    reqs := s.reqs.map (fun r =>
      match r.op with
      | .barWait _ p =>
        if r.pa = pa && r.res == some .wait && b.par != boolBit p then { r with res := some (.val 1), seen := (b.scope, b.tsrel) } else r
      | _ => r) }

/-- R225: the completion test, once after the operations of an fc, and its waiters. -/
def settleBar (s : State) (pa : Nat) : State :=
  markBar { s with mem := barWrite s.mem pa (barRead s.mem pa).settle } pa

/-- R224: BAR.ARRIVE and BAR.DROP. -/
def barArrive (s : State) (w : Who) (pa : Nat) (drop rel : Bool) (n : Nat) : State × AccRes :=
  let b := barRead s.mem pa
  if b.left = 0 then (s, .trap 0x07)
  else if 2 ^ 36 - 1 < b.pend + n then (s, .trap 0x13)
  else
    let s1 := if rel then releaseBy s w b.scope else s
    let b1 : Bar := { b with pend := b.pend + n, left := b.left - 1, tsrel := if rel then max b.tsrel (timeNs s) else b.tsrel }
    let b2 : Bar := if drop then { b1 with expect := (b1.expect + 65535) % 65536 } else b1
    ({ s1 with mem := barWrite s1.mem pa b2 }, .val (BitVec.ofNat 64 b.par))

/-- R247: CB.PUSH and CB.POP. -/
def cbMove (s : State) (w : Who) (pa : Nat) (push : Bool) (scope : Nat) (rel : Bool) (n : Nat) : State × AccRes :=
  let b := cbRead s.mem pa
  if !b.ok s w.lease then (s, .trap 0x12)
  else if push then
    if b.room < n then (s, .trap 0x12)
    else
      let s1 := if rel then releaseBy s w scope else s
      let m := s1.mem.setWord (pa + 16) (BitVec.ofNat 64 ((b.prod + n) % (2 * b.cap)))
      let s2 : State := { s1 with mem := m }
      (if rel then stampLine s2 pa else s2, .val (BitVec.ofInt 64 (b.room - n)))
  else
    if b.count < n then (s, .trap 0x12)
    else
      let m := s.mem.setWord (pa + 24) (BitVec.ofNat 64 ((b.cons + n) % (2 * b.cap)))
      ({ s with mem := m }, .val (BitVec.ofNat 64 (b.count - n)))

/-- What an access of context k does at its line, and what it gives. -/
def performAcc (s : State) (k : Nat) (op : AccOp) (va pa : Nat) (a : PageAttr) : State × AccRes :=
  let w := ctxWho s k
  match op with
  | .load _ n sgn =>
    let s1 := countAccess s w.lease pa (!a.ms)
    (s1, .val (loadVal n sgn (loadAt s w va pa a n)))
  | .store n v =>
    match storeAt s w va pa a n (fullMask n) v.toNat with
    | .error c => (s, .trap c)
    | .ok s1 => (countAccess s1 w.lease pa (!a.ms), .val 0)
  | .atom fn n _ x c scope _ rel =>
    let s1 := if rel then releaseBy s w scope else s
    let m := s1.mem.readN pa n
    let v := atomNew fn n m (x.toNat % 2 ^ (8 * n)) (c.toNat % 2 ^ (8 * n))
    let s2 : State := { s1 with mem := s1.mem.writeN pa n v }
    let s3 := if rel then stampLine s2 pa else s2
    (countAccess s3 w.lease pa false, .val (BitVec.ofNat 64 m))
  | .barInit scope cnt =>
    let m := (((s.mem.setWord pa (BitVec.ofNat 64 (cnt * 2 ^ 36))).setWord (pa + 8) (BitVec.ofNat 64 (cnt + scope * 2 ^ 16))).setWord
      (pa + 16) 0).setWord (pa + 24) 0
    (countAccess (markBar (barServe { s with mem := m } k pa op) pa) w.lease pa false, .val 0)
  | .barArrive drop rel _ n =>
    let r := barArrive s w pa drop rel n
    (countAccess (barServe r.1 k pa op) w.lease pa false, r.2)
  | .barExpect n =>
    let b := barRead s.mem pa
    if 2 ^ 36 - 1 < b.pend + n then (countAccess (barServe s k pa op) w.lease pa false, .trap 0x13)
    else
      let s1 : State := { s with mem := barWrite s.mem pa { b with pend := b.pend + n } }
      (countAccess (barServe s1 k pa op) w.lease pa false, .val 0)
  | .barReport n =>
    match (barRead s.mem pa).report n with
    | none => (countAccess (barServe s k pa op) w.lease pa false, .trap 0x13)
    | some b => (countAccess (barServe { s with mem := barWrite s.mem pa b } k pa op) w.lease pa false, .val 0)
  | .barTest _ _ p =>
    let b := barRead s.mem pa
    (countAccess s w.lease pa false, .val (if b.par != boolBit p then 1 else 0))
  | .barWait _ p =>
    let b := barRead s.mem pa
    (countAccess s w.lease pa false, if b.par != boolBit p then .val 1 else .wait)
  | .cbInit _ =>
    let b := cbRead s.mem pa
    let s1 := countAccess s w.lease pa false
    if !(b.ok s w.lease) then (s1, .val 4)
    else
      let m := (s1.mem.setWord (pa + 16) 0).setWord (pa + 24) 0
      ({ s1 with mem := m }, .val 0)
  | .cbPush scope rel _ n =>
    let r := cbMove s w pa true scope rel n
    (countAccess r.1 w.lease pa false, r.2)
  | .cbPop scope _ _ n =>
    let r := cbMove s w pa false scope false n
    (countAccess r.1 w.lease pa false, r.2)
  | .cbAvail _ =>
    let b := cbRead s.mem pa
    (countAccess s w.lease pa false, if b.ok s w.lease then .val (BitVec.ofNat 64 b.count) else .trap 0x12)
  | .cbRoom _ =>
    let b := cbRead s.mem pa
    (countAccess s w.lease pa false, if b.ok s w.lease then .val (BitVec.ofInt 64 b.room) else .trap 0x12)

/-! ### Completion of an access -/

/-- The acquire of a form, with its scope, if its bit is set and its condition holds (R214, R227); `bscope` is that of its barrier. -/
def accAcquire (op : AccOp) (bscope : Nat) (v : Word) : Option Nat :=
  match op with
  | .atom _ _ _ _ _ scope acq _ => if acq then some scope else none
  | .barTest acq _ _ => if acq && v == 1 then some bscope else none
  | .barWait acq _ => if acq then some bscope else none
  | .cbPop scope acq _ _ => if acq then some scope else none
  | _ => none

/-- The register an access writes, with its value. -/
def accWrite (op : AccOp) (v : Word) (c : Ctx) : Ctx :=
  match op with
  | .load (.g d) _ _ => c.wg d v
  | .load (.fw d) _ _ => c.wf d (0xFFFFFFFF00000000 ||| (v &&& 0xFFFFFFFF))
  | .load (.fd d) _ _ => c.wf d v
  | .atom _ _ d _ _ _ _ _ => c.wg d v
  | .barArrive _ _ d _ => c.wg d v
  | .barTest _ d _ => c.wg d v
  | .cbInit d => c.wg d v
  | .cbPush _ _ d _ => c.wg d v
  | .cbPop _ _ d _ => c.wg d v
  | .cbAvail d => c.wg d v
  | .cbRoom d => c.wg d v
  | _ => c

/-- No fault code: an access that waits is tried again later (R343, R359, R399). -/
def heldCode : Nat := 0x100

/-- A fault of a context's access: a frame-tag refusal is also a class 1 alarm (R360, R436). -/
def accFault (s : State) (k code va : Nat) : State :=
  let s1 := s.modCtx k (fun c => { c with busy := none })
  let s2 := if code = 0x08 then ctxTagAlarm s1 k va else s1
  faultVa s2 k code va

/-- The end of an access: its acquire of what it has `seen`, its register and the instruction's completion, its trap, or its wait. -/
def finishAcc (s : State) (k : Nat) (op : AccOp) (va pa : Nat) (seen : Nat × Nat) (r : AccRes) : State :=
  match r with
  | .trap c => accFault s k c va
  | .wait =>
    match op with
    | .barWait acq p => s.modCtx k (fun c => { c with st := .waiting, busy := none, wait := some (.bar acq va pa p none) })
    | _ => s
  | .val v =>
    let s1 := match accAcquire op seen.1 v with
      | some scope => acquireBy s (ctxWho s k) scope seen.2
      | none => s
    complete s1 k (fun c => (accWrite op v c).past)

/-! ### System windows (R326, R412, R413) -/

/-- The ports that are up. -/
def upPorts (s : State) : List Nat :=
  (s.fab.ports.filter (fun e => e.2.gstat.fld 6 2 == 2)).map (fun e => e.1)

/-- R410: a transaction, a request (class 1) or a reply (class 2), goes to the sender of a direction of a port, and leaves in a flit once the replay buffer has room. -/
def LinkDir.sendTxn (d : LinkDir) (cls txn : Nat) : LinkDir := { d with out := d.out ++ [{ tile := txn, cls }] }

/-- R413: a request goes out on a port that is up, chosen by the hash; with none up it stays unsent. -/
def routeRemote (s : State) (q : GReq) : State × GReq :=
  let ports := upPorts s
  match ports[Config.goriskHash q.pkg (bits q.rpa 7 9) % (max 1 ports.length)]? with
  | none => (s, { q with sent := s.fc })
  | some port =>
    let g := Tbl.get {} s.fab.ports port
    ({ s with fab := { s.fab with ports := Tbl.set {} s.fab.ports port { g with d0 := g.d0.sendTxn 1 q.txn } } },
      { q with sent := s.fc, port })

/-- Sends a request to another package. -/
def sendRemote (s : State) (k : Nat) (op : AccOp) (pkg rpa : Nat) : State :=
  let le := s.lease (s.ctx k).lease
  let r := routeRemote s { txn := s.fab.txn, src := s.fab.pkgid.toNat, tag := mkTag le.part le.slot, ctx := k, pkg, rpa, op }
  { r.1 with fab := { r.1.fab with greqs := r.1.fab.greqs ++ [r.2], txn := (r.1.fab.txn + 1) % 65536 } }

/-! ### Issue of an access -/

/-- Whether a migration has a frame. -/
def migrates (s : State) (pa : Nat) : Bool := s.migrs.any (fun m => m.src == pa / 65536 || m.dst == pa / 65536)

/-- Whether a new access to a frame is held: a migration has it, or accesses that one held are still to be made (R343). -/
def frameHeld (s : State) (pa : Nat) : Bool :=
  migrates s pa || s.reqs.any (fun q => q.mig && q.res.isNone && q.pa / 65536 == pa / 65536)

/-- R343: whether a request has its turn at its frame: no migration has it, and those held before it have been made. -/
def frameTurn (s : State) (r : Req) : Bool :=
  !migrates s r.pa && (s.reqs.takeWhile (fun q => q.ctx != r.ctx)).all (fun q => !q.mig || q.res.isSome || q.pa / 65536 != r.pa / 65536)

/-- R413: what a remote package gives at once to a copy (log entry 13). -/
def remoteNow (s : State) (pa : Nat) (op : AccOp) : Except Nat (State × Nat) :=
  match windowOf s pa with
  | none => .error 0x06
  | some (pkg, rpa) =>
    if (upPorts s).isEmpty then .error 0x06
    else
      let txn := s.fab.txn
      let s1 : State := { s with fab := { s.fab with txn := (txn + 1) % 65536 } }
      match Config.remoteReply pkg rpa txn op with
      | .val v => .ok (s1, v.toNat)
      | .trap c => .error c
      | .wait => .ok (s1, 0)

/-- R222: the release of an atomic. -/
def AccOp.releases : AccOp → Bool
  | .atom _ _ _ _ _ _ _ rel => rel
  | _ => false

/-- Sends an access that has passed its checks: at once, or as a request; to another die it is always a request. The release of an
atomic on a system window publishes before it is sent (R222). -/
def sendAcc (s : State) (k : Nat) (op : AccOp) (va pa : Nat) (a : PageAttr) : State :=
  let l := (s.ctx k).lease
  let r := Req.setOut s { ctx := k, op, va, pa, attr := a }
  let held := s.cur.transit || frameHeld s pa || hbmHeld s l a || barLate s k pa op || r.held || !r.way.isEmpty
  let s1 := s.modCtx k (fun c => { c with busy := some .access })
  if a.sysw then
    match windowOf s pa with
    | none => accFault s k 0x06 va
    | some (pkg, rpa) =>
      let s2 := sendRemote (if op.releases then releaseBy s1 (ctxWho s k) 7 else s1) k op pkg rpa
      { s2 with reqs := s2.reqs ++ [{ ctx := k, op, va, pa, attr := a }] }
  else if held then sendReq { s1 with reqs := s1.reqs ++ [r] } r
  else
    let r := performAcc s k op va pa a
    finishAcc r.1 k op va pa (seenAt r.1 op pa) r.2

/-- The checks of R116 from alignment on, and then the access. -/
def accessAt (s : State) (k : Nat) (op : AccOp) (va : Nat) : State :=
  if va % accSize op ≠ 0 then accFault s k 0x03 va
  else match translateCtx s k va with
    | .error c => accFault s k c va
    | .ok (s1, e) =>
      match pageCheck s1 (ctxWho s1 k) va e (accNeed op) with
      | .error c => accFault s1 k c va
      | .ok pa => sendAcc s1 k op va pa e.attr

/-- An access of the running context. -/
def access (s : State) (op : AccOp) (va : Nat) : State := accessAt s s.cur.ctx op va

/-! ### Accesses of engines, copies, rings and presses -/

/-- What such an access gives: the state, the value read, the n bytes for the budget, and the line for a release. -/
structure Got where
  st : State
  val : Nat
  pa : Nat
  n : Nat := 1
  phased : Bool
  cached : Bool
  sys : Bool

/-- The line transfers of an access counted (R358). -/
def Got.counted (g : Got) (l : Nat) : State := if g.sys then g.st else countLines g.st l g.pa g.cached (linesAt g.pa g.n)

/-- The die that an agent's accesses come from; a command processor has none. -/
def Who.die (w : Who) : Option Nat :=
  if w.proc.isSome then none
  else match w.agent with
    | .ctx k => some (ctxDie k)
    | .tile k => some (tileDie k)

/-- Whether such an access waits: its frame migrates (R343), its lease has spent its budget (R359), or the way to its home is cut
off (R399). None of a lease that ends does (R348). -/
def agentWaits (s : State) (w : Who) (pa : Nat) (a : PageAttr) : Bool :=
  (s.lease w.lease).st != .ending && (frameHeld s pa || hbmHeld s w.lease a || (match w.die with
    | none => false
    | some d => !reaches s d pa))

/-- The line that a phased write touched (R338). -/
def Got.line (g : Got) : List Nat := if g.phased then [g.pa / 128] else []

/-- A read of n bytes by a unit that translates by `tr`; `sys` says whether it may reach a system window (R326). -/
def agentRead (tr : State → Nat → Except Nat (State × TlbEnt)) (s : State) (w : Who) (va n : Nat) (sys : Bool) :
    Except Nat Got :=
  match tr s va with
  | .error c => .error c
  | .ok (s1, e) =>
    match pageCheck s1 w va e { r := true, noSys := !sys } with
    | .error c => .error c
    | .ok pa =>
      if e.attr.sysw then
        (remoteNow s1 pa (.load (.g 0) n false)).map (fun r =>
          { st := r.1, val := r.2, pa, phased := false, cached := false, sys := true })
      else if agentWaits s1 w pa e.attr then .error heldCode
      else .ok { st := s1, val := loadAt s1 w va pa e.attr n, pa, n, phased := isPhased s1 w va e.attr, cached := !e.attr.ms
                 sys := false }

/-- A write of the masked bits of n bytes by such a unit. -/
def agentWrite (tr : State → Nat → Except Nat (State × TlbEnt)) (s : State) (w : Who) (va n mask val : Nat) (sys : Bool) :
    Except Nat Got :=
  match tr s va with
  | .error c => .error c
  | .ok (s1, e) =>
    match pageCheck s1 w va e { w := true, noSys := !sys } with
    | .error c => .error c
    | .ok pa =>
      if e.attr.sysw then
        (remoteNow s1 pa (.store n (BitVec.ofNat 64 val))).map (fun r =>
          { st := r.1, val := 0, pa, phased := false, cached := false, sys := true })
      else if agentWaits s1 w pa e.attr then .error heldCode
      else (storeAt s1 w va pa e.attr n mask val).map (fun s2 =>
        { st := s2, val := 0, pa, n, phased := isPhased s1 w va e.attr, cached := !e.attr.ms, sys := false })

/-- The bytes of a range up to the end of its smallest page, of 64 KiB. -/
def pageLeft (va : Nat) : Nat := 65536 - va % 65536

/-- A read of n bytes, over the one or two pages that they touch. -/
def agentReadAcross (tr : State → Nat → Except Nat (State × TlbEnt)) (s : State) (w : Who) (va n : Nat) : Except Nat Got :=
  let m := pageLeft va
  if n ≤ m then agentRead tr s w va n false
  else match agentRead tr s w va m false with
    | .error c => .error c
    | .ok g =>
      (agentRead tr (g.counted w.lease) w ((va + m) % 2 ^ 80) (n - m) false).map (fun h => { h with val := g.val + 256 ^ m * h.val })

/-- A write of the masked bits of n bytes, over the one or two pages that they touch: what it leaves, and the phased lines. -/
def agentWriteAcross (tr : State → Nat → Except Nat (State × TlbEnt)) (s : State) (w : Who) (va n mask val : Nat) :
    Except Nat (State × List Nat) :=
  let m := pageLeft va
  if n ≤ m then (agentWrite tr s w va n mask val false).map (fun g => (g.counted w.lease, g.line))
  else match agentWrite tr s w va m mask val false with
    | .error c => .error c
    | .ok g =>
      (agentWrite tr (g.counted w.lease) w ((va + m) % 2 ^ 80) (n - m) (mask / 256 ^ m) (val / 256 ^ m) false).map (fun h =>
        (h.counted w.lease, g.line ++ h.line))

/-! ### Reads of descriptors (R169, R178, R238) -/

/-- The end of a form that an access of its own stops: the fault, or, where that access waits, nothing, so that the context issues
the form again. -/
def formFault (s : State) (k code va : Nat) : State := if code = heldCode then s else accFault s k code va

/-- One word read as a load of n bytes by a context, or the code of its fault; `waits` says whether it may have to wait. -/
def readWord (waits : Bool) (s : State) (k va n : Nat) : Except Nat (State × Nat) :=
  match translateCtx s k va with
  | .error c => .error c
  | .ok (s1, e) =>
    match pageCheck s1 (ctxWho s1 k) va e { r := true } with
    | .error c => .error c
    | .ok pa =>
      if e.attr.sysw then remoteNow s1 pa (.load (.g 0) n false)
      else if waits && agentWaits s1 (ctxWho s1 k) pa e.attr then .error heldCode
      else .ok (countAccess s1 (s1.ctx k).lease pa (!e.attr.ms), loadAt s1 (ctxWho s1 k) va pa e.attr n)

def readVa (s : State) (k va n : Nat) : Except Nat (State × Nat) := readWord true s k va n

/-- n words of w bytes from a VA upward; a fault carries its code and VA. -/
def readVaWords (s : State) (k w va : Nat) : Nat → Except (Nat × Nat) (State × List Nat)
  | 0 => .ok (s, [])
  | n + 1 =>
    match readVa s k (va % 2 ^ 80) w with
    | .error c => .error (c, va % 2 ^ 80)
    | .ok (s1, v) =>
      match readVaWords s1 k w (va + w) n with
      | .error e => .error e
      | .ok (s2, vs) => .ok (s2, v :: vs)

/-- A store of n bytes by a context outside the access forms (SWEEP), or its fault. -/
def writeVa (s : State) (k va n val : Nat) : Except Nat State :=
  match translateCtx s k va with
  | .error c => .error c
  | .ok (s1, e) =>
    match pageCheck s1 (ctxWho s1 k) va e { w := true } with
    | .error c => .error c
    | .ok pa =>
      if e.attr.sysw then (remoteNow s1 pa (.store n (BitVec.ofNat 64 val))).map (fun r => r.1)
      else if agentWaits s1 (ctxWho s1 k) pa e.attr then .error heldCode
      else (storeAt s1 (ctxWho s1 k) va pa e.attr n (fullMask n) val).map (fun s2 => countAccess s2 (s2.ctx k).lease pa (!e.attr.ms))

/-! ### The end of an fc (R16, R201, R204, R225, R237) -/

/-- The tag updates of an fc, as (context, tile, slot, entry). -/
def Due.tags : Due → Option (Nat × Nat × Option Nat × BitVec 80)
  | .tag c k i e => some (c, k, i, e)
  | _ => none

/-- Sets an entry of a tile's tag table, or clears the table. -/
def setTag (s : State) (k : Nat) (slot : Option Nat) (e : BitVec 80) : State :=
  s.modTile k (fun t => { t with tags := match slot with
    | none => []
    | some i => Tbl.set 0 t.tags i e })

/-- What the other dues do. -/
def Due.apply (s : State) : Due → State
  | .tag _ _ _ _ => s
  | .stored k i => s.modTile k (fun t => { t with tags := Tbl.set 0 t.tags i ((Tbl.get 0 t.tags i).put 6 1 1) })
  | .mask k rc on => s.modTile k (fun t => { t with rcMask := if on then (if t.rcMask.contains rc then t.rcMask else t.rcMask ++ [rc])
                                                              else t.rcMask.filter (fun x => x != rc) })
  | .event _ _ => s
  | .served _ _ => s

/-- The records of an fc, as (context, record). -/
def Due.record : Due → Option (Nat × Word)
  | .event k w => some (k, w)
  | _ => none

/-- The barriers that were operated on. -/
def Due.barrier : Due → Option Nat
  | .served (.bar pa) _ => some pa
  | _ => none

/-- The end of an fc: tag updates in context order, then the dirty marks of stores (R237), masks (R201), the completion test of each
barrier (R225), and the event records in ascending kind (R204). -/
def endFc (s : State) : State :=
  let ds := s.dues
  let s1 : State := { s with dues := [] }
  let s2 := (sortBy (fun x => x.1) (ds.filterMap Due.tags)).foldl (fun s x => setTag s x.2.1 x.2.2.1 x.2.2.2) s1
  let s3 := ds.foldl Due.apply s2
  let s4 := (ds.filterMap Due.barrier).eraseDups.foldl settleBar s3
  (sortBy (fun x => x.2.fld 56 8) (ds.filterMap Due.record)).foldl (fun s x => s.modCtx x.1 (fun c => c.post x.2)) s4

/-- Whether a due concerns a tile or a context of a lease. -/
def Due.of (s : State) (l : Nat) : Due → Bool
  | .tag _ k _ _ => (s.tile k).lease == some l
  | .stored k _ => (s.tile k).lease == some l
  | .mask k _ _ => (s.tile k).lease == some l
  | .event k _ => (s.ctx k).lease == l
  | .served _ _ => false

/-- What the end of the fc still has to do for a lease that leaves the array, done before it does; the dues of all others stand. -/
def endFcOf (s : State) (l : Nat) : State :=
  let t := endFc { s with dues := s.dues.filter (Due.of s l) }
  { t with dues := t.dues ++ s.dues.filter (fun d => !d.of s l) }

end Sys2Proof.Machine
end

