-- ==== Sys2Proof/Machine/Flags.lean ====
section
/-! DEFINITION. The sticky flags and modes of fcr (01 R29, 03 R93 to R97, 05 R144, R151). -/

namespace Sys2Proof.Machine

/-- The bits [7:3] of fcr for a set of flags (R29). -/
def FFlags.bits (f : FFlags) : Word :=
  BitVec.ofNat 64 (boolBit f.nx * 8 + boolBit f.uf * 16 + boolBit f.ovf * 32 + boolBit f.dz * 64 + boolBit f.nv * 128)

/-- R97, R151: an FPU form ORs its flags into fcr. -/
def Ctx.orFlags (c : Ctx) (f : FFlags) : Ctx := { c with fcr := c.fcr ||| f.bits }

/-- fcr.ftz and fcr.rm, sampled at issue (R144). -/
def Ctx.ftz (c : Ctx) : Bool := c.fcr.fld 2 1 == 1
def Ctx.rm (c : Ctx) : Rm := Rm.ofBits (c.fcr.extractLsb' 0 2)

/-- The mode of a b field that holds a mode code (R74, R113): 00000 takes fcr.rm, 00100 + rm names a mode. -/
def Ctx.mode (c : Ctx) (m : BitVec 5) : Rm := if m = 0 then c.rm else Rm.ofBits (m.extractLsb' 0 2)

end Sys2Proof.Machine
end

