-- ==== Sys2Proof/Machine/Operands.lean ====
section
/-! DEFINITION. Operand forms of the stoker: immediates (02 R57), float registers by format (05 R143), control and
status registers (01 R25 to R31, 05 R157), and register operands with fields (07 R211). -/

namespace Sys2Proof.Machine

/-! ### Immediates -/

/-- A sign-extended immediate. -/
def sx {n : Nat} (i : BitVec n) : Word := i.signExtend 64
def zx {n : Nat} (i : BitVec n) : Word := i.setWidth 64

/-- The effective address of an M form (R57, R137). -/
def eaM (c : Ctx) (r : BitVec 3) (i : BitVec 18) : Nat := (c.ra r + i.signExtend 80).toNat

/-- A branch target (R57, R132). -/
def branchTo {n : Nat} (pc : Word) (i : BitVec n) : Word := pc + 4 * sx i

/-! ### Float registers (R143) -/

/-- The formats of a cvt field: 00 F32, 01 F64, 10 BF16 (R113). -/
def cvtFmt (x : BitVec 2) : Fmt := if x = 0 then .fp32 else if x = 1 then .fp64 else .bf16

/-- The fmt field: 0 FP32, 1 FP64 (R113). -/
def fmtOf (t : BitVec 1) : Fmt := if t = 1 then .fp64 else .fp32

/-- R143: an operand in a format; one whose upper bits are not all ones reads as the canonical NaN. -/
def readFmt (f : Fmt) (v : Word) : Nat :=
  let n := v.toNat
  if n / 2 ^ f.width = 2 ^ (64 - f.width) - 1 then n % 2 ^ f.width else if f.width = 64 then n else f.canonNaN

/-- R143: a result in a format, with the upper bits ones. -/
def boxFmt (f : Fmt) (n : Nat) : Word :=
  BitVec.ofNat 64 (n % 2 ^ f.width + (2 ^ (64 - f.width) - 1) * 2 ^ f.width)

def Ctx.rfmt (c : Ctx) (f : Fmt) (x : BitVec 5) : Nat := readFmt f (c.rf x)

/-! ### Control and status registers (R25 to R31) -/

/-- The CSRs, by index (R25). -/
inductive Csr where
  | status
  | cause
  | epc
  | tvec
  | tval
  | tvalh
  | fcr
  | repstate
  | lease
  | ctx
  | tstamp
  | tsfloor
  | evhead
  | evtail
  | scratch
deriving DecidableEq, Repr, Inhabited

def Csr.ofIdx (i : Nat) : Option Csr :=
  match i with
  | 0x000 => some .status
  | 0x001 => some .cause
  | 0x002 => some .epc
  | 0x003 => some .tvec
  | 0x004 => some .tval
  | 0x005 => some .tvalh
  | 0x010 => some .fcr
  | 0x011 => some .repstate
  | 0x020 => some .lease
  | 0x021 => some .ctx
  | 0x030 => some .tstamp
  | 0x031 => some .tsfloor
  | 0x040 => some .evhead
  | 0x041 => some .evtail
  | 0x050 => some .scratch
  | _ => none

/-- R25: the registers marked RO. -/
def Csr.ro : Csr → Bool
  | .status => false
  | .epc => false
  | .tvec => false
  | .fcr => false
  | .repstate => false
  | .scratch => false
  | _ => true

/-- The value of a CSR; tstamp runs with global time. -/
def Ctx.csr (c : Ctx) (now : Nat) : Csr → Word
  | .status => c.status
  | .cause => c.cause
  | .epc => c.epc
  | .tvec => c.tvec
  | .tval => c.tval
  | .tvalh => c.tvalh
  | .fcr => c.fcr
  | .repstate => c.repstate
  | .lease => c.leaseR
  | .ctx => c.ctxR
  | .tstamp => BitVec.ofNat 64 now
  | .tsfloor => c.tsfloor
  | .evhead => c.evhead
  | .evtail => c.evtail
  | .scratch => c.scratch

/-- R26, R30, R157: the cause that a write of a value takes, if it may not be written. -/
def csrBad (x : Csr) (old new : Word) : Option Nat :=
  match x with
  | .status => if new.toNat / 4 = old.toNat / 4 then none else some 0x01
  | .epc => if new.fld 0 2 = 0 then none else some 0x03
  | .tvec => if new.fld 0 2 = 0 then none else some 0x03
  | .fcr => if new.fld 8 56 = 0 then none else some 0x01
  | .repstate =>
    if new.fld 32 32 ≠ 0 || new.fld 21 10 ≠ 0 then some 0x01
    else if new.fld 31 1 = 1 && new.fld 6 6 < new.fld 0 6 then some 0x01
    else none
  | .scratch => none
  | _ => some 0x01

/-- A write that has passed its checks; status.rep mirrors repstate.active (R27). -/
def Ctx.setCsr (c : Ctx) (x : Csr) (v : Word) : Ctx :=
  match x with
  | .status => { c with status := v }
  | .epc => { c with epc := v }
  | .tvec => { c with tvec := v }
  | .fcr => { c with fcr := v }
  | .repstate => { c with repstate := v, status := c.status.put 4 1 (v.fld 31 1) }
  | .scratch => { c with scratch := v }
  | _ => c

/-! ### Rights (R184, R424) -/

/-- Whether a partition's level holds a right (bit of R423). -/
def hasRight (s : State) (p bit : Nat) : Bool := p == 0 || (s.part p).rights.fld bit 1 == 1

end Sys2Proof.Machine
end

