-- ==== Sys2Proof/Machine/Adr.lean ====
section
/-! DEFINITION. Address registers: majors 0x23 and 0x24 (05 R135, R136). -/

namespace Sys2Proof.Machine

/-- An address register written, and completion. -/
def retireA (s : State) (d : BitVec 3) (v : Addr) : State := retire s (fun c => c.wa d v)

/-- R135: −1, 0 or +1 by unsigned comparison. -/
def acmpFn (x y : Addr) : Word := if x.ult y then -1 else if x = y then 0 else 1

/-- R135. Copies address register a[a] to a[d]. -/
def execAmov (d a : BitVec 3) (s : State) : Out := .next (retireA s d (s.cc.ra a))
/-- R135. a[d] := a[a] + sext(g[b]) mod 2^80. -/
def execAadd (d a : BitVec 3) (b : BitVec 5) (s : State) : Out :=
  .next (retireA s d (s.cc.ra a + (s.cc.rg b).signExtend 80))
/-- R135. Builds a[d] from g[a] and g[b][15:0]. -/
def execAset (d : BitVec 3) (a b : BitVec 5) (s : State) : Out :=
  .next (retireA s d ((s.cc.rg b).extractLsb' 0 16 ++ s.cc.rg a))
/-- R135. g[d] := a[a][63:0]. -/
def execAgetl (d : BitVec 5) (a : BitVec 3) (s : State) : Out := .next (retireG s d ((s.cc.ra a).extractLsb' 0 64))
/-- R135. g[d] := zext(a[a][79:64]). -/
def execAgeth (d : BitVec 5) (a : BitVec 3) (s : State) : Out :=
  .next (retireG s d (((s.cc.ra a).extractLsb' 64 16).setWidth 64))
/-- R135. Compares two address registers unsigned, writing -1, 0 or +1. -/
def execAcmp (d : BitVec 5) (a b : BitVec 3) (s : State) : Out := .next (retireG s d (acmpFn (s.cc.ra a) (s.cc.ra b)))
/-- R136. a[d] := a[a] + sext(imm16) mod 2^80. -/
def execAaddi (d a : BitVec 3) (i : BitVec 16) (s : State) : Out := .next (retireA s d (s.cc.ra a + i.signExtend 80))

end Sys2Proof.Machine
end

