-- ==== Sys2Proof/Machine/Alu.lean ====
section
/-! DEFINITION. Integer forms: majors 0x00 to 0x0B (04 R110, R111; 05 R125 to R131). -/

namespace Sys2Proof.Machine

/-- Shift and rotate amounts are g[b] mod 64 (R125). -/
def shAmt (y : Word) : Nat := y.toNat % 64
def boolWord (b : Bool) : Word := if b then 1 else 0
/-- Clamped to the signed 64-bit range (R125). -/
def sat64 (z : Int) : Word := BitVec.ofInt 64 (clampInt (-(2 ^ 63 : Nat)) ((2 ^ 63 - 1 : Nat) : Int) z)
/-- Leading zero bits of the low n bits. -/
def clzBits (x : Nat) : Nat → Nat
  | 0 => 0
  | n + 1 => if x.testBit n then 0 else 1 + clzBits x n
/-- Trailing zero bits of n bits. -/
def ctzBits (x : Nat) : Nat → Nat
  | 0 => 0
  | n + 1 => if x % 2 = 1 then 0 else 1 + ctzBits (x / 2) n
/-- One bits of the low n bits. -/
def popBits (x : Nat) : Nat → Nat
  | 0 => 0
  | n + 1 => boolBit (x.testBit n) + popBits x n
/-- Byte i to byte 7 − i. -/
def bswap (x : Word) : Word :=
  x.extractLsb' 0 8 ++ x.extractLsb' 8 8 ++ x.extractLsb' 16 8 ++ x.extractLsb' 24 8 ++ x.extractLsb' 32 8
    ++ x.extractLsb' 40 8 ++ x.extractLsb' 48 8 ++ x.extractLsb' 56 8

/-- The two-operand shape: g[d] := f g[a] g[b]. -/
def alu2 (s : State) (f : Word → Word → Word) (d a b : BitVec 5) : State :=
  retireG s d (f (s.cc.rg a) (s.cc.rg b))

/-- The one-operand shape: g[d] := f g[a]. -/
def alu1 (s : State) (f : Word → Word) (d a : BitVec 5) : State := retireG s d (f (s.cc.rg a))

/-! ### What each form computes (R125, R126) -/

def addFn (x y : Word) : Word := x + y
def subFn (x y : Word) : Word := x - y
def andFn (x y : Word) : Word := x &&& y
def orFn (x y : Word) : Word := x ||| y
def xorFn (x y : Word) : Word := x ^^^ y
def andnFn (x y : Word) : Word := x &&& ~~~y
def shlFn (x y : Word) : Word := x <<< shAmt y
def shrFn (x y : Word) : Word := x >>> shAmt y
def sraFn (x y : Word) : Word := x.sshiftRight (shAmt y)
def rolFn (x y : Word) : Word := x.rotateLeft (shAmt y)
def rorFn (x y : Word) : Word := x.rotateRight (shAmt y)
def sltFn (x y : Word) : Word := boolWord (x.slt y)
def sltuFn (x y : Word) : Word := boolWord (x.ult y)
def minFn (x y : Word) : Word := if x.slt y then x else y
def maxFn (x y : Word) : Word := if x.slt y then y else x
def minuFn (x y : Word) : Word := if x.ult y then x else y
def maxuFn (x y : Word) : Word := if x.ult y then y else x
def mulFn (x y : Word) : Word := x * y
def mulhFn (x y : Word) : Word := BitVec.ofInt 64 (x.toInt * y.toInt / 2 ^ 64)
def mulhuFn (x y : Word) : Word := BitVec.ofNat 64 (x.toNat * y.toNat / 2 ^ 64)
def divFn (x y : Word) : Word := if y = 0 then -1 else BitVec.ofInt 64 (x.toInt.tdiv y.toInt)
def divuFn (x y : Word) : Word := if y = 0 then -1 else BitVec.ofNat 64 (x.toNat / y.toNat)
def remFn (x y : Word) : Word := if y = 0 then x else BitVec.ofInt 64 (x.toInt.tmod y.toInt)
def remuFn (x y : Word) : Word := if y = 0 then x else BitVec.ofNat 64 (x.toNat % y.toNat)
def addwFn (x y : Word) : Word := ((x + y).setWidth 32).signExtend 64
def subwFn (x y : Word) : Word := ((x - y).setWidth 32).signExtend 64
def sataddFn (x y : Word) : Word := sat64 (x.toInt + y.toInt)
def satsubFn (x y : Word) : Word := sat64 (x.toInt - y.toInt)
def clzFn (x : Word) : Word := BitVec.ofNat 64 (clzBits x.toNat 64)
def ctzFn (x : Word) : Word := BitVec.ofNat 64 (ctzBits x.toNat 64)
def popcFn (x : Word) : Word := BitVec.ofNat 64 (popBits x.toNat 64)
def brevFn (x : Word) : Word := x.reverse
def bswapFn (x : Word) : Word := bswap x
def selFn (x y z : Word) : Word := if z ≠ 0 then x else y
def muladdFn (x y z : Word) : Word := x * y + z

/-! ### The meanings -/

/-- R125. g[d] := (g[a] + g[b]) mod 2^64. -/
def execAdd (d a b : BitVec 5) (s : State) : Out := .next (alu2 s addFn d a b)
/-- R125. g[d] := (g[a] - g[b]) mod 2^64. -/
def execSub (d a b : BitVec 5) (s : State) : Out := .next (alu2 s subFn d a b)
/-- R125. Bitwise AND of g[a] and g[b]. -/
def execAnd (d a b : BitVec 5) (s : State) : Out := .next (alu2 s andFn d a b)
/-- R125. Bitwise OR of g[a] and g[b]. -/
def execOr (d a b : BitVec 5) (s : State) : Out := .next (alu2 s orFn d a b)
/-- R125. Bitwise XOR of g[a] and g[b]. -/
def execXor (d a b : BitVec 5) (s : State) : Out := .next (alu2 s xorFn d a b)
/-- R125. g[a] AND NOT g[b]. -/
def execAndn (d a b : BitVec 5) (s : State) : Out := .next (alu2 s andnFn d a b)
/-- R125. Shift g[a] left by g[b] mod 64. -/
def execShl (d a b : BitVec 5) (s : State) : Out := .next (alu2 s shlFn d a b)
/-- R125. Logical shift right of g[a] by g[b] mod 64. -/
def execShr (d a b : BitVec 5) (s : State) : Out := .next (alu2 s shrFn d a b)
/-- R125. Arithmetic shift right of g[a] by g[b] mod 64. -/
def execSra (d a b : BitVec 5) (s : State) : Out := .next (alu2 s sraFn d a b)
/-- R125. Rotate g[a] left by g[b] mod 64. -/
def execRol (d a b : BitVec 5) (s : State) : Out := .next (alu2 s rolFn d a b)
/-- R125. Rotate g[a] right by g[b] mod 64. -/
def execRor (d a b : BitVec 5) (s : State) : Out := .next (alu2 s rorFn d a b)
/-- R125. 1 if g[a] < g[b] signed, else 0. -/
def execSlt (d a b : BitVec 5) (s : State) : Out := .next (alu2 s sltFn d a b)
/-- R125. 1 if g[a] < g[b] unsigned, else 0. -/
def execSltu (d a b : BitVec 5) (s : State) : Out := .next (alu2 s sltuFn d a b)
/-- R125. Signed minimum of g[a] and g[b]. -/
def execMin (d a b : BitVec 5) (s : State) : Out := .next (alu2 s minFn d a b)
/-- R125. Signed maximum of g[a] and g[b]. -/
def execMax (d a b : BitVec 5) (s : State) : Out := .next (alu2 s maxFn d a b)
/-- R125. Unsigned minimum of g[a] and g[b]. -/
def execMinu (d a b : BitVec 5) (s : State) : Out := .next (alu2 s minuFn d a b)
/-- R125. Unsigned maximum of g[a] and g[b]. -/
def execMaxu (d a b : BitVec 5) (s : State) : Out := .next (alu2 s maxuFn d a b)
/-- R125. Low 64 bits of g[a] times g[b]. -/
def execMul (d a b : BitVec 5) (s : State) : Out := .next (alu2 s mulFn d a b)
/-- R125. High 64 bits of the signed 128-bit product. -/
def execMulh (d a b : BitVec 5) (s : State) : Out := .next (alu2 s mulhFn d a b)
/-- R125. High 64 bits of the unsigned 128-bit product. -/
def execMulhu (d a b : BitVec 5) (s : State) : Out := .next (alu2 s mulhuFn d a b)
/-- R126. Signed quotient truncated toward zero, never trapping. -/
def execDiv (d a b : BitVec 5) (s : State) : Out := .next (alu2 s divFn d a b)
/-- R126. Unsigned quotient, all ones on divide by zero. -/
def execDivu (d a b : BitVec 5) (s : State) : Out := .next (alu2 s divuFn d a b)
/-- R126. Signed remainder with the sign of g[a]. -/
def execRem (d a b : BitVec 5) (s : State) : Out := .next (alu2 s remFn d a b)
/-- R126. Unsigned remainder. -/
def execRemu (d a b : BitVec 5) (s : State) : Out := .next (alu2 s remuFn d a b)
/-- R125. Sign-extended low 32 bits of the sum. -/
def execAddw (d a b : BitVec 5) (s : State) : Out := .next (alu2 s addwFn d a b)
/-- R125. Sign-extended low 32 bits of the difference. -/
def execSubw (d a b : BitVec 5) (s : State) : Out := .next (alu2 s subwFn d a b)
/-- R125. Signed sum clamped to the 64-bit range. -/
def execSatadd (d a b : BitVec 5) (s : State) : Out := .next (alu2 s sataddFn d a b)
/-- R125. Signed difference clamped to the 64-bit range. -/
def execSatsub (d a b : BitVec 5) (s : State) : Out := .next (alu2 s satsubFn d a b)
/-- R125. Count of leading zero bits of g[a]. -/
def execClz (d a : BitVec 5) (s : State) : Out := .next (alu1 s clzFn d a)
/-- R125. Count of trailing zero bits of g[a]. -/
def execCtz (d a : BitVec 5) (s : State) : Out := .next (alu1 s ctzFn d a)
/-- R125. Count of one bits of g[a]. -/
def execPopc (d a : BitVec 5) (s : State) : Out := .next (alu1 s popcFn d a)
/-- R125. Bit reversal of g[a]. -/
def execBrev (d a : BitVec 5) (s : State) : Out := .next (alu1 s brevFn d a)
/-- R125. Byte reversal of g[a]. -/
def execBswap (d a : BitVec 5) (s : State) : Out := .next (alu1 s bswapFn d a)
/-- R125. g[a] if g[c] is non-zero, else g[b]. -/
def execSel (d a b c : BitVec 5) (s : State) : Out :=
  .next (retireG s d (selFn (s.cc.rg a) (s.cc.rg b) (s.cc.rg c)))
/-- R125. (g[a] × g[b] + g[c]) mod 2^64. -/
def execMuladd (d a b c : BitVec 5) (s : State) : Out :=
  .next (retireG s d (muladdFn (s.cc.rg a) (s.cc.rg b) (s.cc.rg c)))
/-- R110. Major opcode 0x00 always traps with cause 0x01. -/
def execIllegal (_x : BitVec 26) (s : State) : Out := .next (raiseIll s)

/-! ### Immediates (R127 to R131) -/

def addiFn (i : BitVec 16) (x : Word) : Word := x + sx i
def andiFn (i : BitVec 16) (x : Word) : Word := x &&& zx i
def oriFn (i : BitVec 16) (x : Word) : Word := x ||| zx i
def xoriFn (i : BitVec 16) (x : Word) : Word := x ^^^ zx i
def sltiFn (i : BitVec 16) (x : Word) : Word := boolWord (x.slt (sx i))
def sltiuFn (i : BitVec 16) (x : Word) : Word := boolWord (x.ult (zx i))
/-- R127. g[d] := g[a] + sext(imm16). -/
def execAddi (d a : BitVec 5) (i : BitVec 16) (s : State) : Out := .next (alu1 s (addiFn i) d a)
/-- R127. g[d] := g[a] AND zext(imm16). -/
def execAndi (d a : BitVec 5) (i : BitVec 16) (s : State) : Out := .next (alu1 s (andiFn i) d a)
/-- R127. g[d] := g[a] OR zext(imm16). -/
def execOri (d a : BitVec 5) (i : BitVec 16) (s : State) : Out := .next (alu1 s (oriFn i) d a)
/-- R127. g[d] := g[a] XOR zext(imm16). -/
def execXori (d a : BitVec 5) (i : BitVec 16) (s : State) : Out := .next (alu1 s (xoriFn i) d a)
/-- R127. 1 if g[a] < sext(imm16) signed. -/
def execSlti (d a : BitVec 5) (i : BitVec 16) (s : State) : Out := .next (alu1 s (sltiFn i) d a)
/-- R127. 1 if g[a] < zext(imm16) unsigned. -/
def execSltiu (d a : BitVec 5) (i : BitVec 16) (s : State) : Out := .next (alu1 s (sltiuFn i) d a)
/-- R128. Shift g[a] left by an immediate amount. -/
def execShli (d a : BitVec 5) (n : BitVec 6) (s : State) : Out := .next (alu1 s (fun x => x <<< n.toNat) d a)
/-- R128. Logical shift right by an immediate amount. -/
def execShri (d a : BitVec 5) (n : BitVec 6) (s : State) : Out := .next (alu1 s (fun x => x >>> n.toNat) d a)
/-- R128. Arithmetic shift right by an immediate amount. -/
def execSrai (d a : BitVec 5) (n : BitVec 6) (s : State) : Out := .next (alu1 s (fun x => x.sshiftRight n.toNat) d a)
/-- R129. g[d] := sext(imm16) << 16. -/
def execLui (d : BitVec 5) (i : BitVec 16) (s : State) : Out := .next (retireG s d (sx i <<< 16))
/-- R130: halfword p of a word replaced. -/
def inshFn (p : BitVec 2) (i : BitVec 16) (x : Word) : Word :=
  (x &&& ~~~((0xFFFF : Word) <<< (16 * p.toNat))) ||| (zx i <<< (16 * p.toNat))
/-- R130. Inserts imm16 into halfword pos of g[d]. -/
def execInsh (d : BitVec 5) (p : BitVec 2) (i : BitVec 16) (s : State) : Out :=
  .next (retireG s d (inshFn p i (s.cc.rg d)))
/-- R131, R163: the address of the ADDPC word: the word behind the prefix in a REP. -/
def Ctx.wordPc (c : Ctx) : Word := if c.repOn then c.pc + 4 else c.pc
/-- R131. g[d] := pc + sext(imm16). -/
def execAddpc (d : BitVec 5) (i : BitVec 16) (s : State) : Out := .next (retireG s d (s.cc.wordPc + sx i))

end Sys2Proof.Machine
end

