-- ==== Sys2Proof/Machine/Branch.lean ====
section
/-! DEFINITION. Branches and jumps: majors 0x0C to 0x13 (05 R132 to R134). -/

namespace Sys2Proof.Machine

/-- R132: a branch goes to its target when the condition holds, else falls through. -/
def branch (s : State) (taken : Bool) (i : BitVec 16) : State :=
  if taken then retireTo s (branchTo s.cc.pc i) id else retire s id

def beqTaken (x y : Word) : Bool := x == y
def bneTaken (x y : Word) : Bool := x != y
def bltTaken (x y : Word) : Bool := x.slt y
def bgeTaken (x y : Word) : Bool := !x.slt y
def bltuTaken (x y : Word) : Bool := x.ult y
def bgeuTaken (x y : Word) : Bool := !x.ult y
/-- R132. Branches when g[a] = g[b]. -/
def execBeq (a b : BitVec 5) (i : BitVec 16) (s : State) : Out :=
  .next (branch s (beqTaken (s.cc.rg a) (s.cc.rg b)) i)
/-- R132. Branches when g[a] differs from g[b]. -/
def execBne (a b : BitVec 5) (i : BitVec 16) (s : State) : Out :=
  .next (branch s (bneTaken (s.cc.rg a) (s.cc.rg b)) i)
/-- R132. Branches when g[a] < g[b] signed. -/
def execBlt (a b : BitVec 5) (i : BitVec 16) (s : State) : Out :=
  .next (branch s (bltTaken (s.cc.rg a) (s.cc.rg b)) i)
/-- R132. Branches when g[a] >= g[b] signed. -/
def execBge (a b : BitVec 5) (i : BitVec 16) (s : State) : Out :=
  .next (branch s (bgeTaken (s.cc.rg a) (s.cc.rg b)) i)
/-- R132. Branches when g[a] < g[b] unsigned. -/
def execBltu (a b : BitVec 5) (i : BitVec 16) (s : State) : Out :=
  .next (branch s (bltuTaken (s.cc.rg a) (s.cc.rg b)) i)
/-- R132. Branches when g[a] >= g[b] unsigned. -/
def execBgeu (a b : BitVec 5) (i : BitVec 16) (s : State) : Out :=
  .next (branch s (bgeuTaken (s.cc.rg a) (s.cc.rg b)) i)
/-- R133. Links pc + 4 into g[d] and jumps by a 21-bit word offset. -/
def execJal (d : BitVec 5) (i : BitVec 21) (s : State) : Out :=
  .next (retireTo s (branchTo s.cc.pc i) (fun c => c.wg d (s.cc.pc + 4)))
/-- R134. Jumps to g[a] + imm, trapping 0x03 on a misaligned target. -/
def execJalr (d a : BitVec 5) (i : BitVec 16) (s : State) : Out :=
  let target := s.cc.rg a + sx i
  if target.fld 0 2 ≠ 0 then .next (raiseVa s 0x03 target.toNat)
  else .next (retireTo s target (fun c => c.wg d (s.cc.pc + 4)))

end Sys2Proof.Machine
end

