-- ==== Sys2Proof/Machine/Forms.lean ====
section
/-! DEFINITION. The conditions that a control or operation word meets beyond its field layout: modes, formats,
scopes, orders and strides of control words (R60, R113, R115), and the loader's conditions on operation words and
memory nodes (R64 to R66, R118, R119, and those the element chapter states). Used by Decode and by WellFormed. -/

namespace Sys2Proof

/-- Why an encoding is no instruction. -/
inductive Reject where
  | illegalMajor
  | unassignedFn
  | unusedField
  | badMode
  | badFormat
  | badScope
  | badOrder
  | badStride
  | unassignedOpcode
  | badType
  | badRound
  | badSat
  | badJoin
  | paramConflict
  | badSource
  | chainOperand
  | badDest
  | badParam
  | badSeq
  | shortWord
deriving DecidableEq, Repr, Inhabited

namespace Form

/-- Bits [lo + n - 1 : lo] of a word. -/
abbrev fld (w : Code) (lo n : Nat) : BitVec n := w.extractLsb' lo n

/-! ### Control words -/

/-- The mode codes of a b field: 00000, or 00100 to 00111 (R74, R113). -/
def modeOk (m : BitVec 5) : Bool := m == 0 || m.toNat / 4 == 1

/-- Scope codes 0 to 6 (R6, R115). -/
def scope06 (s : BitVec 3) : Bool := s != 7

/-- Scope codes 1 to 4 (R115, PREF and DISCARD). -/
def scope14 (s : BitVec 3) : Bool := 1 ≤ s.toNat && s.toNat ≤ 4

/-- R115 "with order": 0 to 6 when acq or rel is set, zero otherwise. -/
def scopeOrd (s : BitVec 3) (ordered : Bool) : Bool := if ordered then s != 7 else s == 0

/-- R60: the stride code of a field that does not step is 00. -/
def strideOk (step : BitVec 1) (str : BitVec 2) : Bool := step == 1 || str == 0

/-! ### Operation words -/

/-- The type classes of R118. -/
inductive TyClass where
  | int
  | sint
  | flt
  | intFltF8
  | any
  | anyNotPair
  | f8l6
  | l6
  | i32
  | pair
  | iter
  | i8
deriving DecidableEq, Repr, Inhabited

def isInt (t : Nat) : Bool := t == 0 || t == 1 || t == 2 || t == 3 || t == 9 || t == 10
def isSint (t : Nat) : Bool := t == 0 || t == 1 || t == 2 || t == 9
def isFlt (t : Nat) : Bool := t == 4 || t == 5
def isF8 (t : Nat) : Bool := t == 6 || t == 7

/-- R118, the Types column. -/
def tyOk (c : TyClass) (t : Nat) : Bool :=
  match c with
  | .int => isInt t
  | .sint => isSint t
  | .flt => isFlt t
  | .intFltF8 => isInt t || isFlt t || isF8 t
  | .any => t ≤ 10
  | .anyNotPair => t ≤ 10 && t != 9
  | .f8l6 => isF8 t || t == 8
  | .l6 => t == 8
  | .i32 => t == 2
  | .pair => t == 9
  | .iter => t == 1 || t == 2 || t == 3
  | .i8 => t == 0

/-- When bit [9] may be set: never, SAT on integers, FTZ on floats, or either by the type (R118). -/
inductive SfRule where
  | zero
  | sat
  | ftz
  | both
deriving DecidableEq, Repr, Inhabited

/-- R61, R119: whether sf may be set with this type. -/
def sfOk (r : SfRule) (t : Nat) : Bool :=
  match r with
  | .zero => false
  | .sat => isInt t
  | .ftz => isFlt t || isF8 t
  | .both => isInt t || isFlt t || isF8 t

/-- What an opcode takes (R118): inputs, whether the chain is a further operand, types, sf, a conversion, and
whether param[7:6] is its own parameter. -/
structure OpForm where
  two : Bool := false
  chain : Bool := false
  ty : TyClass := .any
  sf : SfRule := .zero
  conv : Bool := false
  own : Bool := false
deriving DecidableEq, Repr, Inhabited

/-- R118: the operation opcodes other than the memory nodes; `none` is unassigned. -/
def opForm (opc : Nat) : Option OpForm :=
  match opc with
  | 0x00 => some { ty := .i8 }
  | 0x01 => some { two := true, ty := .int, sf := .sat }
  | 0x02 => some { two := true, ty := .int, sf := .sat }
  | 0x03 => some { two := true, ty := .int, sf := .sat }
  | 0x04 => some { two := true, ty := .int }
  | 0x05 => some { two := true, chain := true, ty := .int, sf := .sat }
  | 0x06 => some { two := true, ty := .int }
  | 0x07 => some { two := true, ty := .int }
  | 0x08 => some { ty := .sint, sf := .sat }
  | 0x09 => some { ty := .sint, sf := .sat }
  | 0x0A => some { two := true, ty := .int }
  | 0x0B => some { two := true, ty := .int }
  | 0x0C => some { two := true, ty := .int }
  | 0x0D => some { ty := .int }
  | 0x0E => some { two := true, ty := .int, sf := .sat }
  | 0x0F => some { two := true, ty := .int }
  | 0x10 => some { two := true, ty := .sint }
  | 0x11 => some { ty := .int }
  | 0x12 => some { ty := .int }
  | 0x18 => some { two := true, ty := .flt, sf := .ftz }
  | 0x19 => some { two := true, ty := .flt, sf := .ftz }
  | 0x1A => some { two := true, ty := .flt, sf := .ftz }
  | 0x1B => some { two := true, chain := true, ty := .flt, sf := .ftz }
  | 0x1C => some { two := true, ty := .flt, sf := .ftz }
  | 0x1D => some { two := true, ty := .flt, sf := .ftz }
  | 0x1E => some { ty := .flt }
  | 0x1F => some { ty := .flt }
  | 0x20 => some { two := true, ty := .intFltF8, sf := .ftz }
  | 0x21 => some { two := true, ty := .intFltF8, sf := .ftz }
  | 0x22 => some { two := true, ty := .intFltF8, sf := .ftz }
  | 0x23 => some { two := true, ty := .intFltF8, sf := .ftz }
  | 0x24 => some { two := true, ty := .pair, sf := .sat }
  | 0x25 => some { ty := .pair }
  | 0x26 => some { ty := .pair }
  | 0x28 => some {}
  | 0x29 => some { own := true }
  | 0x2A => some { two := true }
  | 0x2B => some { two := true }
  | 0x2C => some { two := true }
  | 0x2D => some { two := true, chain := true }
  | 0x30 => some {}
  | 0x31 => some { two := true, ty := .iter }
  | 0x38 => some { ty := .anyNotPair, sf := .both, conv := true }
  | 0x39 => some { ty := .anyNotPair, sf := .both, conv := true }
  | 0x3A => some { ty := .anyNotPair, sf := .both, conv := true }
  | 0x3B => some { ty := .f8l6, sf := .ftz, conv := true }
  | 0x3C => some { ty := .i32 }
  | 0x3D => some { ty := .i32 }
  | 0x40 => some { two := true, ty := .l6 }
  | 0x41 => some { ty := .l6 }
  | 0x58 => some { two := true, ty := .i32 }
  | 0x59 => some { ty := .i32 }
  | 0x5A => some { own := true }
  | 0x5C => some { ty := .i32 }
  | 0x60 => some { two := true }
  | 0x61 => some { ty := .i32 }
  | 0x62 => some { ty := .i32 }
  | 0x63 => some { ty := .i32 }
  | _ => none

def isQueue (c : BitVec 3) : Bool := 2 ≤ c.toNat && c.toNat ≤ 5

/-- R64: the sources and the destination use the param bits in two ways. -/
def paramClash (f : OpForm) (a b d : BitVec 3) : Bool :=
  let imm := a == 6 || (f.two && b == 6)
  let reg := a == 1 || (f.two && b == 1) || d == 1
  imm && (reg || f.own)

/-- The conditions of single opcodes (R119, R264, R266, R268 to R273). -/
def opBad (opc : Nat) (a b d : BitVec 3) (t : Nat) (p : BitVec 8) : Option Reject :=
  let second : BitVec 3 := p.extractLsb' 6 2 |>.setWidth 3
  match opc with
  | 0x00 => if a == 0 && b == 0 && d == 0 && t == 0 && p == 0 then none else some .unusedField
  | 0x29 => if d == second + 2 then some .badDest else none
  | 0x2C => if a != 6 && b != 6 && p.extractLsb' 6 2 != 0 then some .badJoin else none
  | 0x30 => if a == 1 || a == 6 then none else some .badSource
  | 0x31 =>
    if a == 1 && b == 1 then (if d == 1 then some .badDest else none)
    else if a == 6 && b == 6 then none
    else some .badSource
  | 0x38 => if isQueue a then none else some .badSource
  | 0x3B => if isQueue a && isQueue d then none else some .badSource
  | 0x3D => if isQueue d then none else some .badDest
  | 0x40 => if d == 1 && (p.extractLsb' 3 3 == 4 || p.extractLsb' 3 3 == 5) then some .badDest else none
  | 0x41 => if d == 1 && (p.extractLsb' 3 3 == 4 || p.extractLsb' 3 3 == 5) then some .badDest else none
  | 0x5A => if d != 7 then some .badDest else if 2 ≤ (p.extractLsb' 6 2).toNat then some .badParam else none
  | _ => none

/-- R65, R119: the first reason the loader has to refuse an operation word that is no memory node. A bit of param that neither an
operand nor the operation's own parameter uses may hold either value: the spec does not call it reserved (DESIGN CHOICE, log
entry 28). -/
def elemBad (opc : Nat) (a b d : BitVec 3) (t : BitVec 4) (r : BitVec 2) (s : BitVec 1) (p : BitVec 8) :
    Option Reject :=
  match opForm opc with
  | none => some .unassignedOpcode
  | some f =>
    if !tyOk f.ty t.toNat then some .badType
    else if r != 0 && !f.conv && !(isFlt t.toNat || isF8 t.toNat) then some .badRound
    else if opc == 0 && r != 0 then some .badRound
    else if s == 1 && !sfOk f.sf t.toNat then some .badSat
    else if !f.two && b != 0 then some .badSource
    else if f.chain && (a == 0 || b == 0) then some .chainOperand
    else if paramClash f a b d then some .paramConflict
    else if f.two && a != 6 && b != 6 && p.extractLsb' 6 2 == 3 then some .badJoin
    else opBad opc a b d t.toNat p

/-- R118: the memory-node opcodes and the types each takes. -/
def nodeTy (opc : Nat) (t : Nat) : Option Bool :=
  match opc with
  | 0x48 | 0x49 | 0x4A | 0x4B => some (t ≤ 10)
  | 0x4C | 0x4E | 0x4F | 0x50 | 0x51 => some (t == 2)
  | 0x4D => some (t == 5)
  | 0x52 => some (t == 2 || t == 5)
  | _ => none

/-- R65, R66: word 0 of a memory node. -/
def node0Bad (opc : Nat) (asrc dsrc dst : BitVec 3) (t : BitVec 4) (off : BitVec 12) : Option Reject :=
  match nodeTy opc t.toNat with
  | none => some .unassignedOpcode
  | some ok =>
    let load := opc == 0x48 || opc == 0x4A
    let reg := asrc == 1 || dsrc == 1 || dst == 1
    let imm := asrc == 6 || dsrc == 6
    if !ok then some .badType
    else if load && dsrc != 0 then some .badSource
    else if imm && reg then some .paramConflict
    else if reg && off.extractLsb' 8 4 != 0 then some .badParam
    else none

/-- R66, R276: word 1 of a memory node. -/
def node1Bad (opc : Nat) (seq pred succ : BitVec 10) (first last : BitVec 1) : Option Reject :=
  if seq == 0x3FF then some .badSeq
  else if first == 1 && pred != 0x3FF then some .badSeq
  else if last == 1 && succ != 0x3FF then some .badSeq
  else if (opc == 0x48 || opc == 0x49) && !(first == 1 && last == 1 && pred == 0x3FF && succ == 0x3FF) then
    some .badSeq
  else none

def nodeBad (opc : Nat) (asrc dsrc dst : BitVec 3) (t : BitVec 4) (off : BitVec 12) (seq pred succ : BitVec 10)
    (first last : BitVec 1) : Option Reject :=
  match node0Bad opc asrc dsrc dst t off with
  | some e => some e
  | none => node1Bad opc seq pred succ first last

end Form
end Sys2Proof
end

