-- ==== Sys2Proof/Machine/Tile.lean ====
section
/-! DEFINITION. A tile's queues, actors and firings: token arrival and header latch (01 R38, 08 R250), readiness and the
start of a firing (01 R43, R44, R46), operand reads, joins and results of a lane (02 R62 to R64, 08 R249 to R254), and
the end of a step and of a firing (01 R45, 08 R253, R256). -/

namespace Sys2Proof.Machine

/-! ### Descriptors and words (R12, R61, R66) -/

/-- The word at a step and lane of the op store. -/
def Tile.op (t : Tile) (step lane : Nat) : Code := Tbl.get 0 t.ops (step * 8 + lane)

def Tile.desc (t : Tile) (i : Nat) : BitVec 64 := Tbl.get 0 t.actors i

def dValid (d : BitVec 64) : Bool := d.fld 63 1 == 1
def dEntry (d : BitVec 64) : Nat := d.fld 58 5
def dLane0 (d : BitVec 64) : Nat := d.fld 55 3
def dLanes (d : BitVec 64) : Nat := d.fld 52 3 + 1
def dInq (d : BitVec 64) (q : Nat) : Nat := d.fld (32 + 5 * q) 5
def dOutq (d : BitVec 64) (q : Nat) : Nat := d.fld (12 + 5 * q) 5
def dMg (d : BitVec 64) : Bool := d.fld 11 1 == 1
def dSelq (d : BitVec 64) : Nat := d.fld 9 2
def dTag (d : BitVec 64) : Nat := d.fld 0 8

/-- Whether an opcode is a memory node's (R118). -/
def nodeOpc (o : Nat) : Bool := 0x48 ≤ o && o ≤ 0x52

def isNodeWord (w : Code) : Bool := nodeOpc (w.fld 25 7)

/-- Whether the word n steps after the entry of a run is word 1 of a memory node in its lane (R66). -/
def Tile.word1 (t : Tile) (entry lane : Nat) : Nat → Bool
  | 0 => false
  | n + 1 => isNodeWord (t.op (entry + n) lane) && !t.word1 entry lane n

/-- R42: whether step is the last of an actor's run: END in the span's first lane, in a word that has one. -/
def Tile.endsAt (t : Tile) (d : BitVec 64) (step : Nat) : Bool :=
  let w := t.op step (dLane0 d)
  step == 31 || (w.fld 8 1 == 1 && !isNodeWord w && !t.word1 (dEntry d) (dLane0 d) (step - dEntry d))

/-- The steps of a run, within n. -/
def Tile.runSteps (t : Tile) (d : BitVec 64) (step : Nat) : Nat → List Nat
  | 0 => []
  | n + 1 => if t.endsAt d step then [step] else step :: t.runSteps d (step + 1) n

/-- The words of an actor, word 1 of each node apart: step, lane, word. -/
def Tile.actorWords (t : Tile) (i : Nat) : List (Nat × Nat × Code) :=
  let d := t.desc i
  if dValid d then
    (t.runSteps d (dEntry d) 32).flatMap (fun s =>
      (List.range (dLanes d)).filterMap (fun j =>
        let l := dLane0 d + j
        if t.word1 (dEntry d) l (s - dEntry d) then none else some (s, l, t.op s l)))
  else []

/-- Whether a word takes a second source (R118); a memory node's data source counts. -/
def twoSrc (w : Code) : Bool :=
  isNodeWord w || (match Form.opForm (w.fld 25 7) with
    | some f => f.two
    | none => false)

/-- Whether a word reads input queue q. HDR.GET names a queue without reading it (R272), and accepts any header (R250). -/
def readsQ (w : Code) (q : Nat) : Bool :=
  w.fld 25 7 != 0x3C && (w.fld 22 3 == q + 2 || (twoSrc w && w.fld 19 3 == q + 2))

/-- The actor whose words read a queue. -/
def Tile.readerOf (t : Tile) (q : Nat) : Option Nat :=
  (List.range 8).find? (fun i => (t.actorWords i).any (fun x => readsQ x.2.2 q))

/-! ### Queues (R11, R37, R38, R69, R70) -/

def Tile.iq (t : Tile) (q : Nat) : List Token := Tbl.get [] t.inq q
def Tile.setIq (t : Tile) (q : Nat) (l : List Token) : Tile := { t with inq := Tbl.set [] t.inq q l }
def Tile.oq (t : Tile) (q : Nat) : List Token := Tbl.get [] t.outq q
def Tile.setOq (t : Tile) (q : Nat) (l : List Token) : Tile := { t with outq := Tbl.set [] t.outq q l }

/-- The queue's fixed capacity (R36). -/
def queueCap : Nat := 16

/-- Room of an output queue, less the values that memory nodes still owe it. -/
def Tile.room (t : Tile) (q : Nat) : Nat := queueCap - (t.oq q).length - Tbl.get 0 t.nodeOut (16 + q)

/-- R38, R69: a token that is dropped where it arrives. -/
def badToken (x : Token) : Bool :=
  let k := x.kind.toNat
  9 ≤ k || (k == 4 && x.pay.fld 16 5 != 0) || (k == 6 && x.pay.fld 27 5 == 0) || (k == 7 && x.pay.fld 0 16 != 0)
    || (k == 8 && 64 < x.pay.fld 24 7)

/-- A fault record of a tile. -/
def tileRec (s : State) (k code : Nat) : FRec :=
  { code, level := codeLevel code, die := tileDie k, row := tileRow k, col := tileCol k,
    lease := ((s.tile k).lease).getD 0 }

/-- R38: a token dropped at a tile freezes the region with 0x02. -/
def dropToken (s : State) (k : Nat) (x : Token) : State :=
  lateFault s { tileRec s k 0x02 with opa := x.pay.toNat }

/-- R250: whether a word accepts a header's format. -/
def fmtOk (w : Code) (fmt : Nat) : Bool :=
  let o := w.fld 25 7
  if o = 0x38 then fmt != 9
  else if (0x28 ≤ o && o ≤ 0x2D) || o = 0x5A || o = 0x60 then true
  else fmt == w.fld 12 4

/-- R70, R250: whether a header is refused by queue q. -/
def headerBad (t : Tile) (q : Nat) (h : Code) : Bool :=
  let fmt := h.fld 11 4
  11 ≤ fmt || (match t.readerOf q with
    | none => false
    | some i => (t.actorWords i).any (fun x => readsQ x.2.2 q && !fmtOk x.2.2 fmt))

/-- Whether the tile's block converter reads queue q (R271). -/
def Tile.convReads (t : Tile) (q : Nat) : Bool :=
  (List.range 8).any (fun i => (t.actorWords i).any (fun x => x.2.2.fld 25 7 == 0x3B && x.2.2.fld 22 3 == q + 2))

/-- R250: headers at the head of a queue are latched and removed, or dropped with 0x02. -/
def latchHeads (s : State) (k q : Nat) : Nat → State
  | 0 => s
  | n + 1 =>
    let t := s.tile k
    match t.iq q with
    | [] => s
    | x :: r =>
      if x.kind ≠ 1 then s
      else
        let t1 := t.setIq q r
        if headerBad t q x.pay then latchHeads (dropToken (s.setTile k t1) k x) k q n
        else
          let c := if t.convReads q then { t.conv with newHdr := true } else t.conv
          latchHeads (s.setTile k { t1 with hdr := Tbl.set none t1.hdr q (some x.pay), conv := c }) k q n

def Tile.chan (t : Tile) (c : Nat) : List ChTok := Tbl.get [] t.chans c
def Tile.setChan (t : Tile) (c : Nat) (l : List ChTok) : Tile := { t with chans := Tbl.set [] t.chans c l }

/-- R281: the class-3 injection buffer of the tile's LOCAL port. -/
def injKey : Nat := chanKey 6 3 0

/-! ### Readiness (R43, R44, R46, R202, R253) -/

/-- Tokens of a queue that count: headers do not (R250). -/
def countToks (l : List Token) : Nat := (l.filter (fun x => x.kind != 1)).length

def Tile.act (t : Tile) (i : Nat) : ActorSt := Tbl.get {} t.astate i
def Tile.setAct (t : Tile) (i : Nat) (a : ActorSt) : Tile := { t with astate := Tbl.set {} t.astate i a }

/-- R43, R253: whether gated queue q of actor i holds its count. -/
def Tile.holds (t : Tile) (i q : Nat) : Bool :=
  (t.act i).closed.contains q || dInq (t.desc i) q ≤ countToks (t.iq q)

/-- The merge of an actor: its two source codes (R266). -/
def Tile.mergeSrcs (t : Tile) (i : Nat) : Nat × Nat :=
  match (t.actorWords i).find? (fun x => x.2.2.fld 25 7 == 0x2C) with
  | some (_, _, w) => (w.fld 22 3, w.fld 19 3)
  | none => (0, 0)

/-- Whether a source can be read: a queue must hold a token or be closed. -/
def Tile.canRead (t : Tile) (i code : Nat) : Bool :=
  if 2 ≤ code && code ≤ 5 then (t.act i).closed.contains (code - 2) || 0 < countToks (t.iq (code - 2)) else true

/-- R44, R266: the merge gate. A selector that is EOS or an error pops no source. -/
def Tile.mergeGate (t : Tile) (i : Nat) : Bool :=
  let d := t.desc i
  if !dMg d then true
  else if (t.act i).closed.contains (dSelq d) then true
  else match t.iq (dSelq d) with
    | [] => false
    | x :: _ =>
      if x.kind = 2 || x.kind = 3 then true
      else
        let src := t.mergeSrcs i
        t.canRead i (if x.pay.fld 0 1 = 0 then src.1 else src.2)

/-- R44: whether the merge of an actor takes its next token from a source. -/
def Tile.mergeFrom (t : Tile) (i code : Nat) : Bool :=
  let d := t.desc i
  dMg d && !(t.act i).closed.contains (dSelq d) && (match t.iq (dSelq d) with
    | [] => false
    | x :: _ => x.kind != 2 && x.kind != 3 && (if x.pay.fld 0 1 = 0 then (t.mergeSrcs i).1 else (t.mergeSrcs i).2) == code)

/-- R202: while a route-class head stands at q3's head, only its handler is ready through q3, which an actor gates or its merge
selects. -/
def Tile.rcGate (t : Tile) (i : Nat) : Bool :=
  match t.iq 3 with
  | [] => true
  | x :: _ =>
    if x.kind = 6 && (dInq (t.desc i) 3 != 0 || t.mergeFrom i 5) then t.rcAt.getD (Tbl.get 8 t.rcHandler (x.pay.fld 27 5)) == i else true

/-- R43, R44, R253: whether actor i is ready. -/
def Tile.ready (t : Tile) (i : Nat) : Bool :=
  let d := t.desc i
  dValid d && !(t.act i).dormant
    && (List.range 4).all (fun q => (dInq d q == 0 || t.holds i q) && dOutq d q ≤ t.room q)
    && t.mergeGate i && t.rcGate i

/-- R46: keeps the actors in the order in which they became ready, those of one fc by index. The actor that fires is none of them. -/
def Tile.note (t : Tile) : Tile :=
  let ok (i : Nat) : Bool := t.ready i && (match t.firing with
    | some f => f.actor != i
    | none => true)
  let old := (t.readyQ.take t.aged).filter ok
  { t with readyQ := old ++ (List.range 8).filter (fun i => ok i && !old.contains i), aged := old.length }

/-- R46: an fc has passed: what is ready has been so before the next. -/
def Tile.age (t : Tile) : Tile := { t with aged := t.readyQ.length }

def noteTile (s : State) (k : Nat) : State := s.modTile k Tile.note

/-- R11, R38: a token enters input queue q; its caller has seen room. -/
def arriveQ (s : State) (k q : Nat) (x : Token) : State :=
  if badToken x then dropToken s k x
  else
    let s1 := s.modTile k (fun t => t.setIq q (t.iq q ++ [x]))
    noteTile (latchHeads s1 k q 17) k

/-- Whether an input queue accepts a token. -/
def Tile.qRoom (t : Tile) (q : Nat) : Bool := (t.iq q).length < queueCap && (Tbl.get [] t.threadIn q).isEmpty

/-! ### Operands (R62, R249, R253) -/

/-- An operation word with its fields; a form that lacks a field holds 0 there. -/
structure EW where
  opc : Nat := 0
  a : Nat := 0
  b : Nat := 0
  d : Nat := 0
  ty : Nat := 0
  rnd : BitVec 2 := 0
  sf : Bool := false
  p : BitVec 8 := 0
deriving DecidableEq, Repr, Inhabited

/-- The fields of a word (R61). -/
def EW.of (w : Code) : EW :=
  { opc := w.fld 25 7, a := w.fld 22 3, b := w.fld 19 3, d := w.fld 16 3, ty := w.fld 12 4,
    rnd := w.extractLsb' 10 2, sf := w.fld 9 1 == 1, p := w.extractLsb' 0 8 }

/-- An operand: a value with the header latched where it was read, the end of the stream, an error with its payload, or
a bubble. -/
inductive Opd where
  | val (x : Token) (hdr : Option Code)
  | eos
  | err (p : Code)
  | bub
deriving DecidableEq, Repr, Inhabited

/-- R249: a token as an operand, by its kind. -/
def Opd.of (x : Token) (hdr : Option Code) : Opd :=
  if x.kind = 2 then .eos else if x.kind = 3 then .err x.pay else .val x hdr

/-- R249: the chain as an operand: its data, of whatever kind, is a data token. -/
def Opd.ofLane (l : Lane) : Opd :=
  match l with
  | none => .bub
  | some x => .of (if x.kind = 2 || x.kind = 3 then x else { x with kind := 0 }) none

def eosTok : Token := { kind := 2, pay := 0 }
def errTok (p : Code) : Token := { kind := 3, pay := p }
def dataTok (p : Code) : Token := { kind := 0, pay := p }

/-- The scale of an operand: the latched header's, else 127 (R39). -/
def Opd.scale : Opd → Nat
  | .val _ (some h) => h.fld 24 8
  | _ => 127

def Opd.pay : Opd → Code
  | .val x _ => x.pay
  | _ => 0

/-- The firing of the step's tile, its lane and its registers. -/
def firingOf (s : State) : Firing := s.ct.firing.getD {}
def modFiring (s : State) (f : Firing → Firing) : State :=
  s.modT (fun t => { t with firing := t.firing.map f })

def kreg (s : State) (lane r : Nat) : Code := Tbl.get 0 s.ct.kreg (lane * 8 + r)
def latchOf (s : State) (lane : Nat) : Code := Tbl.get 0 s.ct.latch lane

/-- R253: marks a queue as read closed in this firing. -/
def markClosed (s : State) (q : Nat) : State :=
  modFiring s (fun f => { f with closedRead := if f.closedRead.contains q then f.closedRead else f.closedRead ++ [q] })

/-- R249, R253: pops the head of an input queue; a closed queue gives EOS again. -/
def popQ (s : State) (q : Nat) : State × Opd :=
  let k := s.cur.tile
  let t := s.ct
  let i := (firingOf s).actor
  if (t.act i).closed.contains q then (markClosed s q, .eos)
  else match t.iq q with
    | [] => (s, .bub)
    | x :: r =>
      let o := Opd.of x (Tbl.get none t.hdr q)
      let s0 := if x.kind = 4 then modFiring s (fun f => { f with tid := x.pay.fld 0 16 }) else s
      let s1 := s0.modT (fun t => { t.setIq q r with rcAt := if q = 3 then none else t.rcAt })
      let s2 :=
        if x.kind = 2 && dInq (t.desc i) q ≠ 0 then
          markClosed (s1.modT (fun t => t.setAct i { t.act i with closed := (t.act i).closed ++ [q] })) q
        else s1
      (latchHeads s2 k q 17, o)

/-- R62: reads a source; `reg` is the lane register that code 001 names, `imm` the immediate. -/
def readSrc (s : State) (code reg : Nat) (imm : Code) : State × Opd :=
  let f := firingOf s
  match code with
  | 0 => (s, .ofLane f.chain)
  | 1 => (s, .val (dataTok (kreg s f.lane reg)) none)
  | 6 => (s, .val (dataTok imm) none)
  | 7 => (s, .val (dataTok (latchOf s f.lane)) none)
  | c => popQ s (c - 2)

def EW.imm (w : EW) : Code := w.p.signExtend 32
def EW.kA (w : EW) : Nat := w.p.fld 0 3
def EW.kD (w : EW) : Nat := w.p.fld 3 3
def EW.mode (w : EW) : Nat := if w.a = 6 || w.b = 6 then 0 else w.p.fld 6 2

def readA (s : State) (w : EW) : State × Opd := readSrc s w.a w.kA w.imm
def readB (s : State) (w : EW) : State × Opd := readSrc s w.b w.kA w.imm

/-! ### Results (R251, R63) -/

/-- R43, R251: pushes a token to an output queue of the tile. -/
def pushOut (s : State) (q : Nat) (x : Token) : State := s.modT (fun t => t.setOq q (t.oq q ++ [x]))

/-- A lane-register write of the step, applied at its end (R45). -/
def pendReg (s : State) (lane r : Nat) (v : Code) : State :=
  modFiring s (fun f => { f with regw := f.regw ++ [(lane * 8 + r, v)] })

def setLatch (s : State) (lane : Nat) (v : Code) : State :=
  s.modT (fun t => { t with latch := Tbl.set 0 t.latch lane v })

/-- R251: delivers a result to a destination. -/
def deliver (s : State) (d reg : Nat) (r : Lane) : State :=
  let lane := (firingOf s).lane
  match r with
  | none => s
  | some x =>
    let plain := x.kind != 2 && x.kind != 3
    if d = 1 then (if plain then pendReg s lane reg x.pay else s)
    else if 2 ≤ d && d ≤ 5 then pushOut s (d - 2) x
    else if d = 6 then (if plain then setLatch s lane x.pay else s)
    else s

/-! ### The end of a step and of a firing (R45, R52, R253, R256, R271) -/

/-- R271: whether the actor holds the converter. -/
def Tile.hasConv (t : Tile) (i : Nat) : Bool := (t.actorWords i).any (fun x => x.2.2.fld 25 7 == 0x3B)

/-- R253, R271: whether the actor holds the converter and codes of it are still to be sent. -/
def Tile.convBusy (t : Tile) (i : Nat) : Bool := (t.conv.eos || !t.conv.out.isEmpty) && t.hasConv i

/-- Whether actor i's run holds the word at a step and lane. -/
def Tile.inRun (t : Tile) (i step lane : Nat) : Bool :=
  let d := t.desc i
  dValid d && dLane0 d ≤ lane && lane < dLane0 d + dLanes d && (t.runSteps d (dEntry d) 32).contains step

/-- Whether some actor's run has word 1 of a memory node at a step and lane. -/
def Tile.isWord1 (t : Tile) (step lane : Nat) : Bool :=
  (List.range 8).any (fun i => t.inRun i step lane && t.word1 (dEntry (t.desc i)) lane (step - dEntry (t.desc i)))

/-- R177, R253, R285: an OPW takes effect: the word's own state is cleared, and a dormant actor whose run holds the word
wakes. Word 1 of a memory node holds no opcode. -/
def Tile.applyOp (t : Tile) (key : Nat) (w : Code) : Tile :=
  let cvts := (t.op (key / 8) (key % 8)).fld 25 7 == 0x3B || w.fld 25 7 == 0x3B
  let conv := if cvts && !t.isWord1 (key / 8) (key % 8) then ({} : Conv) else t.conv
  let t1 := { t with ops := Tbl.set 0 t.ops key w, iter := Tbl.erase t.iter key, rcOpen := Tbl.erase t.rcOpen key, conv }
  { t1 with astate := t1.astate.map (fun e =>
      if t1.inRun e.1 (key / 8) (key % 8) then (e.1, { e.2 with dormant := false }) else e) |>.filter (fun e => e.2 != {}) }

/-! ### Switch-word fields (R67) -/

def swOut (w : BitVec 16) : Nat := w.fld 13 3
def swIn (w : BitVec 16) : Nat := w.fld 10 3
def swCls (w : BitVec 16) : Nat := w.fld 7 3
def swRc (w : BitVec 16) : Nat := w.fld 0 5
def swSanc (w : BitVec 16) : Bool := w.fld 5 1 == 1
def swCut (w : BitVec 16) : Bool := w.fld 6 1 == 1

/-- R177: an SWW takes effect. -/
def Tile.applySw (t : Tile) (i : Nat) (w : BitVec 16) : Tile := { t with sw := Tbl.set 0 t.sw i w }

def Tile.applyLate (t : Tile) (x : LateWrite) : Tile :=
  if x.sw then t.applySw x.key (x.word.setWidth 16) else t.applyOp x.key x.word

/-- Whether a packet, or a token that some branches of a multicast have taken, follows the words of an (in, class) pair (R177). A
class-3 packet at TREE follows those of LOCAL. -/
def Tile.inPassage (t : Tile) (inp cls : Nat) : Bool :=
  t.hold.any (fun e =>
    let p := (e.2 % 1024 - 1) / 32
    e.1 % 8 == cls && e.2 != 0 && (if p = 7 && cls = 3 then 6 else p) == inp)
  || t.chans.any (fun e => e.1 / 16 == inp && e.1 / 2 % 8 == cls && ((e.2.head?.map (fun x => !x.taken.isEmpty)).getD false))
  || (inp == 6 && t.otaken.any (fun e => !e.2.isEmpty && (if e.1 < 32 then e.1 / 4 == cls else cls == 3)))

/-- R177: whether an earlier SWW to an index waits, behind which a later one stands. -/
def Tile.swLate (t : Tile) (i : Nat) : Bool := t.late.any (fun x => x.sw && x.key == i)

/-- The words that waited for the end of a firing and, for an SWW, for a packet boundary of the old word's pair and of the new one's, take
effect once there is one (R52, R177). -/
def Tile.applyWaiting (t : Tile) : Tile :=
  if t.firing.isSome then t
  else
    t.late.foldl (fun t x =>
      let old := Tbl.get 0 t.sw x.key
      let new : BitVec 16 := x.word.setWidth 16
      if x.sw && (t.inPassage (swIn old) (swCls old) || t.inPassage (swIn new) (swCls new) || t.swLate x.key) then
        { t with late := t.late ++ [x] }
      else t.applyLate x) { t with late := [] }

/-- R253, R256, R52: the end of a firing. -/
def Tile.endFiring (t : Tile) (f : Firing) : Tile :=
  let i := f.actor
  let d := t.desc i
  let a := t.act i
  let gated := (List.range 4).filter (fun q => dInq d q != 0)
  let opens := !gated.isEmpty && gated.all (fun q => f.closedRead.contains q) && !t.convBusy i
  let a1 : ActorSt :=
    if opens then { a with closed := [], count := 0 }
    else if gated.isEmpty && f.eos then { a with count := (a.count + 1) % 2 ^ 48, dormant := true }
    else { a with count := (a.count + 1) % 2 ^ 48 }
  let conv : Conv := if opens && t.hasConv i then { t.conv with ended := false } else t.conv
  (({ t with firing := none, conv }).setAct i a1).applyWaiting.note

/-- R194: a kindle entry leaves the kindle queue of its stop when the firing that consumed its token ends; entries stand
oldest first, so the oldest entry that the actor was handed is the one. -/
def dropKindle (actor : Nat) : List Kindle → List Kindle
  | [] => []
  | x :: r => if x.handed && x.actor == actor then r else x :: dropKindle actor r

/-- The stops of a lease's rings at a tile lose the kindle of a firing that ended. -/
def kindleEnd (s : State) (k actor : Nat) : State :=
  match (s.tile k).lease with
  | none => s
  | some l =>
    let le := s.lease l
    let at_ (j i : Nat) : Bool :=
      match le.image.rings[j]? with
      | none => false
      | some r => match r.stops[i]? with
        | none => false
        | some (row, col) =>
          match le.image.rects[0]? with
          | none => false
          | some q =>
            tileAt (tilePRow (tileKey le.die le.row le.col) + q.row0 + row)
              (tilePCol (tileKey le.die le.row le.col) + q.col0 + col) == some k
    let upd (e : Nat × Ring) : Nat × Ring :=
      (e.1, { e.2 with stops := e.2.stops.mapIdx (fun i st =>
        if at_ e.1 i then { st with kq := dropKindle actor st.kq } else st) })
    s.modLease l (fun x => { x with rings := x.rings.map upd })

/-- The end of the span's last lane: lane-register writes land, and the firing goes on to the next step or ends. -/
def endStep (s : State) : State :=
  let f := firingOf s
  let t := s.ct
  let d := t.desc f.actor
  let t1 := { t with kreg := f.regw.foldl (fun (m : Tbl Code) (e : Nat × Code) => Tbl.set 0 m e.1 e.2) t.kreg }
  if t.endsAt d f.step then
    let s1 := kindleEnd (s.setTile s.cur.tile (t1.endFiring f)) s.cur.tile f.actor
    match t.lease with
    | some l => progress s1 l
    | none => s1
  else
    s.setTile s.cur.tile
      { t1 with firing := some { f with step := f.step + 1, lane := dLane0 d, chain := some {}, regw := [] } }

/-- A lane is done with a result: the chain carries it, and the next lane or the step's end follows. -/
def laneDone (s : State) (r : Lane) : State :=
  let f := firingOf s
  let d := s.ct.desc f.actor
  let eos := match r with
    | some x => x.kind == 2
    | none => false
  let s1 := modFiring s (fun f => { f with chain := r, lane := f.lane + 1, eos := f.eos || eos })
  if dLane0 d + dLanes d ≤ f.lane + 1 then endStep s1 else s1

/-- R251: the result of a word goes to its destination and to the chain. -/
def putRes (s : State) (w : EW) (r : Lane) : State := laneDone (deliver s w.d w.kD r) r

/-- R366: a fabric fault of an element: its lane's step counts as done, with a bubble for result. The other lanes of the
step still run, so their faults write records too. -/
def laneFault (s : State) (w : EW) (code opa opb index : Nat) : State :=
  let k := s.cur.tile
  let f := firingOf s
  let r : FRec := { tileRec s k code with
    lane := f.lane, step := f.step, actor := f.actor, atag := dTag (s.ct.desc f.actor), opa, opb, index, tid := f.tid }
  putRes (lateFault s r) w none

/-- The element counter of the actor that fires (R256). -/
def elemCount (s : State) : Nat := (s.ct.act (firingOf s).actor).count

/-- R256: an error token of a code. -/
def mkErr (s : State) (code : Nat) : Token := errTok (BitVec.ofNat 32 (code * 2 ^ 24 + elemCount s % 2 ^ 24))

/-! ### Joins (R252, R254) -/

/-- What the inputs of a word come to. -/
inductive Join where
  | vals (a b c : Opd)
  | res (r : Lane)
  | fault (opa opb : Nat)
deriving DecidableEq, Repr, Inhabited

/-- The error with the lowest index, the first among equals (R252). -/
def firstErr (l : List Opd) : Option Code :=
  l.foldl (fun m o => match o, m with
    | .err p, none => some p
    | .err p, some q => if p.fld 0 24 < q.fld 0 24 then some p else some q
    | _, m => m) none

def Opd.isVal : Opd → Bool
  | .val _ _ => true
  | _ => false

/-- R252, R254: joins two or three inputs in a mode; `pad` is k7 of the lane. -/
def joinOps (mode : Nat) (pad : Code) (ops : List Opd) : Join :=
  match firstErr ops with
  | some p => .res (some (errTok p))
  | none =>
    if ops.contains .bub then .res none
    else if ops.all (fun o => o == .eos) then .res (some eosTok)
    else if ops.all Opd.isVal then .vals (ops.getD 0 .bub) (ops.getD 1 .bub) (ops.getD 2 .bub)
    else if mode = 1 then
      let f (o : Opd) : Opd := if o == .eos then .val (dataTok pad) none else o
      .vals (f (ops.getD 0 .bub)) (f (ops.getD 1 .bub)) (f (ops.getD 2 .bub))
    else if mode = 2 then .res none
    else .fault ((ops.find? Opd.isVal).getD .bub).pay.toNat (ops.findIdx (fun o => o == .eos))

/-- A word of one source: EOS, an error and a bubble are the result; a value goes to `g`. -/
def lane1 (s : State) (w : EW) (g : State → Opd → State) : State :=
  let r := readA s w
  match r.2 with
  | .eos => putRes r.1 w (some eosTok)
  | .err p => putRes r.1 w (some (errTok p))
  | .bub => putRes r.1 w none
  | o => g r.1 o

/-- A word of two sources, and of the chain for a "+chain" form. -/
def laneN (s : State) (w : EW) (chain : Bool) (g : State → Opd → Opd → Opd → State) : State :=
  let ra := readA s w
  let rb := readB ra.1 w
  let s1 := rb.1
  let ops := if chain then [ra.2, rb.2, Opd.ofLane (firingOf s).chain] else [ra.2, rb.2]
  match joinOps w.mode (kreg s1 (firingOf s1).lane 7) ops with
  | .vals a b c => g s1 a b c
  | .res r => putRes s1 w r
  | .fault opa opb => laneFault s1 w 0x0E opa opb (elemCount s1)

/-- The common shapes: a data result from the payloads. -/
def lane1V (s : State) (w : EW) (g : Code → Code) : State :=
  lane1 s w (fun s o => putRes s w (some (dataTok (g o.pay))))
def lane2V (s : State) (w : EW) (g : Code → Code → Code) : State :=
  laneN s w false (fun s a b _ => putRes s w (some (dataTok (g a.pay b.pay))))
def lane3V (s : State) (w : EW) (g : Code → Code → Code → Code) : State :=
  laneN s w true (fun s a b c => putRes s w (some (dataTok (g a.pay b.pay c.pay))))

/-- A lane's word runs only in a firing. -/
def inFiring (s : State) (f : State → State) : State := if s.ct.firing.isSome then f s else s

end Sys2Proof.Machine
end

