-- ==== Sys2Proof/Machine/Phase.lean ====
section
/-! DEFINITION. Phase boundaries (07 R216, 10 R332, R333): arrivals, members, and the completion of a boundary. -/

namespace Sys2Proof.Machine

/-- R216: an arrival at a scope is one at every narrower scope of the groups that contain the agent. -/
def recordArrival (s : State) (l : Nat) (a : Agent) (scope : Nat) : State :=
  let new := (List.range (scope + 1)).map (fun t =>
    ({ unit := agentUnit a t, agent := a, time := timeNs s, ordn := s.ordn } : Arrival))
  s.modLease l (fun x =>
    { x with arr := x.arr.filter (fun e => !(e.agent == a && e.unit.scope ≤ scope)) ++ new })

/-- Whether a tile's loaded configuration holds a PHASEN word (R216). -/
def Tile.hasPhasen (t : Tile) : Bool :=
  (List.range 8).any (fun i => (t.actorWords i).any (fun x => x.2.2.fld 25 7 == 0x61))

/-- The agents of a lease inside a unit. -/
def unitAgents (s : State) (l : Nat) (u : SUnit) : List Agent :=
  ((leaseCtxs s l).map Agent.ctx ++ (leaseTiles s l).map Agent.tile).filter (fun a => u.has a)

/-- R216: the agents that take part by arriving. -/
def unitMembers (s : State) (l : Nat) (u : SUnit) : List Agent :=
  (unitAgents s l u).filter (fun a => match a with
    | .ctx _ => true
    | .tile k => (s.tile k).hasPhasen)

def arrivalOf (s : State) (l : Nat) (u : SUnit) (a : Agent) : Option Arrival :=
  (s.lease l).arr.find? (fun e => e.unit == u && e.agent == a)

/-- Whether every member of a unit has arrived. -/
def boundaryDue (s : State) (l : Nat) (u : SUnit) : Bool :=
  let m := unitMembers s l u
  !m.isEmpty && m.all (fun a => (arrivalOf s l u a).isSome)

/-- R332: a version that the boundary publishes was made before the arrival of each agent that wrote into it; a tile that takes no part
counts as arrived when the boundary completes. -/
def madeBefore (s : State) (l : Nat) (u : SUnit) (v : VTag) : Bool :=
  v.writers.all (fun a => match arrivalOf s l u a with
    | some e => v.made ≤ e.ordn
    | none => true)

/-- A PHASEN step goes on: the word gives its operand (R282). -/
def resumeFiring (s : State) (k : Nat) : State :=
  let s1 : State := { s with cur := { s.cur with tile := k } }
  let f := firingOf s1
  let w := EW.of (s1.ct.op f.step f.lane)
  putRes (modFiring s1 (fun f => { f with wait := none })) w f.chain

/-- What completes for one member of a boundary. -/
def boundaryFor (scope latest : Nat) (s : State) (a : Agent) : State :=
  let s1 := refresh s a scope
  match a with
  | .ctx k =>
    let s2 := raiseFloor s1 k latest
    if (s2.ctx k).busy = some (.phase scope) then complete s2 k Ctx.past else s2
  | .tile k =>
    match (s1.tile k).firing with
    | some f => if f.wait = some scope then resumeFiring s1 k else s1
    | none => s1

/-- R216, R332: a boundary completes. -/
def completeBoundary (s : State) (l : Nat) (u : SUnit) : State :=
  let latest := (unitMembers s l u).foldl (fun m a => match arrivalOf s l u a with
    | some e => max m e.time
    | none => m) 0
  let s1 := publish s l u (fun _ => true) (fun v => v.lease == l && v.unit.inside u && madeBefore s l u v)
  let s2 := recordPub s1 l u latest
  let s3 := s2.modLease l (fun x => { x with arr := x.arr.filter (fun e => !e.unit.inside u) })
  let s4 := (unitAgents s l u).foldl (boundaryFor u.scope latest) s3
  gcLease s4 l

/-- The unit that a PHASE_BOUNDARY_COMPLETE names: that of a tile, or of a context from 8,192 upward. -/
def namedUnit (scope tile : Nat) : SUnit :=
  if tile < 8192 then agentUnit (.tile tile) scope else agentUnit (.ctx (tile - 8192)) scope

/-- R216. The boundary of a lease at a scope completes when every member has arrived. -/
def execPhaseBoundaryComplete (lease scope tile : Nat) (s : State) : Out :=
  let u := namedUnit scope tile
  .next (if scope ≤ 6 && leaseLive s lease && boundaryDue s lease u then completeBoundary s lease u else s)

end Sys2Proof.Machine
end

