-- ==== Sys2Proof/Machine/Element.lean ====
section
/-! DEFINITION. Element operations (08): what each operation word computes in its lane. A word `w` runs in the lane that
the firing of the step's tile has reached; with no firing it does nothing. -/

namespace Sys2Proof.Machine

/-! ### Integer lanes (R85, R88, R259, R260) -/

/-- The exact value of a w-bit operand. -/
def laneInt (w : Nat) (sg : Bool) (x : Code) : Int := if sg then signed w x.toNat else ((x.toNat % 2 ^ w : Nat) : Int)

/-- The half of a PAIR16 value at bit lo. -/
def half (x : Code) (lo : Nat) : Int := signed 16 (x.fld lo 16)

/-- An integer or PAIR16 word from its exact function of width, signedness and operands. -/
def intWord (t : Nat) (sat : Bool) (f : Nat → Bool → Int → Int → Int → Int) (a b c : Code) : Code :=
  if t = 9 then
    let h (lo : Nat) : Nat := narrow sat true 16 (f 16 true (half a lo) (half b lo) (half c lo))
    BitVec.ofNat 32 (h 0 + h 16 * 2 ^ 16)
  else match tyInt t with
    | some (w, sg) => laneExt t (narrow sat sg w (f w sg (laneInt w sg a) (laneInt w sg b) (laneInt w sg c)))
    | none => 0

/-- Bits [5:0] of the w-bit amount (R260). -/
def amount (w : Nat) (y : Int) : Nat := wrapNat w y % 64

/-! ### Float lanes (R262, R263) -/

/-- The rounding mode of a word (R61, R93). -/
def EW.rm (w : EW) (s : State) : Rm := Rm.ofBits (if w.rnd = 3 then s.ct.rm else w.rnd)

/-- A float word from an operation on codes. -/
def fltWord (t : Nat) (op : Fmt → Nat) : Code :=
  match tyFmt t with
  | some f => laneExt t (op f)
  | none => 0

/-- R147, R262: a sign word. -/
def signWord (t : Nat) (neg : Fmt → Nat → Bool) (a : Code) : Code :=
  fltWord t (fun f => if f.isNaN a.toNat then f.canonNaN else f.withSign (neg f a.toNat) a.toNat)

/-- An operand of a compare or a conversion as an exact value; FTZ reads a subnormal float as zero (R94). -/
def laneVal (t : Nat) (ftz : Bool) (scale : Nat) (x : Code) : FV :=
  match tyFmt t with
  | some f => if scale ≠ 0xFF && ftz && f.isSub x.toNat then .num (f.signOf x.toNat) 0 0 else tyVal t scale x
  | none => tyVal t (if t = 8 then scale else 127) x

/-- R263: whether a relation holds of two operands. -/
def laneRel (r : Rel) (w : EW) (a b : Opd) : Bool :=
  if (tyFmt w.ty).isSome then
    let sc (o : Opd) : Nat := if w.ty = 6 || w.ty = 7 then o.scale else 127
    FV.rel r (laneVal w.ty w.sf (sc a) a.pay) (laneVal w.ty w.sf (sc b) b.pay)
  else match tyInt w.ty with
    | some (n, sg) => r.holds (compare (laneInt n sg a.pay) (laneInt n sg b.pay))
    | none => false

/-- R263: the lane value of a compare; PAIR16 gives 1 or 0 in each half. -/
def cmpWord (r : Rel) (w : EW) (a b : Opd) : Code :=
  if w.ty = 9 then
    let h (lo : Nat) : Nat := boolBit (r.holds (compare (half a.pay lo) (half b.pay lo)))
    BitVec.ofNat 32 (h 0 + h 16 * 2 ^ 16)
  else if laneRel r w a b then 1 else 0

def elemCmp (r : Rel) (w : EW) (s : State) : State :=
  laneN s w false (fun s a b _ => putRes s w (some (dataTok (cmpWord r w a b))))

/-! ### Transport (R251, R264 to R267) -/

/-- A token passed by a transport word: kind kept, value read in the word's type (R85, R249). -/
def passTok (t : Nat) (x : Token) : Token :=
  if x.kind = 2 || x.kind = 3 then x else { x with pay := laneExt t x.pay.toNat }

def Opd.tok : Opd → Token
  | .val x _ => x
  | .eos => eosTok
  | .err p => errTok p
  | .bub => {}

/-- R264: DUP pushes its result to a second queue as well. -/
def dupPush (s : State) (w : EW) (r : Lane) : State :=
  match r with
  | some x => putRes (pushOut s (w.p.fld 6 2) x) w r
  | none => putRes s w r

/-- R265: a steer with its sense. -/
def steer (sense : Bool) (w : EW) (s : State) : State :=
  laneN s w false (fun s a b _ =>
    putRes s w (if (b.pay != 0) == sense then some (passTok w.ty a.tok) else none))

/-- R266: the selected source of a merge. -/
def mergeFrom (s : State) (w : EW) (code : Nat) : State :=
  let r := readSrc s code w.kA w.imm
  putRes r.1 w (match r.2 with
    | .eos => none
    | .bub => none
    | .err p => some (errTok p)
    | .val x _ => some (passTok w.ty x))

/-- R267: the inputs of a SELECT; a chain EOS with data sources is a join fault in every mode. -/
def selectJoin (s : State) (w : EW) (a b c : Opd) : Join :=
  if (firstErr [a, b, c]).isNone && !([a, b, c].contains .bub) && c == .eos && !(a == .eos && b == .eos) then
    .fault (if a.isVal then a.pay else b.pay).toNat 2
  else joinOps w.mode (kreg s (firingOf s).lane 7) [a, b, c]

/-! ### Generators, conversions, headers (R268 to R272) -/

def opKey (s : State) : Nat := (firingOf s).step * 8 + (firingOf s).lane

/-- R269: one firing of ITER. -/
def iterStep (s : State) (w : EW) (stride count : Code) : State :=
  let n := tyWidth w.ty
  let st := stride.toNat % 2 ^ n
  let cn := count.toNat % 2 ^ n
  let key := opKey s
  let i := (Tbl.get (0 : Code) s.ct.iter key).toNat
  if i < cn then
    putRes (s.modT (fun t => { t with iter := Tbl.set 0 t.iter key (BitVec.ofNat 32 (i + 1)) })) w
      (some (dataTok (laneExt w.ty (i * st))))
  else putRes (s.modT (fun t => { t with iter := Tbl.set 0 t.iter key 0 })) w (some eosTok)

/-- R98, R270: a conversion of a value of type `st` under a scale to the word's type. -/
def convWord (s : State) (w : EW) (st scale : Nat) (x : Code) : Code :=
  let ftz := w.sf && (tyFmt w.ty).isSome
  laneExt w.ty (toTy (w.rm s) w.sf (tyInt st).isSome w.ty (laneVal st ftz scale x))

/-- R271: closes the open block: its header, then its codes under the scale of R100. With sf an F8 block reads its subnormal
values as zero, for the scale as for the codes (R94); on L6 FTZ has no effect. -/
def closeBlock (s : State) (w : EW) (c : Conv) : Conv :=
  if c.vals.isEmpty then { c with newHdr := false }
  else
    let val (x : Token) : FV := laneVal 5 (w.sf && (tyFmt w.ty).isSome) 127 x.pay
    let sc := blockScale w.ty ((c.vals.filter (fun x => x.kind != 3)).map val)
    let h := c.hdr.getD 0
    let head : Code := BitVec.ofNat 32
      (sc * 2 ^ 24 + (c.vals.length - 1) * 2 ^ 16 + h.fld 15 1 * 2 ^ 15 + w.ty * 2 ^ 11 + h.fld 0 11)
    let code (x : Token) : Token :=
      if x.kind = 3 then x
      else dataTok (laneExt w.ty (toTy (w.rm s) w.sf false w.ty ((val x).scale (127 - (sc : Int)))))
    { vals := [], hdr := none, newHdr := false, eos := c.eos,
      out := c.out ++ ({ kind := 1, pay := head } : Token) :: c.vals.map code }

/-- R271: the operand of a firing enters the open block. A closed queue gives EOS again, and asks for no second EOS at the output. -/
def convTake (s : State) (w : EW) (c : Conv) (h : Option Code) (o : Opd) : Conv :=
  let add (x : Token) : Conv :=
    { c with vals := c.vals ++ [x], hdr := if c.vals.isEmpty then h else c.hdr }
  match o with
  | .eos => if c.ended then c else { closeBlock s w c with eos := true, ended := true }
  | .err p => add (errTok p)
  | .val x _ => add (dataTok x.pay)
  | .bub => c

/-- R271: block length of the open block, in values. -/
def Conv.len (c : Conv) : Nat :=
  match c.hdr with
  | some h => h.fld 16 8 + 1
  | none => 256

def pushAllOut (s : State) (q : Nat) (xs : List Token) : State := xs.foldl (fun s x => pushOut s q x) s

/-- R271: emits up to two tokens, then the one EOS once every code is out. R63 and R251 give a word one result and do not say which of two
tokens it is on the chain: the model carries the last (DESIGN CHOICE, log entry 28). -/
def convEmit (s : State) (w : EW) : State :=
  let c := s.ct.conv
  if c.out.isEmpty then
    if c.eos then putRes (s.modT (fun t => { t with conv := { c with eos := false } })) w (some eosTok)
    else laneDone s none
  else
    let xs := c.out.take 2
    let s1 := s.modT (fun t => { t with conv := { c with out := c.out.drop 2 } })
    laneDone (pushAllOut s1 (w.d - 2) xs) xs.getLast?

/-! ### L6 sums (R273, R274) -/

/-- R273: one LMAC on the lane's K-sum: the new k4 and k5, and the result. -/
def lmacStep (k4 k5 : Code) (a b sa sb : Nat) : Option (Code × Code) :=
  let nan := a % 64 == l6NaR || b % 64 == l6NaR || sa == 0xFF || sb == 0xFF
  if nan then some (k4, k5.put 27 5 0 ||| 0x10000)
  else if a % 64 = l6Zero || b % 64 = l6Zero then some (k4, k5)
  else if k5.fld 26 1 = 1 && k5.fld 17 9 ≠ sa + sb then none
  else
    let k : Int := ((k4.toNat + k5.fld 0 16 * 2 ^ 32 : Nat) : Int)
    let n := wrapNat 48 (k + l6Contribution a b)
    some (BitVec.ofNat 32 n, BitVec.ofNat 32 (n / 2 ^ 32 + k5.fld 16 1 * 2 ^ 16 + (sa + sb) * 2 ^ 17 + 2 ^ 26))

/-- R274: acc + B. -/
def lfinWord (k4 k5 acc : Code) : Code :=
  let k := signed 48 (k4.toNat + k5.fld 0 16 * 2 ^ 32)
  let b := if k5.fld 16 1 = 1 then Fmt.fp32.canonNaN else l6BlockFp32 k ((k5.fld 17 9 : Nat) : Int)
  BitVec.ofNat 32 (Fmt.fp32.add .rne false acc.toNat b).1

/-! ### Tags and route classes (R280, R281) -/

/-- R15: the slot whose valid tag equals bits [79:8] of a VA, the lower on two, else 0x1FF. -/
def tagSlot (tags : Tbl (BitVec 80)) (tag : Nat) : Nat :=
  match tags.find? (fun e => e.2.fld 7 1 == 1 && e.2.fld 8 72 == tag) with
  | some e => e.1
  | none => 0x1FF

/-- R281: sends tokens from the tile's LOCAL port in class 3. -/
def injectRc (s : State) (rc : Nat) (xs : List Token) : State :=
  let l := s.ct.lease.getD 0
  s.modT (fun t => t.setChan injKey (t.chan injKey ++ xs.map (fun x => ({ tok := x, lease := l, rc } : ChTok))))

/-- R281: the datum of a packet, the result of the word. An open packet is kept as 32 × (data to come) + rc. -/
def rcDatum (s : State) (w : EW) (rc : Nat) (pre : List Token) (left : Nat) (o : Opd) : State :=
  let x := passTok w.ty o.tok
  let s1 := injectRc s rc (pre ++ [x])
  let s2 := s1.modT (fun t => { t with rcOpen := Tbl.set 0 t.rcOpen (opKey s) (if left = 0 then 0 else left * 32 + rc) })
  putRes s2 w (some x)

/-- R258: SINK records EOS. -/
def sinkSeen (s : State) : State := s.modT (fun t => { t with sinkEos := Tbl.set false t.sinkEos (opKey s) true })

/-! ### The words -/

/-- R259. Lane integer add with wrap or saturation. -/
def elemAdd (w : EW) (s : State) : State :=
  lane2V s w (fun a b => intWord w.ty w.sf (fun _ _ a b _ => a + b) a b 0)
/-- R259. Lane integer subtract. -/
def elemSub (w : EW) (s : State) : State :=
  lane2V s w (fun a b => intWord w.ty w.sf (fun _ _ a b _ => a - b) a b 0)
/-- R259. Lane integer multiply. -/
def elemMul (w : EW) (s : State) : State :=
  lane2V s w (fun a b => intWord w.ty w.sf (fun _ _ a b _ => a * b) a b 0)
/-- R259. Lane minimum. -/
def elemMin (w : EW) (s : State) : State :=
  lane2V s w (fun a b => intWord w.ty false (fun _ _ a b _ => min a b) a b 0)
/-- R259. Lane maximum. -/
def elemMax (w : EW) (s : State) : State :=
  lane2V s w (fun a b => intWord w.ty false (fun _ _ a b _ => max a b) a b 0)
/-- R259. Upper half of the lane product. -/
def elemMulh (w : EW) (s : State) : State :=
  lane2V s w (fun a b => intWord w.ty false (fun n _ a b _ => a * b / 2 ^ n) a b 0)
/-- R259. a × b + chain, exact then wrapped or clamped. -/
def elemMac (w : EW) (s : State) : State :=
  lane3V s w (fun a b c => intWord w.ty w.sf (fun _ _ a b c => a * b + c) a b c)
/-- R259. Lane absolute value. -/
def elemAbs (w : EW) (s : State) : State :=
  lane1V s w (fun a => intWord w.ty w.sf (fun _ _ a _ _ => (a.natAbs : Int)) a 0 0)
/-- R259. Lane negation. -/
def elemNeg (w : EW) (s : State) : State :=
  lane1V s w (fun a => intWord w.ty w.sf (fun _ _ a _ _ => -a) a 0 0)
/-- R259. Lane bitwise AND. -/
def elemAnd (w : EW) (s : State) : State :=
  lane2V s w (fun a b => intWord w.ty false (fun n _ a b _ => ((wrapNat n a &&& wrapNat n b : Nat) : Int)) a b 0)
/-- R259. Lane bitwise OR. -/
def elemOr (w : EW) (s : State) : State :=
  lane2V s w (fun a b => intWord w.ty false (fun n _ a b _ => ((wrapNat n a ||| wrapNat n b : Nat) : Int)) a b 0)
/-- R259. Lane bitwise XOR. -/
def elemXor (w : EW) (s : State) : State :=
  lane2V s w (fun a b => intWord w.ty false (fun n _ a b _ => ((wrapNat n a ^^^ wrapNat n b : Nat) : Int)) a b 0)
/-- R259. Lane bitwise complement. -/
def elemNot (w : EW) (s : State) : State :=
  lane1V s w (fun a => intWord w.ty false (fun n _ a _ _ => ((2 ^ n - 1 - wrapNat n a : Nat) : Int)) a 0 0)
/-- R260. Lane shift left. -/
def elemShl (w : EW) (s : State) : State :=
  lane2V s w (fun a b => intWord w.ty w.sf (fun n _ a b _ => a * 2 ^ amount n b) a b 0)
/-- R260. Lane logical shift right. -/
def elemShr (w : EW) (s : State) : State :=
  lane2V s w (fun a b => intWord w.ty false (fun n _ a b _ => ((wrapNat n a / 2 ^ amount n b : Nat) : Int)) a b 0)
/-- R260. Lane arithmetic shift right. -/
def elemSra (w : EW) (s : State) : State :=
  lane2V s w (fun a b => intWord w.ty false (fun n _ a b _ => a / 2 ^ amount n b) a b 0)
/-- R259. Lane leading-zero count. -/
def elemClz (w : EW) (s : State) : State :=
  lane1V s w (fun a => intWord w.ty false (fun n _ a _ _ => ((clzBits (wrapNat n a) n : Nat) : Int)) a 0 0)
/-- R259. Lane population count. -/
def elemPopc (w : EW) (s : State) : State :=
  lane1V s w (fun a => intWord w.ty false (fun n _ a _ _ => ((popBits (wrapNat n a) n : Nat) : Int)) a 0 0)
/-- R262. Lane float add, rounded once. -/
def elemFadd (w : EW) (s : State) : State :=
  lane2V s w (fun a b => fltWord w.ty (fun f => (f.add (w.rm s) w.sf a.toNat b.toNat).1))
/-- R262. Lane float subtract. -/
def elemFsub (w : EW) (s : State) : State :=
  lane2V s w (fun a b => fltWord w.ty (fun f => (f.sub (w.rm s) w.sf a.toNat b.toNat).1))
/-- R262. Lane float multiply. -/
def elemFmul (w : EW) (s : State) : State :=
  lane2V s w (fun a b => fltWord w.ty (fun f => (f.mul (w.rm s) w.sf a.toNat b.toNat).1))
/-- R262. Lane fused multiply-add with the chain. -/
def elemFfma (w : EW) (s : State) : State :=
  lane3V s w (fun a b c => fltWord w.ty (fun f => (f.fma (w.rm s) w.sf false a.toNat b.toNat c.toNat).1))
/-- R262. Lane float minimum. -/
def elemFmin (w : EW) (s : State) : State :=
  lane2V s w (fun a b => fltWord w.ty (fun f => (f.minmax w.sf false a.toNat b.toNat).1))
/-- R262. Lane float maximum. -/
def elemFmax (w : EW) (s : State) : State :=
  lane2V s w (fun a b => fltWord w.ty (fun f => (f.minmax w.sf true a.toNat b.toNat).1))
/-- R262. Lane float absolute value. -/
def elemFabs (w : EW) (s : State) : State :=
  lane1V s w (signWord w.ty (fun _ _ => false))
/-- R262. Lane float negation. -/
def elemFneg (w : EW) (s : State) : State :=
  lane1V s w (signWord w.ty (fun f x => !f.signOf x))
/-- R263. Lane compare equal, giving 1 or 0. -/
def elemCmpeq (w : EW) (s : State) : State :=
  elemCmp .eq w s
/-- R263. Lane compare not equal. -/
def elemCmpne (w : EW) (s : State) : State :=
  elemCmp .ne w s
/-- R263. Lane compare less than. -/
def elemCmplt (w : EW) (s : State) : State :=
  elemCmp .lt w s
/-- R263. Lane compare less or equal. -/
def elemCmple (w : EW) (s : State) : State :=
  elemCmp .le w s
/-- R261. Packs two I16 halves into a PAIR16. -/
def elemPack (w : EW) (s : State) : State :=
  lane2V s w (fun a b =>
    let h (x : Code) : Nat := if w.sf then narrow true true 16 (signed 32 x.toNat) else x.fld 0 16
    BitVec.ofNat 32 (h a + h b * 2 ^ 16))
/-- R261. Sign-extends the low half of a PAIR16. -/
def elemUnpkl (w : EW) (s : State) : State :=
  lane1V s w (fun a => (a.extractLsb' 0 16).signExtend 32)
/-- R261. Sign-extends the high half of a PAIR16. -/
def elemUnpkh (w : EW) (s : State) : State :=
  lane1V s w (fun a => (a.extractLsb' 16 16).signExtend 32)
/-- R264. Passes its operand with kind kept. -/
def elemPass (w : EW) (s : State) : State :=
  lane1 s w (fun s o => putRes s w (some (passTok w.ty o.tok)))
/-- R264. Passes its operand to dst and a second output queue. -/
def elemDup (w : EW) (s : State) : State :=
  let r := readA s w
  dupPush r.1 w (match r.2 with
    | .bub => none
    | o => some (passTok w.ty o.tok))
/-- R265. Passes the datum when the predicate is true. -/
def elemSteert (w : EW) (s : State) : State :=
  steer true w s
/-- R265. Passes the datum when the predicate is false. -/
def elemSteerf (w : EW) (s : State) : State :=
  steer false w s
/-- R266. Pops the selector and the selected source. -/
def elemMerge (w : EW) (s : State) : State :=
  let sel := popQ s (dSelq (s.ct.desc (firingOf s).actor))
  match sel.2 with
  | .eos => putRes sel.1 w (some eosTok)
  | .err p => putRes sel.1 w (some (errTok p))
  | .bub => putRes sel.1 w none
  | .val x _ => mergeFrom sel.1 w (if x.pay.fld 0 1 = 0 then w.a else w.b)
/-- R267. Chooses srcA or srcB by chain bit 0. -/
def elemSelect (w : EW) (s : State) : State :=
  let ra := readA s w
  let rb := readB ra.1 w
  let s1 := rb.1
  match selectJoin s1 w ra.2 rb.2 (Opd.ofLane (firingOf s).chain) with
  | .vals a b c => putRes s1 w (some (passTok w.ty (if c.pay.fld 0 1 = 1 then a else b).tok))
  | .res r => putRes s1 w r
  | .fault opa opb => laneFault s1 w 0x0E opa opb (elemCount s1)
/-- R268. Gives a lane register or immediate as data. -/
def elemConst (w : EW) (s : State) : State :=
  lane1V s w (fun a => laneExt w.ty a.toNat)
/-- R269. Generates i × stride up to count, then EOS. -/
def elemIter (w : EW) (s : State) : State :=
  let ra := readA s w
  let rb := readSrc ra.1 w.b w.kD w.imm
  iterStep rb.1 w ra.2.pay rb.2.pay
/-- R270. Converts from the latched header format. -/
def elemCvth (w : EW) (s : State) : State :=
  lane1 s w (fun s o =>
    let h := match o with
      | .val _ h => h
      | _ => none
    putRes s w (some (dataTok (match h with
      | some h => convWord s w (h.fld 11 4) (h.fld 24 8) o.pay
      | none => convWord s w w.ty 127 o.pay))))
/-- R270. Converts an I32 source. -/
def elemCvti (w : EW) (s : State) : State :=
  lane1 s w (fun s o => putRes s w (some (dataTok (convWord s w 2 127 o.pay))))
/-- R270. Converts an FP32 source. -/
def elemCvtf (w : EW) (s : State) : State :=
  lane1 s w (fun s o => putRes s w (some (dataTok (convWord s w 5 127 o.pay))))
/-- R271. Converts FP32 values into scaled blocks with headers. A header that stands ahead of the operand closes the open block
before the operand enters it; one that follows the operand closes it after. -/
def elemCvts (w : EW) (s : State) : State :=
  let c0 := s.ct.conv
  let h := Tbl.get none s.ct.hdr (w.a - 2)
  let c1 := if c0.newHdr then closeBlock s w c0 else c0
  let r := readA (s.modT (fun t => { t with conv := c1 })) w
  let c2 := convTake s w r.1.ct.conv h r.2
  let c3 := if c2.newHdr || c2.len ≤ c2.vals.length then closeBlock s w c2 else c2
  convEmit (r.1.modT (fun t => { t with conv := c3 })) w
/-- R272. Gives the header latched on a queue. A source that is no queue has no header latched (DESIGN CHOICE, log entry 28). -/
def elemHdrGet (w : EW) (s : State) : State :=
  let h := if 2 ≤ w.a && w.a ≤ 5 then Tbl.get none s.ct.hdr (w.a - 2) else none
  putRes s w (some (dataTok (h.getD 0x7FFF1000)))
/-- R272. Emits its operand as a header token. -/
def elemHdrPut (w : EW) (s : State) : State :=
  lane1 s w (fun s o => putRes s w (some { kind := 1, pay := o.pay }))
/-- R273. Adds an L6 product into the lane K-sum. -/
def elemLmac (w : EW) (s : State) : State :=
  laneN s w false (fun s a b _ =>
    let lane := (firingOf s).lane
    match lmacStep (kreg s lane 4) (kreg s lane 5) a.pay.toNat b.pay.toNat a.scale b.scale with
    | none => putRes s w (some (mkErr s 0x04))
    | some (k4, k5) => putRes (pendReg (pendReg s lane 4 k4) lane 5 k5) w (some (dataTok k4)))
/-- R274. Rounds the K-sum into an FP32 accumulator and clears it. -/
def elemLfin (w : EW) (s : State) : State :=
  lane1 s w (fun s o =>
    let lane := (firingOf s).lane
    putRes (pendReg (pendReg s lane 4 0) lane 5 0) w
      (some (dataTok (lfinWord (kreg s lane 4) (kreg s lane 5) o.pay))))
/-- R257. Passes an index below its limit, else error 0x01. -/
def elemBound (w : EW) (s : State) : State :=
  laneN s w false (fun s a b _ =>
    putRes s w (some (if a.pay.toNat < b.pay.toNat then dataTok a.pay else mkErr s 0x01)))
/-- R257. Makes an error token from its operand. -/
def elemErrgen (w : EW) (s : State) : State :=
  lane1 s w (fun s o => putRes s w (some (mkErr s (0x80 + o.pay.fld 0 7))))
/-- R258. Consumes tokens, trapping on errors in mode 01. -/
def elemSink (w : EW) (s : State) : State :=
  let r := readA s w
  match r.2 with
  | .err p => if w.p.fld 6 2 = 1 then laneFault r.1 w 0x0F (p.fld 24 8) 0 (p.fld 0 24) else putRes r.1 w none
  | .eos => putRes (sinkSeen r.1) w none
  | _ => putRes r.1 w none
/-- R280. Looks up the tile tag table. -/
def elemTlook (w : EW) (s : State) : State :=
  lane1 s w (fun s o =>
    let lane := (firingOf s).lane
    let tag := o.pay.toNat + (kreg s lane 6).toNat * 2 ^ 32 + (kreg s lane 7).fld 0 8 * 2 ^ 64
    putRes s w (some (dataTok (BitVec.ofNat 32 (tagSlot s.ct.tags tag)))))
/-- R281: an error that a packet carries as a datum. -/
def Opd.asDatum : Opd → Opd
  | .err p => .val (errTok p) none
  | o => o

/-- R281. Sends route-class packets from the tile. With no packet open the rules of R252 hold, but that behind a head an error
datum is sent, as R281 has it, and an EOS passes. -/
def elemRcsend (w : EW) (s : State) : State :=
  if chanCap < (s.ct.chan injKey).length + 2 then s
  else
    let ra := readA s w
    let rb := readB ra.1 w
    let s1 := rb.1
    let left := Tbl.get 0 s1.ct.rcOpen (opKey s) / 32
    let rc := Tbl.get 0 s1.ct.rcOpen (opKey s) % 32
    if left ≠ 0 then
      match rb.2 with
      | .eos => laneFault s1 w 0x0E ra.2.pay.toNat 1 (elemCount s1)
      | .bub => putRes s1 w none
      | o => rcDatum s1 w rc [] (left - 1) o
    else if rb.2 = .eos && (ra.2 == .eos || ra.2.isVal) then putRes s1 w (some eosTok)
    else
      match joinOps w.mode (kreg s1 (firingOf s1).lane 7) [ra.2, if ra.2.isVal then rb.2.asDatum else rb.2] with
      | .vals a b _ =>
        let h := a.pay
        rcDatum s1 w (h.fld 27 5) [{ kind := 6, pay := h }] (h.fld 19 8) (.of b.tok none)
      | .res r => putRes s1 w r
      | .fault opa opb => laneFault s1 w 0x0E opa opb (elemCount s1)
/-- R282. The tile's arrival at a phase boundary. -/
def elemPhasen (w : EW) (s : State) : State :=
  if (firingOf s).wait.isSome then s
  else
    let k := s.cur.tile
    let r := readA s w
    match r.2 with
    | .eos => putRes r.1 w (some eosTok)
    | .err p => putRes r.1 w (some (errTok p))
    | .bub => putRes r.1 w none
    | .val x _ =>
      let sc := x.pay.fld 0 3
      if sc = 7 then putRes r.1 w (some (mkErr r.1 0x05))
      else
        recordArrival (modFiring r.1 (fun f => { f with wait := some sc, chain := some (dataTok x.pay) }))
          (s.ct.lease.getD 0) (.tile k) sc
/-- R283. Emits a thread token. -/
def elemThread (w : EW) (s : State) : State :=
  lane1 s w (fun s o =>
    putRes s w (some (if o.pay.fld 16 5 ≠ 0 then mkErr s 0x06 else { kind := 4, pay := o.pay })))
/-- R283. Emits a control token for a press tile or flue. -/
def elemCtok (w : EW) (s : State) : State :=
  lane1 s w (fun s o => putRes s w (some { kind := 5, pay := o.pay }))
/-- R118. Passes the chain through unchanged. -/
def elemNop (_w : EW) (s : State) : State :=
  laneDone s (firingOf s).chain

/-- The meaning of a word by its opcode (R118). -/
def elemRun (w : EW) (s : State) : State :=
  match w.opc with
  | 0x00 => elemNop w s
  | 0x01 => elemAdd w s
  | 0x02 => elemSub w s
  | 0x03 => elemMul w s
  | 0x04 => elemMulh w s
  | 0x05 => elemMac w s
  | 0x06 => elemMin w s
  | 0x07 => elemMax w s
  | 0x08 => elemAbs w s
  | 0x09 => elemNeg w s
  | 0x0A => elemAnd w s
  | 0x0B => elemOr w s
  | 0x0C => elemXor w s
  | 0x0D => elemNot w s
  | 0x0E => elemShl w s
  | 0x0F => elemShr w s
  | 0x10 => elemSra w s
  | 0x11 => elemClz w s
  | 0x12 => elemPopc w s
  | 0x18 => elemFadd w s
  | 0x19 => elemFsub w s
  | 0x1A => elemFmul w s
  | 0x1B => elemFfma w s
  | 0x1C => elemFmin w s
  | 0x1D => elemFmax w s
  | 0x1E => elemFabs w s
  | 0x1F => elemFneg w s
  | 0x20 => elemCmpeq w s
  | 0x21 => elemCmpne w s
  | 0x22 => elemCmplt w s
  | 0x23 => elemCmple w s
  | 0x24 => elemPack w s
  | 0x25 => elemUnpkl w s
  | 0x26 => elemUnpkh w s
  | 0x28 => elemPass w s
  | 0x29 => elemDup w s
  | 0x2A => elemSteert w s
  | 0x2B => elemSteerf w s
  | 0x2C => elemMerge w s
  | 0x2D => elemSelect w s
  | 0x30 => elemConst w s
  | 0x31 => elemIter w s
  | 0x38 => elemCvth w s
  | 0x39 => elemCvti w s
  | 0x3A => elemCvtf w s
  | 0x3B => elemCvts w s
  | 0x3C => elemHdrGet w s
  | 0x3D => elemHdrPut w s
  | 0x40 => elemLmac w s
  | 0x41 => elemLfin w s
  | 0x58 => elemBound w s
  | 0x59 => elemErrgen w s
  | 0x5A => elemSink w s
  | 0x5C => elemTlook w s
  | 0x60 => elemRcsend w s
  | 0x61 => elemPhasen w s
  | 0x62 => elemThread w s
  | 0x63 => elemCtok w s
  | _ => laneDone s none

/-! ### The instructions -/

/-- R118. Passes the chain through unchanged. -/
def execElemNop (_e : BitVec 1) (s : State) : Out :=
  .next (inFiring s (elemNop { opc := 0x00 }))
/-- R259. Lane integer add with wrap or saturation. -/
def execElemAdd (a b d : BitVec 3) (t : BitVec 4) (xs _e : BitVec 1) (p : BitVec 8) (s : State) : Out :=
  .next (inFiring s (elemAdd { opc := 0x01, a := a.toNat, b := b.toNat, d := d.toNat, ty := t.toNat, sf := xs == 1, p := p }))
/-- R259. Lane integer subtract. -/
def execElemSub (a b d : BitVec 3) (t : BitVec 4) (xs _e : BitVec 1) (p : BitVec 8) (s : State) : Out :=
  .next (inFiring s (elemSub { opc := 0x02, a := a.toNat, b := b.toNat, d := d.toNat, ty := t.toNat, sf := xs == 1, p := p }))
/-- R259. Lane integer multiply. -/
def execElemMul (a b d : BitVec 3) (t : BitVec 4) (xs _e : BitVec 1) (p : BitVec 8) (s : State) : Out :=
  .next (inFiring s (elemMul { opc := 0x03, a := a.toNat, b := b.toNat, d := d.toNat, ty := t.toNat, sf := xs == 1, p := p }))
/-- R259. Upper half of the lane product. -/
def execElemMulh (a b d : BitVec 3) (t : BitVec 4) (_e : BitVec 1) (p : BitVec 8) (s : State) : Out :=
  .next (inFiring s (elemMulh { opc := 0x04, a := a.toNat, b := b.toNat, d := d.toNat, ty := t.toNat, p := p }))
/-- R259. a × b + chain, exact then wrapped or clamped. -/
def execElemMac (a b d : BitVec 3) (t : BitVec 4) (xs _e : BitVec 1) (p : BitVec 8) (s : State) : Out :=
  .next (inFiring s (elemMac { opc := 0x05, a := a.toNat, b := b.toNat, d := d.toNat, ty := t.toNat, sf := xs == 1, p := p }))
/-- R259. Lane minimum. -/
def execElemMin (a b d : BitVec 3) (t : BitVec 4) (_e : BitVec 1) (p : BitVec 8) (s : State) : Out :=
  .next (inFiring s (elemMin { opc := 0x06, a := a.toNat, b := b.toNat, d := d.toNat, ty := t.toNat, p := p }))
/-- R259. Lane maximum. -/
def execElemMax (a b d : BitVec 3) (t : BitVec 4) (_e : BitVec 1) (p : BitVec 8) (s : State) : Out :=
  .next (inFiring s (elemMax { opc := 0x07, a := a.toNat, b := b.toNat, d := d.toNat, ty := t.toNat, p := p }))
/-- R259. Lane absolute value. -/
def execElemAbs (a d : BitVec 3) (t : BitVec 4) (xs _e : BitVec 1) (p : BitVec 8) (s : State) : Out :=
  .next (inFiring s (elemAbs { opc := 0x08, a := a.toNat, d := d.toNat, ty := t.toNat, sf := xs == 1, p := p }))
/-- R259. Lane negation. -/
def execElemNeg (a d : BitVec 3) (t : BitVec 4) (xs _e : BitVec 1) (p : BitVec 8) (s : State) : Out :=
  .next (inFiring s (elemNeg { opc := 0x09, a := a.toNat, d := d.toNat, ty := t.toNat, sf := xs == 1, p := p }))
/-- R259. Lane bitwise AND. -/
def execElemAnd (a b d : BitVec 3) (t : BitVec 4) (_e : BitVec 1) (p : BitVec 8) (s : State) : Out :=
  .next (inFiring s (elemAnd { opc := 0x0A, a := a.toNat, b := b.toNat, d := d.toNat, ty := t.toNat, p := p }))
/-- R259. Lane bitwise OR. -/
def execElemOr (a b d : BitVec 3) (t : BitVec 4) (_e : BitVec 1) (p : BitVec 8) (s : State) : Out :=
  .next (inFiring s (elemOr { opc := 0x0B, a := a.toNat, b := b.toNat, d := d.toNat, ty := t.toNat, p := p }))
/-- R259. Lane bitwise XOR. -/
def execElemXor (a b d : BitVec 3) (t : BitVec 4) (_e : BitVec 1) (p : BitVec 8) (s : State) : Out :=
  .next (inFiring s (elemXor { opc := 0x0C, a := a.toNat, b := b.toNat, d := d.toNat, ty := t.toNat, p := p }))
/-- R259. Lane bitwise complement. -/
def execElemNot (a d : BitVec 3) (t : BitVec 4) (_e : BitVec 1) (p : BitVec 8) (s : State) : Out :=
  .next (inFiring s (elemNot { opc := 0x0D, a := a.toNat, d := d.toNat, ty := t.toNat, p := p }))
/-- R260. Lane shift left. -/
def execElemShl (a b d : BitVec 3) (t : BitVec 4) (xs _e : BitVec 1) (p : BitVec 8) (s : State) : Out :=
  .next (inFiring s (elemShl { opc := 0x0E, a := a.toNat, b := b.toNat, d := d.toNat, ty := t.toNat, sf := xs == 1, p := p }))
/-- R260. Lane logical shift right. -/
def execElemShr (a b d : BitVec 3) (t : BitVec 4) (_e : BitVec 1) (p : BitVec 8) (s : State) : Out :=
  .next (inFiring s (elemShr { opc := 0x0F, a := a.toNat, b := b.toNat, d := d.toNat, ty := t.toNat, p := p }))
/-- R260. Lane arithmetic shift right. -/
def execElemSra (a b d : BitVec 3) (t : BitVec 4) (_e : BitVec 1) (p : BitVec 8) (s : State) : Out :=
  .next (inFiring s (elemSra { opc := 0x10, a := a.toNat, b := b.toNat, d := d.toNat, ty := t.toNat, p := p }))
/-- R259. Lane leading-zero count. -/
def execElemClz (a d : BitVec 3) (t : BitVec 4) (_e : BitVec 1) (p : BitVec 8) (s : State) : Out :=
  .next (inFiring s (elemClz { opc := 0x11, a := a.toNat, d := d.toNat, ty := t.toNat, p := p }))
/-- R259. Lane population count. -/
def execElemPopc (a d : BitVec 3) (t : BitVec 4) (_e : BitVec 1) (p : BitVec 8) (s : State) : Out :=
  .next (inFiring s (elemPopc { opc := 0x12, a := a.toNat, d := d.toNat, ty := t.toNat, p := p }))
/-- R262. Lane float add, rounded once. -/
def execElemFadd (a b d : BitVec 3) (t : BitVec 4) (r : BitVec 2) (xs _e : BitVec 1) (p : BitVec 8) (s : State) : Out :=
  .next (inFiring s (elemFadd { opc := 0x18, a := a.toNat, b := b.toNat, d := d.toNat, ty := t.toNat, rnd := r, sf := xs == 1, p := p }))
/-- R262. Lane float subtract. -/
def execElemFsub (a b d : BitVec 3) (t : BitVec 4) (r : BitVec 2) (xs _e : BitVec 1) (p : BitVec 8) (s : State) : Out :=
  .next (inFiring s (elemFsub { opc := 0x19, a := a.toNat, b := b.toNat, d := d.toNat, ty := t.toNat, rnd := r, sf := xs == 1, p := p }))
/-- R262. Lane float multiply. -/
def execElemFmul (a b d : BitVec 3) (t : BitVec 4) (r : BitVec 2) (xs _e : BitVec 1) (p : BitVec 8) (s : State) : Out :=
  .next (inFiring s (elemFmul { opc := 0x1A, a := a.toNat, b := b.toNat, d := d.toNat, ty := t.toNat, rnd := r, sf := xs == 1, p := p }))
/-- R262. Lane fused multiply-add with the chain. -/
def execElemFfma (a b d : BitVec 3) (t : BitVec 4) (r : BitVec 2) (xs _e : BitVec 1) (p : BitVec 8) (s : State) : Out :=
  .next (inFiring s (elemFfma { opc := 0x1B, a := a.toNat, b := b.toNat, d := d.toNat, ty := t.toNat, rnd := r, sf := xs == 1, p := p }))
/-- R262. Lane float minimum. -/
def execElemFmin (a b d : BitVec 3) (t : BitVec 4) (r : BitVec 2) (xs _e : BitVec 1) (p : BitVec 8) (s : State) : Out :=
  .next (inFiring s (elemFmin { opc := 0x1C, a := a.toNat, b := b.toNat, d := d.toNat, ty := t.toNat, rnd := r, sf := xs == 1, p := p }))
/-- R262. Lane float maximum. -/
def execElemFmax (a b d : BitVec 3) (t : BitVec 4) (r : BitVec 2) (xs _e : BitVec 1) (p : BitVec 8) (s : State) : Out :=
  .next (inFiring s (elemFmax { opc := 0x1D, a := a.toNat, b := b.toNat, d := d.toNat, ty := t.toNat, rnd := r, sf := xs == 1, p := p }))
/-- R262. Lane float absolute value. -/
def execElemFabs (a d : BitVec 3) (t : BitVec 4) (r : BitVec 2) (_e : BitVec 1) (p : BitVec 8) (s : State) : Out :=
  .next (inFiring s (elemFabs { opc := 0x1E, a := a.toNat, d := d.toNat, ty := t.toNat, rnd := r, p := p }))
/-- R262. Lane float negation. -/
def execElemFneg (a d : BitVec 3) (t : BitVec 4) (r : BitVec 2) (_e : BitVec 1) (p : BitVec 8) (s : State) : Out :=
  .next (inFiring s (elemFneg { opc := 0x1F, a := a.toNat, d := d.toNat, ty := t.toNat, rnd := r, p := p }))
/-- R263. Lane compare equal, giving 1 or 0. -/
def execElemCmpeq (a b d : BitVec 3) (t : BitVec 4) (r : BitVec 2) (xs _e : BitVec 1) (p : BitVec 8) (s : State) : Out :=
  .next (inFiring s (elemCmpeq { opc := 0x20, a := a.toNat, b := b.toNat, d := d.toNat, ty := t.toNat, rnd := r, sf := xs == 1, p := p }))
/-- R263. Lane compare not equal. -/
def execElemCmpne (a b d : BitVec 3) (t : BitVec 4) (r : BitVec 2) (xs _e : BitVec 1) (p : BitVec 8) (s : State) : Out :=
  .next (inFiring s (elemCmpne { opc := 0x21, a := a.toNat, b := b.toNat, d := d.toNat, ty := t.toNat, rnd := r, sf := xs == 1, p := p }))
/-- R263. Lane compare less than. -/
def execElemCmplt (a b d : BitVec 3) (t : BitVec 4) (r : BitVec 2) (xs _e : BitVec 1) (p : BitVec 8) (s : State) : Out :=
  .next (inFiring s (elemCmplt { opc := 0x22, a := a.toNat, b := b.toNat, d := d.toNat, ty := t.toNat, rnd := r, sf := xs == 1, p := p }))
/-- R263. Lane compare less or equal. -/
def execElemCmple (a b d : BitVec 3) (t : BitVec 4) (r : BitVec 2) (xs _e : BitVec 1) (p : BitVec 8) (s : State) : Out :=
  .next (inFiring s (elemCmple { opc := 0x23, a := a.toNat, b := b.toNat, d := d.toNat, ty := t.toNat, rnd := r, sf := xs == 1, p := p }))
/-- R261. Packs two I16 halves into a PAIR16. -/
def execElemPack (a b d : BitVec 3) (xs _e : BitVec 1) (p : BitVec 8) (s : State) : Out :=
  .next (inFiring s (elemPack { opc := 0x24, a := a.toNat, b := b.toNat, d := d.toNat, ty := 9, sf := xs == 1, p := p }))
/-- R261. Sign-extends the low half of a PAIR16. -/
def execElemUnpkl (a d : BitVec 3) (_e : BitVec 1) (p : BitVec 8) (s : State) : Out :=
  .next (inFiring s (elemUnpkl { opc := 0x25, a := a.toNat, d := d.toNat, ty := 9, p := p }))
/-- R261. Sign-extends the high half of a PAIR16. -/
def execElemUnpkh (a d : BitVec 3) (_e : BitVec 1) (p : BitVec 8) (s : State) : Out :=
  .next (inFiring s (elemUnpkh { opc := 0x26, a := a.toNat, d := d.toNat, ty := 9, p := p }))
/-- R264. Passes its operand with kind kept. -/
def execElemPass (a d : BitVec 3) (t : BitVec 4) (r : BitVec 2) (_e : BitVec 1) (p : BitVec 8) (s : State) : Out :=
  .next (inFiring s (elemPass { opc := 0x28, a := a.toNat, d := d.toNat, ty := t.toNat, rnd := r, p := p }))
/-- R264. Passes its operand to dst and a second output queue. -/
def execElemDup (a d : BitVec 3) (t : BitVec 4) (r : BitVec 2) (_e : BitVec 1) (p : BitVec 8) (s : State) : Out :=
  .next (inFiring s (elemDup { opc := 0x29, a := a.toNat, d := d.toNat, ty := t.toNat, rnd := r, p := p }))
/-- R265. Passes the datum when the predicate is true. -/
def execElemSteert (a b d : BitVec 3) (t : BitVec 4) (r : BitVec 2) (_e : BitVec 1) (p : BitVec 8) (s : State) : Out :=
  .next (inFiring s (elemSteert { opc := 0x2A, a := a.toNat, b := b.toNat, d := d.toNat, ty := t.toNat, rnd := r, p := p }))
/-- R265. Passes the datum when the predicate is false. -/
def execElemSteerf (a b d : BitVec 3) (t : BitVec 4) (r : BitVec 2) (_e : BitVec 1) (p : BitVec 8) (s : State) : Out :=
  .next (inFiring s (elemSteerf { opc := 0x2B, a := a.toNat, b := b.toNat, d := d.toNat, ty := t.toNat, rnd := r, p := p }))
/-- R266. Pops the selector and the selected source. -/
def execElemMerge (a b d : BitVec 3) (t : BitVec 4) (r : BitVec 2) (_e : BitVec 1) (p : BitVec 8) (s : State) : Out :=
  .next (inFiring s (elemMerge { opc := 0x2C, a := a.toNat, b := b.toNat, d := d.toNat, ty := t.toNat, rnd := r, p := p }))
/-- R267. Chooses srcA or srcB by chain bit 0. -/
def execElemSelect (a b d : BitVec 3) (t : BitVec 4) (r : BitVec 2) (_e : BitVec 1) (p : BitVec 8) (s : State) : Out :=
  .next (inFiring s (elemSelect { opc := 0x2D, a := a.toNat, b := b.toNat, d := d.toNat, ty := t.toNat, rnd := r, p := p }))
/-- R268. Gives a lane register or immediate as data. -/
def execElemConst (a d : BitVec 3) (t : BitVec 4) (r : BitVec 2) (_e : BitVec 1) (p : BitVec 8) (s : State) : Out :=
  .next (inFiring s (elemConst { opc := 0x30, a := a.toNat, d := d.toNat, ty := t.toNat, rnd := r, p := p }))
/-- R269. Generates i × stride up to count, then EOS. -/
def execElemIter (a b d : BitVec 3) (t : BitVec 4) (_e : BitVec 1) (p : BitVec 8) (s : State) : Out :=
  .next (inFiring s (elemIter { opc := 0x31, a := a.toNat, b := b.toNat, d := d.toNat, ty := t.toNat, p := p }))
/-- R270. Converts from the latched header format. -/
def execElemCvth (a d : BitVec 3) (t : BitVec 4) (r : BitVec 2) (xs _e : BitVec 1) (p : BitVec 8) (s : State) : Out :=
  .next (inFiring s (elemCvth { opc := 0x38, a := a.toNat, d := d.toNat, ty := t.toNat, rnd := r, sf := xs == 1, p := p }))
/-- R270. Converts an I32 source. -/
def execElemCvti (a d : BitVec 3) (t : BitVec 4) (r : BitVec 2) (xs _e : BitVec 1) (p : BitVec 8) (s : State) : Out :=
  .next (inFiring s (elemCvti { opc := 0x39, a := a.toNat, d := d.toNat, ty := t.toNat, rnd := r, sf := xs == 1, p := p }))
/-- R270. Converts an FP32 source. -/
def execElemCvtf (a d : BitVec 3) (t : BitVec 4) (r : BitVec 2) (xs _e : BitVec 1) (p : BitVec 8) (s : State) : Out :=
  .next (inFiring s (elemCvtf { opc := 0x3A, a := a.toNat, d := d.toNat, ty := t.toNat, rnd := r, sf := xs == 1, p := p }))
/-- R271. Converts FP32 values into scaled blocks with headers. -/
def execElemCvts (a d : BitVec 3) (t : BitVec 4) (r : BitVec 2) (xs _e : BitVec 1) (p : BitVec 8) (s : State) : Out :=
  .next (inFiring s (elemCvts { opc := 0x3B, a := a.toNat, d := d.toNat, ty := t.toNat, rnd := r, sf := xs == 1, p := p }))
/-- R272. Gives the header latched on a queue. -/
def execElemHdrGet (a d : BitVec 3) (_e : BitVec 1) (p : BitVec 8) (s : State) : Out :=
  .next (inFiring s (elemHdrGet { opc := 0x3C, a := a.toNat, d := d.toNat, ty := 2, p := p }))
/-- R272. Emits its operand as a header token. -/
def execElemHdrPut (a d : BitVec 3) (_e : BitVec 1) (p : BitVec 8) (s : State) : Out :=
  .next (inFiring s (elemHdrPut { opc := 0x3D, a := a.toNat, d := d.toNat, ty := 2, p := p }))
/-- R273. Adds an L6 product into the lane K-sum. -/
def execElemLmac (a b d : BitVec 3) (_e : BitVec 1) (p : BitVec 8) (s : State) : Out :=
  .next (inFiring s (elemLmac { opc := 0x40, a := a.toNat, b := b.toNat, d := d.toNat, ty := 8, p := p }))
/-- R274. Rounds the K-sum into an FP32 accumulator and clears it. -/
def execElemLfin (a d : BitVec 3) (_e : BitVec 1) (p : BitVec 8) (s : State) : Out :=
  .next (inFiring s (elemLfin { opc := 0x41, a := a.toNat, d := d.toNat, ty := 8, p := p }))
/-- R257. Passes an index below its limit, else error 0x01. -/
def execElemBound (a b d : BitVec 3) (_e : BitVec 1) (p : BitVec 8) (s : State) : Out :=
  .next (inFiring s (elemBound { opc := 0x58, a := a.toNat, b := b.toNat, d := d.toNat, ty := 2, p := p }))
/-- R257. Makes an error token from its operand. -/
def execElemErrgen (a d : BitVec 3) (_e : BitVec 1) (p : BitVec 8) (s : State) : Out :=
  .next (inFiring s (elemErrgen { opc := 0x59, a := a.toNat, d := d.toNat, ty := 2, p := p }))
/-- R258. Consumes tokens, trapping on errors in mode 01. -/
def execElemSink (a : BitVec 3) (t : BitVec 4) (r : BitVec 2) (_e : BitVec 1) (p : BitVec 8) (s : State) : Out :=
  .next (inFiring s (elemSink { opc := 0x5A, a := a.toNat, ty := t.toNat, d := 7, rnd := r, p := p }))
/-- R280. Looks up the tile tag table. -/
def execElemTlook (a d : BitVec 3) (_e : BitVec 1) (p : BitVec 8) (s : State) : Out :=
  .next (inFiring s (elemTlook { opc := 0x5C, a := a.toNat, d := d.toNat, ty := 2, p := p }))
/-- R281. Sends route-class packets from the tile. -/
def execElemRcsend (a b d : BitVec 3) (t : BitVec 4) (r : BitVec 2) (_e : BitVec 1) (p : BitVec 8) (s : State) : Out :=
  .next (inFiring s (elemRcsend { opc := 0x60, a := a.toNat, b := b.toNat, d := d.toNat, ty := t.toNat, rnd := r, p := p }))
/-- R282. The tile's arrival at a phase boundary. -/
def execElemPhasen (a d : BitVec 3) (_e : BitVec 1) (p : BitVec 8) (s : State) : Out :=
  .next (inFiring s (elemPhasen { opc := 0x61, a := a.toNat, d := d.toNat, ty := 2, p := p }))
/-- R283. Emits a thread token. -/
def execElemThread (a d : BitVec 3) (_e : BitVec 1) (p : BitVec 8) (s : State) : Out :=
  .next (inFiring s (elemThread { opc := 0x62, a := a.toNat, d := d.toNat, ty := 2, p := p }))
/-- R283. Emits a control token for a press tile or flue. -/
def execElemCtok (a d : BitVec 3) (_e : BitVec 1) (p : BitVec 8) (s : State) : Out :=
  .next (inFiring s (elemCtok { opc := 0x63, a := a.toNat, d := d.toNat, ty := 2, p := p }))

end Sys2Proof.Machine
end

