-- ==== Sys2Proof/Machine/Sync.lean ====
section
/-! DEFINITION. Memory order, atomics, barriers, buffers, proof levels and tag tables: majors 0x2B to
0x2F and 0x31 (07 R210 to R237, R246 to R248). -/

namespace Sys2Proof.Machine

/-- A register operand checked by R169 and R211: a bad one traps with 0x07. -/
def checked (s : State) (v : Word) (ok : Bool) (k : State) : State := if ok then k else raiseOp s v

def zeroAbove (v : Word) (n : Nat) : Bool := v.toNat < 2 ^ n

/-- The running context's key, agent and lease. -/
def me (s : State) : Nat := s.cur.ctx
def meWho (s : State) : Who := ctxWho s s.cur.ctx
def myLease (s : State) : Nat := s.cc.lease

/-! ### Memory order (R214 to R219) -/

/-- R216: the arrival is recorded, and the instruction completes with its boundary. -/
def phaseIssue (s : State) (scope : Nat) : State :=
  (recordArrival s (myLease s) (.ctx (me s)) scope).modC (fun c => { c with busy := some (.phase scope) })

/-- R216. Arrives at the next boundary of the scope group. -/
def execPhase (xs : BitVec 3) (s : State) : Out := .next (phaseIssue s xs.toNat)

/-- R217: the release, then the acquire. -/
def fence (s : State) (scope : Nat) (acq rel : Bool) : State :=
  let s1 := if rel then releaseBy s (meWho s) scope else s
  if acq then acquireBy s1 (meWho s) scope 0 else s1

/-- R217. Performs a release and/or acquire at a scope. -/
def execFence (xs : BitVec 3) (q r : BitVec 1) (s : State) : Out :=
  .next (retire (fence s xs.toNat (q == 1) (r == 1)) id)
/-- R218. Prefetches a range into a slice. -/
def execPref (_a : BitVec 3) (b : BitVec 5) (_xs : BitVec 3) (s : State) : Out :=
  .next (checked s (s.cc.rg b) (zeroAbove (s.cc.rg b) 48) (retire s id))
/-- R219. Declares a range dead in slices. -/
def execDiscard (a : BitVec 3) (b : BitVec 5) (xs : BitVec 3) (s : State) : Out :=
  let v := s.cc.rg b
  .next (checked s v (zeroAbove v 48)
    (retire (discardRange s (s.lease (myLease s)).part (meWho s) (mayHoldDirty s (me s / 8) xs.toNat) (s.cc.ra a).toNat v.toNat) id))

/-- R215: the larger of tstamp and tsfloor. -/
def tsRead (s : State) : Word :=
  if s.cc.tsfloor.toNat ≤ timeNs s then BitVec.ofNat 64 (timeNs s) else s.cc.tsfloor

/-- R215. Reads max(tstamp, tsfloor). -/
def execTsread (d : BitVec 5) (s : State) : Out := .next (retireG s d (tsRead s))

/-! ### Atomics (R220 to R222) -/

/-- An atomic of width w at a[a]. -/
def atomic (s : State) (fn w : Nat) (d : BitVec 5) (a : BitVec 3) (b : BitVec 5) (scope : BitVec 3) (q r : BitVec 1) : State :=
  access s (.atom fn w d (s.cc.rg b) (s.cc.rg d) scope.toNat (q == 1) (r == 1)) (s.cc.ra a).toNat

/-- The width of an atomic (R220). -/
def atWidth (w : BitVec 1) : Nat := if w = 1 then 8 else 4

/-- R221. Memory-side atomic add, returning the old value. -/
def execAtAdd (d : BitVec 5) (a : BitVec 3) (b : BitVec 5) (xs : BitVec 3) (q r w : BitVec 1) (s : State) : Out :=
  .next (atomic s 0x00 (atWidth w) d a b xs q r)
/-- R221. Memory-side FP32 atomic add. -/
def execAtFadd (d : BitVec 5) (a : BitVec 3) (b : BitVec 5) (xs : BitVec 3) (q r : BitVec 1) (s : State) : Out :=
  .next (atomic s 0x01 4 d a b xs q r)
/-- R221. Memory-side atomic AND. -/
def execAtAnd (d : BitVec 5) (a : BitVec 3) (b : BitVec 5) (xs : BitVec 3) (q r w : BitVec 1) (s : State) : Out :=
  .next (atomic s 0x02 (atWidth w) d a b xs q r)
/-- R221. Memory-side atomic OR. -/
def execAtOr (d : BitVec 5) (a : BitVec 3) (b : BitVec 5) (xs : BitVec 3) (q r w : BitVec 1) (s : State) : Out :=
  .next (atomic s 0x03 (atWidth w) d a b xs q r)
/-- R221. Memory-side atomic XOR. -/
def execAtXor (d : BitVec 5) (a : BitVec 3) (b : BitVec 5) (xs : BitVec 3) (q r w : BitVec 1) (s : State) : Out :=
  .next (atomic s 0x04 (atWidth w) d a b xs q r)
/-- R221. Memory-side atomic signed minimum. -/
def execAtMin (d : BitVec 5) (a : BitVec 3) (b : BitVec 5) (xs : BitVec 3) (q r w : BitVec 1) (s : State) : Out :=
  .next (atomic s 0x05 (atWidth w) d a b xs q r)
/-- R221. Memory-side atomic signed maximum. -/
def execAtMax (d : BitVec 5) (a : BitVec 3) (b : BitVec 5) (xs : BitVec 3) (q r w : BitVec 1) (s : State) : Out :=
  .next (atomic s 0x06 (atWidth w) d a b xs q r)
/-- R221. Memory-side atomic unsigned minimum. -/
def execAtMinn (d : BitVec 5) (a : BitVec 3) (b : BitVec 5) (xs : BitVec 3) (q r w : BitVec 1) (s : State) : Out :=
  .next (atomic s 0x07 (atWidth w) d a b xs q r)
/-- R221. Memory-side atomic unsigned maximum. -/
def execAtMaxn (d : BitVec 5) (a : BitVec 3) (b : BitVec 5) (xs : BitVec 3) (q r w : BitVec 1) (s : State) : Out :=
  .next (atomic s 0x08 (atWidth w) d a b xs q r)
/-- R221. Memory-side atomic swap. -/
def execAtSwap (d : BitVec 5) (a : BitVec 3) (b : BitVec 5) (xs : BitVec 3) (q r w : BitVec 1) (s : State) : Out :=
  .next (atomic s 0x09 (atWidth w) d a b xs q r)
/-- R221. Memory-side compare and swap. -/
def execAtCas (d : BitVec 5) (a : BitVec 3) (b : BitVec 5) (xs : BitVec 3) (q r w : BitVec 1) (s : State) : Out :=
  .next (atomic s 0x0A (atWidth w) d a b xs q r)
/-- R221. Memory-side wrapping increment bounded by the operand. -/
def execAtInc (d : BitVec 5) (a : BitVec 3) (b : BitVec 5) (xs : BitVec 3) (q r w : BitVec 1) (s : State) : Out :=
  .next (atomic s 0x0B (atWidth w) d a b xs q r)

/-! ### Barriers (R223 to R227) -/

/-- R224. Initialises a barrier object with an expected count. -/
def execBarInit (a : BitVec 3) (b : BitVec 5) (xs : BitVec 3) (s : State) : Out :=
  let v := s.cc.rg b
  .next (checked s v (1 ≤ v.toNat && v.toNat ≤ 65535) (access s (.barInit xs.toNat v.toNat) (s.cc.ra a).toNat))

/-- A BAR form whose b names bytes. -/
def barForm (s : State) (b : BitVec 5) (a : BitVec 3) (op : Nat → AccOp) : State :=
  let v := s.cc.rg b
  checked s v (zeroAbove v 36) (access s (op v.toNat) (s.cc.ra a).toNat)

/-- R224. Arrives at a barrier, adding pending bytes. -/
def execBarArrive (d : BitVec 5) (a : BitVec 3) (b : BitVec 5) (r : BitVec 1) (s : State) : Out :=
  .next (barForm s b a (.barArrive false (r == 1) d))
/-- R224. Arrives and lowers the barrier's expected count. -/
def execBarDrop (d : BitVec 5) (a : BitVec 3) (b : BitVec 5) (r : BitVec 1) (s : State) : Out :=
  .next (barForm s b a (.barArrive true (r == 1) d))
/-- R224. Adds pending bytes to a barrier. -/
def execBarExpect (a : BitVec 3) (b : BitVec 5) (s : State) : Out := .next (barForm s b a .barExpect)

/-- A BAR form whose b is a parity. -/
def barParity (s : State) (b : BitVec 5) (a : BitVec 3) (op : Bool → AccOp) : State :=
  let v := s.cc.rg b
  checked s v (zeroAbove v 1) (access s (op (v == 1)) (s.cc.ra a).toNat)

/-- R227. Waits until the barrier parity differs from p. -/
def execBarWait (a : BitVec 3) (b : BitVec 5) (q : BitVec 1) (s : State) : Out :=
  .next (barParity s b a (.barWait (q == 1)))
/-- R227. Tests the barrier parity without waiting. -/
def execBarTest (d : BitVec 5) (a : BitVec 3) (b : BitVec 5) (q : BitVec 1) (s : State) : Out :=
  .next (barParity s b a (.barTest (q == 1) d))

/-! ### Circular buffers (R246 to R248) -/

/-- R247. Resets a circular buffer's pointers. -/
def execCbInit (d : BitVec 5) (a : BitVec 3) (s : State) : Out := .next (access s (.cbInit d) (s.cc.ra a).toNat)

/-- CB.PUSH and CB.POP: b is a count. -/
def cbForm (s : State) (b : BitVec 5) (a : BitVec 3) (op : Nat → AccOp) : State :=
  let v := s.cc.rg b
  checked s v (zeroAbove v 17) (access s (op v.toNat) (s.cc.ra a).toNat)

/-- R247. Advances the producer pointer, optionally releasing. -/
def execCbPush (d : BitVec 5) (a : BitVec 3) (b : BitVec 5) (xs : BitVec 3) (r : BitVec 1) (s : State) : Out :=
  .next (cbForm s b a (.cbPush xs.toNat (r == 1) d))
/-- R247. Advances the consumer pointer, optionally acquiring. -/
def execCbPop (d : BitVec 5) (a : BitVec 3) (b : BitVec 5) (xs : BitVec 3) (q : BitVec 1) (s : State) : Out :=
  .next (cbForm s b a (.cbPop xs.toNat (q == 1) d))
/-- R247. Returns the entry count. -/
def execCbAvail (d : BitVec 5) (a : BitVec 3) (s : State) : Out := .next (access s (.cbAvail d) (s.cc.ra a).toNat)
/-- R247. Returns the free room. -/
def execCbRoom (d : BitVec 5) (a : BitVec 3) (s : State) : Out := .next (access s (.cbRoom d) (s.cc.ra a).toNat)

/-! ### Proof levels (R228 to R235) -/

/-- A group's open levels. -/
def snapLevels (s : State) (l : Nat) (u : SUnit) : List (List (Nat × Nat)) :=
  match (s.lease l).snaps.find? (fun g => g.unit == u) with
  | some g => g.levels
  | none => []

/-- Sets a group's open levels; a group with none is not listed. -/
def setSnapLevels (s : State) (l : Nat) (u : SUnit) (ls : List (List (Nat × Nat))) : State :=
  s.modLease l (fun x =>
    let rest := x.snaps.filter (fun g => g.unit != u)
    { x with snaps := if ls.isEmpty then rest else rest ++ [{ unit := u, levels := ls }] })

/-- Whether [a, a + n) and a listed range share a byte. -/
def overlapsAny (a n : Nat) (rs : List (Nat × Nat)) : Bool := rs.any (fun r => r.1 < a + n && a < r.1 + r.2)

/-- R229: whether a range overlaps one held open by another group of the partition. -/
def otherHolds (s : State) (l : Nat) (u : SUnit) (a n : Nat) : Bool :=
  s.leases.any (fun e => e.2.part == (s.lease l).part
    && e.2.snaps.any (fun g => !(e.1 == l && g.unit == u) && g.levels.any (overlapsAny a n)))

/-- R228: the length and the alignment of a range: 0x07 with the length, then 0x03. -/
def withRange (s : State) (va : Nat) (v : Word) (k : State) : State :=
  checked s v (1 ≤ v.toNat && v.toNat ≤ 2 ^ 48) (if va % 128 ≠ 0 || v.toNat % 128 ≠ 0 then raise s 0x03 0 0 else k)

/-- R229. Opens the next proof level over a range. -/
def execSnapOpen (d : BitVec 5) (a : BitVec 3) (b : BitVec 5) (xs : BitVec 3) (s : State) : Out :=
  let va := (s.cc.ra a).toNat
  let n := (s.cc.rg b).toNat
  let l := myLease s
  let u := agentUnit (.ctx (me s)) xs.toNat
  let ls := snapLevels s l u
  .next (withRange s va (s.cc.rg b)
    (if otherHolds s l u va n then raise s 0x0B 0 0
     else if 4 ≤ ls.length then raise s 0x0D 0 0
     else retireG (setSnapLevels s l u ([(va, n)] :: ls)) d (BitVec.ofNat 64 (xs.toNat + 8 * (ls.length + 1)))))

/-- R228: a handle's scope and level; none when a field is out of range. -/
def handleOf (v : Word) : Option (Nat × Nat) :=
  if zeroAbove v 6 && v.fld 0 3 ≤ 6 && 1 ≤ v.fld 3 3 && v.fld 3 3 ≤ 4 then some (v.fld 0 3, v.fld 3 3) else none

/-- The handle forms: 0x07 for a bad handle; status 3 for a level that is not open, 2 for one that is not innermost. -/
def withHandle (s : State) (d : BitVec 5) (v : Word) (k : Nat → SUnit → Nat → State) : State :=
  match handleOf v with
  | none => raiseOp s v
  | some (sc, n) =>
    let l := myLease s
    let u := agentUnit (.ctx (me s)) sc
    let depth := (snapLevels s l u).length
    if depth < n then retireG s d 3
    else if n < depth then retireG s d 2
    else k l u n

/-- R229. Adds a range to the innermost proof level. -/
def execSnapAdd (d : BitVec 5) (a : BitVec 3) (b : BitVec 5) (s : State) : Out :=
  let va := (s.cc.ra a).toNat
  let n := (s.cc.rg b).toNat
  let h := s.cc.rg d
  .next (checked s h (handleOf h).isSome (withRange s va (s.cc.rg b)
    (withHandle s d h (fun l u _ =>
      match snapLevels s l u with
      | [] => retireG s d 3
      | rs :: outer =>
        if otherHolds s l u va n then raise s 0x0B 0 0
        else if 16 ≤ rs.length then raise s 0x0D 0 0
        else retireG (setSnapLevels s l u ((rs ++ [(va, n)]) :: outer)) d 0))))

/-- The lines that hold a shadow of a level. -/
def linesOf (s : State) (h : Nat × SUnit × Nat) : List Nat :=
  (s.lines.filter (fun e => e.2.older.any (fun x => x.proof == some h))).map (fun e => e.1)

/-- R231: what the keep of a level does to a line that it shadowed. After the keep of level 1 the group's writes count as
writes completed at the keep. -/
def keepLine (s : State) (l : Nat) (u : SUnit) (n : Nat) (ln : Nat) : State :=
  let r := lineRec s ln
  let beneath : Option (Nat × SUnit × Nat) :=
    if 2 ≤ n && !r.older.any (fun x => x.proof == some (l, u, n - 1)) then some (l, u, n - 1) else none
  let stamp (v : VTag) : VTag := if n = 1 && v.lease = l && v.unit.inside u then { v with made := s.ordn } else v
  let newer := r.older.takeWhile (fun x => x.proof != some (l, u, n))
  let rest := r.older.drop newer.length
  let r' : LineRec :=
    { cur := r.cur.map stamp
      older := newer.map (fun x => { x with tag := x.tag.map stamp })
        ++ rest.map (fun x => if x.proof == some (l, u, n) then { x with proof := beneath } else x) }
  gcLine (setLineRec s ln r') ln

/-- R231. Folds the innermost proof level into the one beneath, whose ranges stay as they are (DESIGN CHOICE, log entry 28). -/
def execSnapKeep (d a : BitVec 5) (s : State) : Out :=
  .next (withHandle s d (s.cc.rg a) (fun l u n =>
    let s1 := setSnapLevels s l u ((snapLevels s l u).drop 1)
    retireG ((linesOf s (l, u, n)).foldl (fun s ln => keepLine s l u n ln) s1) d 0))

/-- R232: a line that the dropped level shadowed gets back its shadow's content, and HBM holds nothing of what was written since the
level opened; every version made since is freed. -/
def dropLevelLine (s : State) (h : Nat × SUnit × Nat) (ln : Nat) : State :=
  let r := lineRec s ln
  let newer := r.older.takeWhile (fun x => x.proof != some h)
  match r.older.drop newer.length with
  | [] => s
  | x :: rest =>
    let s0 : State := { s with dirty := Tbl.set {} s.dirty ln { Tbl.get {} s.dirty ln with data := x.stale } }
    let s1 := freeShadows (setFrameLine s0 ln x.data) (newer ++ [x])
    gcLine (setLineRec s1 ln { cur := x.tag, older := rest }) ln

/-- R232. Closes the innermost proof level and restores its shadows. -/
def execSnapDrop (d a : BitVec 5) (s : State) : Out :=
  .next (withHandle s d (s.cc.rg a) (fun l u n =>
    let s1 := setSnapLevels s l u ((snapLevels s l u).drop 1)
    retireG ((linesOf s (l, u, n)).foldl (fun s ln => dropLevelLine s (l, u, n) ln) s1) d 0))

/-- Free lines of a partition's pool, over its segments (R234, R341). -/
def poolFree (p : Part) : Nat :=
  (List.range 8).foldl (fun a i => a + (poolLimit p i - Tbl.get 0 p.inUse i)) 0

/-- R234. Returns free pool lines, depth and range count. -/
def execSnapQuery (d a : BitVec 5) (s : State) : Out :=
  let v := s.cc.rg a
  let ls := snapLevels s (myLease s) (agentUnit (.ctx (me s)) v.toNat)
  let free := min (poolFree (s.part (s.lease (myLease s)).part)) (2 ^ 32 - 1)
  .next (checked s v (v.toNat ≤ 6)
    (retireG s d (BitVec.ofNat 64 (free * 2 ^ 32 + (ls.headD []).length * 8 + ls.length))))

/-! ### Tag tables (R15, R236, R237) -/

/-- A selector whose flag, sub and idx are zero: its tile. -/
def plainTile (s : State) (v : Word) : Option Nat :=
  if selHigh v.toNat && !selFlag v.toNat && selSub v.toNat = 0 && selIdx v.toNat = 0 then selTile s (myLease s) v.toNat
  else none

/-- A form on a tile that such a selector names. -/
def onTile (s : State) (v : Word) (k : Nat → State) : State :=
  match plainTile s v with
  | none => raiseOp s v
  | some t => k t

/-- R16: a TAG form's update of a tile's table takes effect at the end of the fc. -/
def tagDue (s : State) (k : Nat) (slot : Option Nat) (e : BitVec 80) : State :=
  { s with dues := s.dues ++ [.tag (me s) k slot e] }

/-- R236. Looks up a VA in a tile's tag table. -/
def execTagLook (d a : BitVec 5) (b : BitVec 3) (s : State) : Out :=
  .next (onTile s (s.cc.rg a) (fun k => retireG s d (BitVec.ofNat 64 (tagSlot (s.tile k).tags ((s.cc.ra b).fld 8 72)))))
/-- R236. Writes a valid tag into a tag-table entry. -/
def execTagFill (d a : BitVec 5) (b : BitVec 3) (s : State) : Out :=
  .next (onTile s (s.cc.rg a) (fun k => checked s (s.cc.rg d) (zeroAbove (s.cc.rg d) 8)
    (retire (tagDue s k (some (s.cc.rg d).toNat) (BitVec.ofNat 80 ((s.cc.ra b).fld 8 72 * 2 ^ 8 + 2 ^ 7))) id)))
/-- R236. Invalidates an entry, returning its old d and v. -/
def execTagEvict (d a : BitVec 5) (s : State) : Out :=
  .next (onTile s (s.cc.rg a) (fun k => checked s (s.cc.rg d) (zeroAbove (s.cc.rg d) 8)
    (let e := Tbl.get 0 (s.tile k).tags (s.cc.rg d).toNat
     retireG (tagDue s k (some (s.cc.rg d).toNat) 0) d (BitVec.ofNat 64 (e.fld 6 1 * 2 + e.fld 7 1)))))
/-- R236. Clears every tag-table entry. -/
def execTagClear (a : BitVec 5) (s : State) : Out :=
  .next (onTile s (s.cc.rg a) (fun k => retire (tagDue s k none 0) id))

end Sys2Proof.Machine
end

