-- ==== Sys2Proof/Machine/Copy.lean ====
section
/-! DEFINITION. Copies: major 0x30 and the copy engine (07 R238 to R245). -/

namespace Sys2Proof.Machine

/-! ### The descriptor (R239) -/

/-- A location: a VA, or an offset in the bank of the tile that a selector names. -/
inductive Loc where
  | va (a : Nat)
  | bank (sel off : Nat)
deriving DecidableEq, Repr, Inhabited

def locOf (lo hi : Nat) : Loc :=
  if bits hi 16 1 = 1 then .bank (bits lo 0 32) (bits lo 32 16) else .va (lo + bits hi 0 16 * 2 ^ 64)

/-- A location moved by bytes; a VA wraps (R240). -/
def Loc.plus (x : Loc) (k : Int) : Loc :=
  match x with
  | .va a => .va (((a : Int) + k) % (2 ^ 80 : Nat)).toNat
  | .bank sel off => .bank sel ((off : Int) + k).toNat

/-- The address of a location, for alignment and for records. -/
def Loc.addr : Loc → Nat
  | .va a => a
  | .bank _ off => off

/-- Whether a named location is well-formed, its bytes running from `lo` to `hi` about it (R239). -/
def locOk (s : State) (l : Nat) (loW hiW : Nat) (lo hi : Int) : Bool :=
  if bits hiW 16 1 = 0 then true
  else bits loW 48 16 == 0 && bits hiW 0 16 == 0 && selHigh (bits loW 0 32) && selIdx loW == 0 && selSub loW == 0
    && !selFlag loW && (selTile s l (bits loW 0 32)).isSome
    && 0 ≤ (bits loW 32 16 : Int) + lo && (bits loW 32 16 : Int) + hi ≤ 65536

/-- Word i of a copy's descriptor. -/
def Copy.word (c : Copy) (i : Nat) : Nat := (c.desc.getD i 0).toNat
def Copy.src (c : Copy) : Loc := locOf (c.word 0) (c.word 1)
def Copy.dst (c : Copy) : Loc := locOf (c.word 2) (c.word 3)
def Copy.barVa (c : Copy) : Nat := c.word 7 + bits (c.word 1) 48 16 * 2 ^ 64
def Copy.listVa (c : Copy) : Nat := c.word 5 + bits (c.word 6) 0 16 * 2 ^ 64
def Copy.rowBytes (c : Copy) : Nat := bits (c.word 4) 0 32
def Copy.esize (c : Copy) : Nat := bits (c.word 4) 0 13
def Copy.sstride (c : Copy) : Int := signed 48 (bits (c.word 5) 0 48)
def Copy.dstride (c : Copy) : Int := signed 48 (bits (c.word 6) 0 48)

/-- Whether a form moves elements: GATHER (2) and SCATTER (3). -/
def Copy.elems (c : Copy) : Bool := c.form == 2 || c.form == 3

/-- The units of a copy (R240). -/
def Copy.total (c : Copy) : Nat :=
  if c.form = 1 then c.rowBytes * bits (c.word 4) 32 32
  else if c.elems then bits (c.word 4) 32 32
  else bits (c.word 4) 0 48

/-- R239: the cases of a malformed descriptor. -/
def Copy.bad (c : Copy) (s : State) : Bool :=
  let tot : Int := if c.elems then c.total * c.esize else c.total
  let span (st : Int) : Int × Int :=
    let e := ((bits (c.word 4) 32 32 : Int) - 1) * st
    (min 0 e, max 0 e + c.rowBytes)
  let sp : Int × Int := if c.form = 1 then span c.sstride else if c.form = 2 then (0, 0) else (0, tot)
  let dp : Int × Int := if c.form = 1 then span c.dstride else if c.form = 3 then (0, 0) else (0, tot)
  c.total == 0 || bits (c.word 1) 17 31 != 0 || bits (c.word 3) 17 47 != 0
    || (c.form == 4 && bits (c.word 1) 0 17 != 0)
    || ((c.form == 0 || c.form == 4) && (bits (c.word 4) 48 16 != 0 || c.word 5 != 0 || c.word 6 != 0))
    || (c.form == 1 && (bits (c.word 5) 48 16 != 0 || bits (c.word 6) 48 16 != 0))
    || (c.elems && (bits (c.word 4) 13 19 != 0 || bits (c.word 6) 16 48 != 0 || c.esize == 0 || 4096 < c.esize))
    || (c.form != 4 && !locOk s c.lease (c.word 0) (bits (c.word 1) 0 17) sp.1 sp.2)
    || !locOk s c.lease (c.word 2) (bits (c.word 3) 0 17) dp.1 dp.2
    || (c.bar && c.barVa % 32 != 0)

/-- The VAs that a descriptor names (R241). -/
def Copy.named (c : Copy) : List Nat :=
  let f (x : Loc) : List Nat := match x with
    | .va a => [a]
    | .bank _ _ => []
  (if c.form = 4 then [] else f c.src) ++ f c.dst ++ (if c.elems then [c.listVa] else []) ++ (if c.bar then [c.barVa] else [])

/-- Whether a VA lies in a system window. -/
def inWindow (s : State) (k va : Nat) : Bool :=
  match translateCtx s k va with
  | .ok (_, e) => e.attr.sysw
  | .error _ => false

/-! ### Start (R238) -/

/-- Copies of a context in flight, in issue order. -/
def copiesOf (s : State) (k : Nat) : List Copy := s.copies.filter (fun c => c.ctx == k)

/-- R238: whether a copy is accepted. -/
def copyRoom (s : State) (k : Nat) : Bool :=
  let st := k / 8
  let shared := (List.range 8).foldl (fun a i => a + ((copiesOf s (st * 8 + i)).length - 2)) 0
  let n := (copiesOf s k).length
  n < 2 || (n < 16 && shared < 32)

/-- The number after a ticket number (R172, R238). -/
def nextTicket (t : Nat) : Nat := if 65535 ≤ t then 1 else t + 1

/-- R238: a copy form. -/
def copyStart (s : State) (form : Nat) (d : BitVec 5) (a : BitVec 3) (b : BitVec 5) (scope : BitVec 3) (acq rel : Bool) : State :=
  let k := me s
  let opts := s.cc.rg b
  let va := (s.cc.ra a).toNat
  checked s opts (zeroAbove opts 2)
    (if va % 8 ≠ 0 then raiseVa s 0x03 va
     else match readVaWords s k 8 va 8 with
       | .error (code, x) => formFault s k code x
       | .ok (s1, ws) =>
         let c : Copy :=
           { ctx := k, ticket := nextTicket s.cc.cpyTk, lease := myLease s, form, desc := ws.map (BitVec.ofNat 64),
             notify := opts.fld 0 1 == 1, bar := opts.fld 1 1 == 1, scope := scope.toNat, acq, rel }
         if c.bad s1 then raiseVa s1 0x14 va
         else match (if scope = 7 then none else c.named.find? (inWindow s1 k)) with
           | some x => raiseVa s1 0x07 x
           | none =>
             if copyRoom s1 k then
               retire { s1 with copies := s1.copies ++ [c] } (fun x =>
                 ({ x with cpyTk := c.ticket } : Ctx).wg d (BitVec.ofNat 64 c.ticket))
             else retireG s1 d 0)

/-- R240. Starts a linear byte copy. -/
def execCpyLin (d : BitVec 5) (a : BitVec 3) (b : BitVec 5) (xs : BitVec 3) (q r : BitVec 1) (s : State) : Out :=
  .next (copyStart s 0 d a b xs (q == 1) (r == 1))
/-- R240. Starts a two-dimensional strided copy. -/
def execCpyTwo (d : BitVec 5) (a : BitVec 3) (b : BitVec 5) (xs : BitVec 3) (q r : BitVec 1) (s : State) : Out :=
  .next (copyStart s 1 d a b xs (q == 1) (r == 1))
/-- R240. Starts an indexed gather copy. -/
def execCpyGather (d : BitVec 5) (a : BitVec 3) (b : BitVec 5) (xs : BitVec 3) (q r : BitVec 1) (s : State) : Out :=
  .next (copyStart s 2 d a b xs (q == 1) (r == 1))
/-- R240. Starts an indexed scatter copy. -/
def execCpyScatter (d : BitVec 5) (a : BitVec 3) (b : BitVec 5) (xs : BitVec 3) (q r : BitVec 1) (s : State) : Out :=
  .next (copyStart s 3 d a b xs (q == 1) (r == 1))
/-- R240. Starts a pattern fill. -/
def execCpyFill (d : BitVec 5) (a : BitVec 3) (b : BitVec 5) (xs : BitVec 3) (q r : BitVec 1) (s : State) : Out :=
  .next (copyStart s 4 d a b xs (q == 1) (r == 1))

/-! ### The end of a copy (R242 to R244) -/

/-- The last ended copy of a ticket. -/
def endedCopy (c : Ctx) (t : Nat) : Option EndedCopy := c.cpyEnded.reverse.find? (fun e => e.ticket == t)

def sameCopy (c x : Copy) : Bool := x.ctx == c.ctx && x.ticket == c.ticket

/-- Writes a copy's progress back. -/
def setCopy (s : State) (c : Copy) : State :=
  { s with copies := s.copies.map (fun x => if sameCopy c x then c else x) }

/-- R243, R244: a copy ends, with code 0 or its fault. -/
def copyEnd (s : State) (c : Copy) (code : Nat) : State :=
  let s1 : State := { s with copies := s.copies.filter (fun x => !sameCopy c x) }
  let s2 := s1.modCtx c.ctx (fun x =>
    let l := x.cpyEnded ++ [{ ticket := c.ticket, code, units := c.units }]
    { x with cpyEnded := l.drop (l.length - 16) })
  progress (if c.notify then postEvent s2 c.ctx (evWord (if code = 0 then 0x02 else 0x03) code c.form 0 c.ticket) else s2) c.lease

/-- R242: a fault of a copy at its next unit. -/
def copyFault (s : State) (c : Copy) (code va : Nat) : State :=
  let rec_ := ctxRec s c.ctx code (codeLevel code) va
  if code = 0x05 || code = 0x06 then
    openFault (setCopy s { c with pause := some code }) rec_ (.copy c.ctx c.ticket)
  else if code = 0x08 then
    let s1 := ctxTagAlarm (setCopy s c) c.ctx va
    fabricFault s1 rec_
  else copyEnd s c code

/-! ### Units (R240, R241) -/

/-- One byte at a location. -/
def copyRead (s : State) (c : Copy) (x : Loc) : Except Nat Got :=
  match x with
  | .va a => agentRead (fun s va => translateCtx s c.ctx va) s (ctxWho s c.ctx) a 1 (c.scope == 7)
  | .bank sel off =>
    match selTile s c.lease sel with
    | none => .error 0x14
    | some k =>
      if 65536 ≤ off then .error 0x14
      else if !blocksMeet s (c.ctx / 8) (tileStoker k) then .error heldCode
      else .ok { st := serve s (.bank k) bankCopy, val := ((s.tile k).bank.read off).toNat, pa := 0, phased := false, cached := false, sys := true }

/-- What a run of bytes gives: the state, the value, how many bytes, and the fault that stopped it. -/
structure Run where
  st : State
  val : Nat := 0
  n : Nat := 0
  err : Option Nat := none

/-- Up to n bytes from a location; the first of each line counts as its transfer (R358). -/
def copyReadRun (s : State) (c : Copy) (x : Loc) (first : Bool) : Nat → Run
  | 0 => { st := s }
  | n + 1 =>
    match copyRead s c x with
    | .error e => { st := s, err := some e }
    | .ok g =>
      let r := copyReadRun (if first || g.pa % 128 = 0 then g.counted c.lease else g.st) c (x.plus 1) false n
      { r with val := g.val + 256 * r.val, n := r.n + 1 }

/-- n bytes within an aligned 8-byte unit, written whole; copy writes to a bank never set d (R237). -/
def copyWrite (s : State) (c : Copy) (x : Loc) (n val : Nat) : Except Nat (State × List Nat) :=
  match x with
  | .va a =>
    (agentWrite (fun s va => translateCtx s c.ctx va) s (ctxWho s c.ctx) a n (fullMask n) val (c.scope == 7)).map
      (fun g => (g.counted c.lease, g.line))
  | .bank sel off =>
    match selTile s c.lease sel with
    | none => .error 0x14
    | some k =>
      if 65536 < off + n then .error 0x14
      else if !blocksMeet s (c.ctx / 8) (tileStoker k) then .error heldCode
      else .ok ((serve s (.bank k) bankCopy).modTile k (fun t => { t with bank := t.bank.writeN off n val }), [])

/-- n bytes by aligned 8-byte units, within a number of units; the fault carries the address. -/
def copyWriteAll (s : State) (c : Copy) (x : Loc) (n val : Nat) (ls : List Nat) : Nat → Except (Nat × Nat) (State × List Nat)
  | 0 => .ok (s, ls)
  | f + 1 =>
    if n = 0 then .ok (s, ls)
    else
      let m := min n (8 - x.addr % 8)
      match copyWrite s c x m (val % 2 ^ (8 * m)) with
      | .error e => .error (e, x.addr)
      | .ok (s1, l) => copyWriteAll s1 c (x.plus m) (n - m) (val / 2 ^ (8 * m)) (ls ++ l) f

/-- What a step of a copy does: units and bytes moved and lines written, or the fault at its next unit. -/
inductive Moved where
  | ok (s : State) (units bytes : Nat) (lines : List Nat)
  | fault (s : State) (code va : Nat)

/-- LIN, TWO and FILL: the bytes up to the end of the destination's aligned 8-byte unit. -/
def moveBytes (s : State) (c : Copy) : Moved :=
  let u := c.units
  let rb := c.rowBytes
  let r := if c.form = 1 then u / rb else 0
  let j := if c.form = 1 then u % rb else u
  let left := if c.form = 1 then rb - j else c.total - u
  let dst := c.dst.plus (r * c.dstride + j)
  let src := c.src.plus (r * c.sstride + j)
  let n := min left (8 - dst.addr % 8)
  let got : Run :=
    if c.form = 4 then
      { st := s, n, val := (List.range n).foldl (fun a i => a + bits (c.word 0) (8 * ((u + i) % 8)) 8 * 256 ^ i) 0 }
    else copyReadRun s c src true n
  if got.n = 0 then .fault got.st (got.err.getD 0x04) src.addr
  else match copyWrite got.st c dst got.n got.val with
    | .error e => .fault got.st e dst.addr
    | .ok (s1, l) => .ok s1 got.n got.n l

/-- GATHER and SCATTER: one element. -/
def moveElem (s : State) (c : Copy) : Moved :=
  let u := c.units
  let es := c.esize
  let la := (c.listVa + 4 * u) % 2 ^ 80
  let ir := copyReadRun s c (.va la) true 4
  if ir.n < 4 then .fault ir.st (ir.err.getD 0x04) ((la + ir.n) % 2 ^ 80)
  else
    let ix := c.src.plus (if c.form = 2 then (ir.val * es : Nat) else (u * es : Nat))
    let dx := c.dst.plus (if c.form = 2 then (u * es : Nat) else (ir.val * es : Nat))
    let out (x : Loc) : Bool := match x with
      | .va _ => false
      | .bank _ off => 65536 < off + es
    if out ix || out dx then .fault ir.st 0x14 0
    else
      let rd := copyReadRun ir.st c ix true es
      if rd.n < es then .fault rd.st (rd.err.getD 0x04) (ix.plus rd.n).addr
      else match copyWriteAll rd.st c dx es rd.val [] (es / 8 + 2) with
        | .error (e, x) => .fault rd.st e x
        | .ok (s1, l) => .ok s1 1 es l

/-- R241, R226: a byte report to the copy's barrier, after publication at the barrier's scope of the lines it wrote; at scope 7 for a
barrier in a system window, whose object stands on another package. -/
def copyReport (s : State) (c : Copy) (n : Nat) : Except Nat State :=
  match translateCtx s c.ctx c.barVa with
  | .error e => .error e
  | .ok (s1, e) =>
    let w := ctxWho s1 c.ctx
    match pageCheck s1 w c.barVa e { r := true, w := true, ms := true, noProof := true, noSys := c.scope != 7 } with
    | .error e => .error e
    | .ok pa =>
      let publish_ (scope : Nat) : State := releaseOn s1 w scope (fun ln => c.lines.contains ln)
      let refused : State := lateFault s1 { ctxRec s1 c.ctx 0x13 2 c.barVa with opa := n }
      if e.attr.sysw then
        match remoteNow (publish_ 7) pa (.barReport n) with
        | .ok (s2, _) => .ok s2
        | .error e => if e = 0x13 then .ok refused else .error e
      else if agentWaits s1 w pa e.attr || barLate s1 c.ctx pa (.barReport n) then .error heldCode
      else
        let b := barRead s1.mem pa
        match b.report n with
        | none => .ok refused
        | some _ => .ok (performAcc (publish_ b.scope) c.ctx (.barReport n) c.barVa pa e.attr).1

/-- The step after units have moved: the last release, a report (which step reports what is a free choice but for the
last, log entry 8), and the end. -/
def copyAfter (s : State) (c : Copy) : State :=
  let last := c.total ≤ c.units
  let s1 := if last && c.rel then releaseOn s (ctxWho s c.ctx) c.scope (fun ln => c.lines.contains ln) else s
  let s2 := if c.bar && !last then s1.drawn else s1
  if c.bar && c.owed != 0 && (last || s1.free) then
    match copyReport s2 c c.owed with
    | .error e => if e = heldCode then setCopy s2 c else copyFault s2 { c with rel := c.rel && !last } e c.barVa
    | .ok s3 =>
      let c' := { c with owed := 0 }
      if last then copyEnd s3 c' 0 else setCopy s3 c'
  else if last then copyEnd s2 c 0
  else setCopy s2 c

/-- The copies of a lease with bytes written and not yet reported. -/
def owing (s : State) (l : Nat) : List Copy :=
  s.copies.filter (fun c => c.lease == l && c.bar && c.owed != 0 && c.pause.isNone)

/-- Whether a report that a copy of a lease owes has to wait. -/
def owedWaits (s : State) (l : Nat) : Bool :=
  (owing s l).any (fun c => match copyReport s c c.owed with
    | .error e => e == heldCode
    | .ok _ => false)

/-- R245: a unit written counts together with its barrier report: the copies of a lease report what they owe before they are captured
or end. -/
def reportOwed (s : State) (l : Nat) : State :=
  (owing s l).foldl (fun s c => match copyReport s c c.owed with
    | .error e => copyFault s c e c.barVa
    | .ok s1 => setCopy s1 { c with owed := 0 }) s

/-- R242, R243: a fault at the next unit. A copy that it ends first reports the bytes it has written and not reported, so
that a copy of the remaining units completes the phase (the worked example of 07 R245); a paused copy reports later. -/
def copyHalt (s0 s1 : State) (c : Copy) (code va : Nat) : State :=
  if c.bar && c.owed ≠ 0 && code ≠ 0x05 && code ≠ 0x06 && code ≠ 0x08 then
    match copyReport s1 c c.owed with
    | .error e => if e = heldCode then setCopy s0 c else copyFault s1 c e c.barVa
    | .ok s2 => copyFault s2 { c with owed := 0 } code va
  else copyFault s1 c code va

/-- One step of a copy: its acquire before the first read, then its next units (R240 to R242). A copy that has moved all
its units only has its report left. -/
def copyStep (s : State) (c : Copy) : State :=
  let s0 := if c.acq && !c.acqDone then acquireBy s (ctxWho s c.ctx) c.scope 0 else s
  let c0 := { c with acqDone := true }
  if c.total ≤ c.units then copyAfter s0 c0
  else match (if c.elems then moveElem s0 c0 else moveBytes s0 c0) with
    | .fault s1 code va => if code = heldCode then setCopy s0 c0 else copyHalt s0 s1 c0 code va
    | .ok s1 u n ls =>
      copyAfter (progress s1 c.lease)
        { c0 with units := c.units + u, owed := c.owed + n, lines := c.lines ++ ls.filter (fun x => !c.lines.contains x) }

/-- R240. A copy writes its next unit. -/
def execCopyUnit (ctx ticket : Nat) (s : State) : Out :=
  .next (match s.copies.find? (fun c => c.ctx == ctx && c.ticket == ticket) with
    | none => s
    | some c => if leaseLive s c.lease && c.pause.isNone then copyStep s c else s)

/-! ### Waits and state words (R244) -/

/-- What a CPY.WAIT for tickets in issue order gives: none while one of them is in flight. -/
def copyWaitVal (s : State) (k : Nat) (ts : List Nat) : Option Word :=
  if ts.any (fun t => (copiesOf s k).any (fun c => c.ticket == t)) then none
  else
    let codes := ts.filterMap (fun t => (endedCopy (s.ctx k) t).map (fun e => e.code))
    some (BitVec.ofNat 64 ((codes.find? (fun c => c != 0)).getD 0))

/-- R244. Waits for one or all copies of the context. -/
def execCpyWait (d a : BitVec 5) (s : State) : Out :=
  let t := (s.cc.rg a).toNat
  let live := (copiesOf s (me s)).map (fun c => c.ticket)
  let ts := if t = 0 then live else [t]
  .next (if t ≠ 0 && !live.contains t && (endedCopy s.cc t).isNone then retireG s d 3
    else match copyWaitVal s (me s) ts with
      | some v => retireG s d v
      | none => s.modC (fun c => { c with st := .waiting, wait := some (.cpy d ts) }))

/-- R244: the state word of a ticket. -/
def copyState (s : State) (k t : Nat) : Nat :=
  match (copiesOf s k).find? (fun c => c.ticket == t) with
  | some c => 2 ^ 62 + c.units % 2 ^ 48
  | none => match endedCopy (s.ctx k) t with
    | none => 0
    | some e => (if e.code = 0 then 2 else 3) * 2 ^ 62 + e.code * 2 ^ 48 + e.units % 2 ^ 48

/-- R244. Returns a copy's state word. -/
def execCpyStat (d a : BitVec 5) (s : State) : Out :=
  .next (retireG s d (BitVec.ofNat 64 (copyState s (me s) (s.cc.rg a).toNat)))

end Sys2Proof.Machine
end

