-- ==== Sys2Proof/Decode.lean ====
section
/-! DEFINITION. The decoder, total on any word and rejecting by name, and after it the encoder, both from the
encoding tables (R56 to R66, R110 to R118). A stoker decodes control words, a tile's op store holds operation words
and memory nodes: the same 32 bits mean one thing in the one and another in the other (log entry 9). -/

namespace Sys2Proof

/-- What a decoder answers. -/
abbrev Decoded := Except Reject Instr

open Form (fld)

/-- The instruction when the condition holds, else the named reason. -/
def Decode.need (ok : Bool) (e : Reject) (k : Decoded) : Decoded := if ok then k else .error e

/-- R111: major 0x01. -/
def Decode.alu (w : Code) : Decoded :=
  match (fld w 0 6).toNat with
  | 0x00 => Decode.need (fld w 6 5 == 0) .unusedField (.ok (.add (fld w 21 5) (fld w 16 5) (fld w 11 5)))
  | 0x01 => Decode.need (fld w 6 5 == 0) .unusedField (.ok (.sub (fld w 21 5) (fld w 16 5) (fld w 11 5)))
  | 0x02 => Decode.need (fld w 6 5 == 0) .unusedField (.ok (.and (fld w 21 5) (fld w 16 5) (fld w 11 5)))
  | 0x03 => Decode.need (fld w 6 5 == 0) .unusedField (.ok (.or (fld w 21 5) (fld w 16 5) (fld w 11 5)))
  | 0x04 => Decode.need (fld w 6 5 == 0) .unusedField (.ok (.xor (fld w 21 5) (fld w 16 5) (fld w 11 5)))
  | 0x05 => Decode.need (fld w 6 5 == 0) .unusedField (.ok (.andn (fld w 21 5) (fld w 16 5) (fld w 11 5)))
  | 0x06 => Decode.need (fld w 6 5 == 0) .unusedField (.ok (.shl (fld w 21 5) (fld w 16 5) (fld w 11 5)))
  | 0x07 => Decode.need (fld w 6 5 == 0) .unusedField (.ok (.shr (fld w 21 5) (fld w 16 5) (fld w 11 5)))
  | 0x08 => Decode.need (fld w 6 5 == 0) .unusedField (.ok (.sra (fld w 21 5) (fld w 16 5) (fld w 11 5)))
  | 0x09 => Decode.need (fld w 6 5 == 0) .unusedField (.ok (.rol (fld w 21 5) (fld w 16 5) (fld w 11 5)))
  | 0x0A => Decode.need (fld w 6 5 == 0) .unusedField (.ok (.ror (fld w 21 5) (fld w 16 5) (fld w 11 5)))
  | 0x0B => Decode.need (fld w 6 5 == 0) .unusedField (.ok (.slt (fld w 21 5) (fld w 16 5) (fld w 11 5)))
  | 0x0C => Decode.need (fld w 6 5 == 0) .unusedField (.ok (.sltu (fld w 21 5) (fld w 16 5) (fld w 11 5)))
  | 0x0D => Decode.need (fld w 6 5 == 0) .unusedField (.ok (.min (fld w 21 5) (fld w 16 5) (fld w 11 5)))
  | 0x0E => Decode.need (fld w 6 5 == 0) .unusedField (.ok (.max (fld w 21 5) (fld w 16 5) (fld w 11 5)))
  | 0x0F => Decode.need (fld w 6 5 == 0) .unusedField (.ok (.minu (fld w 21 5) (fld w 16 5) (fld w 11 5)))
  | 0x10 => Decode.need (fld w 6 5 == 0) .unusedField (.ok (.maxu (fld w 21 5) (fld w 16 5) (fld w 11 5)))
  | 0x11 => Decode.need (fld w 6 5 == 0) .unusedField (.ok (.mul (fld w 21 5) (fld w 16 5) (fld w 11 5)))
  | 0x12 => Decode.need (fld w 6 5 == 0) .unusedField (.ok (.mulh (fld w 21 5) (fld w 16 5) (fld w 11 5)))
  | 0x13 => Decode.need (fld w 6 5 == 0) .unusedField (.ok (.mulhu (fld w 21 5) (fld w 16 5) (fld w 11 5)))
  | 0x14 => Decode.need (fld w 6 5 == 0) .unusedField (.ok (.div (fld w 21 5) (fld w 16 5) (fld w 11 5)))
  | 0x15 => Decode.need (fld w 6 5 == 0) .unusedField (.ok (.divu (fld w 21 5) (fld w 16 5) (fld w 11 5)))
  | 0x16 => Decode.need (fld w 6 5 == 0) .unusedField (.ok (.rem (fld w 21 5) (fld w 16 5) (fld w 11 5)))
  | 0x17 => Decode.need (fld w 6 5 == 0) .unusedField (.ok (.remu (fld w 21 5) (fld w 16 5) (fld w 11 5)))
  | 0x18 => Decode.need (fld w 6 10 == 0) .unusedField (.ok (.clz (fld w 21 5) (fld w 16 5)))
  | 0x19 => Decode.need (fld w 6 10 == 0) .unusedField (.ok (.ctz (fld w 21 5) (fld w 16 5)))
  | 0x1A => Decode.need (fld w 6 10 == 0) .unusedField (.ok (.popc (fld w 21 5) (fld w 16 5)))
  | 0x1B => Decode.need (fld w 6 10 == 0) .unusedField (.ok (.brev (fld w 21 5) (fld w 16 5)))
  | 0x1C => Decode.need (fld w 6 10 == 0) .unusedField (.ok (.bswap (fld w 21 5) (fld w 16 5)))
  | 0x1D => .ok (.sel (fld w 21 5) (fld w 16 5) (fld w 11 5) (fld w 6 5))
  | 0x1E => Decode.need (fld w 6 5 == 0) .unusedField (.ok (.addw (fld w 21 5) (fld w 16 5) (fld w 11 5)))
  | 0x1F => Decode.need (fld w 6 5 == 0) .unusedField (.ok (.subw (fld w 21 5) (fld w 16 5) (fld w 11 5)))
  | 0x20 => Decode.need (fld w 6 5 == 0) .unusedField (.ok (.satadd (fld w 21 5) (fld w 16 5) (fld w 11 5)))
  | 0x21 => Decode.need (fld w 6 5 == 0) .unusedField (.ok (.satsub (fld w 21 5) (fld w 16 5) (fld w 11 5)))
  | 0x22 => .ok (.muladd (fld w 21 5) (fld w 16 5) (fld w 11 5) (fld w 6 5))
  | _ => .error .unassignedFn

/-- R110: major 0x08. -/
def Decode.shi (w : Code) : Decoded :=
  match (fld w 6 2).toNat with
  | 0x00 => Decode.need (fld w 8 8 == 0) .unusedField (.ok (.shli (fld w 21 5) (fld w 16 5) (fld w 0 6)))
  | 0x01 => Decode.need (fld w 8 8 == 0) .unusedField (.ok (.shri (fld w 21 5) (fld w 16 5) (fld w 0 6)))
  | 0x02 => Decode.need (fld w 8 8 == 0) .unusedField (.ok (.srai (fld w 21 5) (fld w 16 5) (fld w 0 6)))
  | _ => .error .unassignedFn

/-- R112: major 0x23. -/
def Decode.adr (w : Code) : Decoded :=
  match (fld w 0 6).toNat with
  | 0x00 => Decode.need (fld w 6 10 == 0 && fld w 19 2 == 0 && fld w 24 2 == 0) .unusedField (.ok (.amov (fld w 21 3) (fld w 16 3)))
  | 0x01 => Decode.need (fld w 6 5 == 0 && fld w 19 2 == 0 && fld w 24 2 == 0) .unusedField (.ok (.aadd (fld w 21 3) (fld w 16 3) (fld w 11 5)))
  | 0x02 => Decode.need (fld w 6 5 == 0 && fld w 24 2 == 0) .unusedField (.ok (.aset (fld w 21 3) (fld w 16 5) (fld w 11 5)))
  | 0x03 => Decode.need (fld w 6 10 == 0 && fld w 19 2 == 0) .unusedField (.ok (.agetl (fld w 21 5) (fld w 16 3)))
  | 0x04 => Decode.need (fld w 6 10 == 0 && fld w 19 2 == 0) .unusedField (.ok (.ageth (fld w 21 5) (fld w 16 3)))
  | 0x05 => Decode.need (fld w 6 5 == 0 && fld w 14 2 == 0 && fld w 19 2 == 0) .unusedField (.ok (.acmp (fld w 21 5) (fld w 16 3) (fld w 11 3)))
  | _ => .error .unassignedFn

/-- R113: major 0x25. -/
def Decode.fpu (w : Code) : Decoded :=
  match (fld w 0 6).toNat with
  | 0x00 => Decode.need (fld w 7 4 == 0) .unusedField (.ok (.fadd (fld w 21 5) (fld w 16 5) (fld w 11 5) (fld w 6 1)))
  | 0x01 => Decode.need (fld w 7 4 == 0) .unusedField (.ok (.fsub (fld w 21 5) (fld w 16 5) (fld w 11 5) (fld w 6 1)))
  | 0x02 => Decode.need (fld w 7 4 == 0) .unusedField (.ok (.fmul (fld w 21 5) (fld w 16 5) (fld w 11 5) (fld w 6 1)))
  | 0x03 => Decode.need (fld w 7 4 == 0) .unusedField (.ok (.fdiv (fld w 21 5) (fld w 16 5) (fld w 11 5) (fld w 6 1)))
  | 0x04 => Decode.need (fld w 7 4 == 0) .unusedField (Decode.need (Form.modeOk (fld w 11 5)) .badMode (.ok (.fsqrt (fld w 21 5) (fld w 16 5) (fld w 11 5) (fld w 6 1))))
  | 0x05 => Decode.need (fld w 7 4 == 0) .unusedField (.ok (.fmin (fld w 21 5) (fld w 16 5) (fld w 11 5) (fld w 6 1)))
  | 0x06 => Decode.need (fld w 7 4 == 0) .unusedField (.ok (.fmax (fld w 21 5) (fld w 16 5) (fld w 11 5) (fld w 6 1)))
  | 0x07 => Decode.need (fld w 7 4 == 0) .unusedField (.ok (.ffma (fld w 21 5) (fld w 16 5) (fld w 11 5) (fld w 6 1)))
  | 0x08 => Decode.need (fld w 7 4 == 0) .unusedField (.ok (.ffms (fld w 21 5) (fld w 16 5) (fld w 11 5) (fld w 6 1)))
  | 0x09 => Decode.need (fld w 7 9 == 0) .unusedField (.ok (.fneg (fld w 21 5) (fld w 16 5) (fld w 6 1)))
  | 0x0A => Decode.need (fld w 7 9 == 0) .unusedField (.ok (.fabs (fld w 21 5) (fld w 16 5) (fld w 6 1)))
  | 0x0B => Decode.need (fld w 7 4 == 0) .unusedField (.ok (.fcpys (fld w 21 5) (fld w 16 5) (fld w 11 5) (fld w 6 1)))
  | 0x0C => Decode.need (fld w 7 4 == 0) .unusedField (.ok (.feq (fld w 21 5) (fld w 16 5) (fld w 11 5) (fld w 6 1)))
  | 0x0D => Decode.need (fld w 7 4 == 0) .unusedField (.ok (.flt (fld w 21 5) (fld w 16 5) (fld w 11 5) (fld w 6 1)))
  | 0x0E => Decode.need (fld w 7 4 == 0) .unusedField (.ok (.fle (fld w 21 5) (fld w 16 5) (fld w 11 5) (fld w 6 1)))
  | 0x0F => Decode.need (fld w 6 1 == 0) .unusedField (Decode.need (Form.modeOk (fld w 11 5)) .badMode (Decode.need ((fld w 9 2) != 3 && (fld w 7 2) != 3 && (fld w 9 2) != (fld w 7 2)) .badFormat (.ok (.fcvt (fld w 21 5) (fld w 16 5) (fld w 11 5) (fld w 9 2) (fld w 7 2)))))
  | 0x10 => Decode.need (fld w 6 1 == 0 && fld w 10 1 == 0) .unusedField (Decode.need (Form.modeOk (fld w 11 5)) .badMode (Decode.need ((fld w 7 2) != 3) .badFormat (.ok (.fcvti (fld w 21 5) (fld w 16 5) (fld w 11 5) (fld w 9 1) (fld w 7 2)))))
  | 0x11 => Decode.need (fld w 6 1 == 0 && fld w 8 1 == 0) .unusedField (Decode.need (Form.modeOk (fld w 11 5)) .badMode (Decode.need ((fld w 9 2) != 3) .badFormat (.ok (.icvtf (fld w 21 5) (fld w 16 5) (fld w 11 5) (fld w 9 2) (fld w 7 1)))))
  | 0x12 => Decode.need (fld w 6 10 == 0) .unusedField (.ok (.fmvg (fld w 21 5) (fld w 16 5)))
  | 0x13 => Decode.need (fld w 6 10 == 0) .unusedField (.ok (.gmvf (fld w 21 5) (fld w 16 5)))
  | _ => .error .unassignedFn

/-- R114: major 0x26. -/
def Decode.sys (w : Code) : Decoded :=
  match (fld w 0 6).toNat with
  | 0x00 => Decode.need (fld w 16 10 == 0) .unusedField (.ok (.trap (fld w 6 10)))
  | 0x01 => Decode.need (fld w 6 20 == 0) .unusedField (.ok (.eret))
  | 0x02 => Decode.need (fld w 18 3 == 0) .unusedField (.ok (.csrr (fld w 21 5) (fld w 6 12)))
  | 0x03 => Decode.need (fld w 18 3 == 0) .unusedField (.ok (.csrw (fld w 21 5) (fld w 6 12)))
  | 0x04 => Decode.need (fld w 18 3 == 0) .unusedField (.ok (.csrs (fld w 21 5) (fld w 6 12)))
  | 0x05 => Decode.need (fld w 18 3 == 0) .unusedField (.ok (.csrc (fld w 21 5) (fld w 6 12)))
  | 0x06 => Decode.need (fld w 6 20 == 0) .unusedField (.ok (.wfe))
  | 0x07 => Decode.need (fld w 6 20 == 0) .unusedField (.ok (.halt))
  | 0x08 => Decode.need (fld w 6 20 == 0) .unusedField (.ok (.brk))
  | 0x09 => Decode.need (fld w 6 20 == 0) .unusedField (.ok (.ifence))
  | _ => .error .unassignedFn

/-- R115: major 0x27. -/
def Decode.fab (w : Code) : Decoded :=
  match (fld w 0 6).toNat with
  | 0x00 => Decode.need (fld w 6 5 == 0 && fld w 19 2 == 0) .unusedField (.ok (.cfgLoad (fld w 21 5) (fld w 16 3) (fld w 11 5)))
  | 0x01 => Decode.need (fld w 6 10 == 0) .unusedField (.ok (.cfgWait (fld w 21 5) (fld w 16 5)))
  | 0x02 => Decode.need (fld w 6 5 == 0 && fld w 21 5 == 0) .unusedField (.ok (.opw (fld w 16 5) (fld w 11 5)))
  | 0x03 => Decode.need (fld w 6 5 == 0 && fld w 21 5 == 0) .unusedField (.ok (.sww (fld w 16 5) (fld w 11 5)))
  | 0x04 => Decode.need (fld w 6 5 == 0 && fld w 19 2 == 0) .unusedField (.ok (.portBind (fld w 21 5) (fld w 16 3) (fld w 11 5)))
  | 0x05 => Decode.need (fld w 6 10 == 0) .unusedField (.ok (.portUnbind (fld w 21 5) (fld w 16 5)))
  | 0x06 => Decode.need (fld w 6 5 == 0) .unusedField (.ok (.inj (fld w 21 5) (fld w 16 5) (fld w 11 5)))
  | 0x07 => Decode.need (fld w 6 10 == 0) .unusedField (.ok (.ext (fld w 21 5) (fld w 16 5)))
  | 0x08 => Decode.need (fld w 6 10 == 0) .unusedField (.ok (.leaseDrain (fld w 21 5) (fld w 16 5)))
  | 0x09 => Decode.need (fld w 6 10 == 0) .unusedField (.ok (.leaseFreeze (fld w 21 5) (fld w 16 5)))
  | 0x0A => Decode.need (fld w 6 5 == 0) .unusedField (.ok (.leaseResume (fld w 21 5) (fld w 16 5) (fld w 11 5)))
  | 0x0B => Decode.need (fld w 6 5 == 0) .unusedField (.ok (.leaseMove (fld w 21 5) (fld w 16 5) (fld w 11 5)))
  | 0x0C => Decode.need (fld w 6 5 == 0 && fld w 19 2 == 0) .unusedField (.ok (.sweep (fld w 21 5) (fld w 16 3) (fld w 11 5)))
  | _ => .error .unassignedFn

/-- R115: major 0x28. -/
def Decode.ring (w : Code) : Decoded :=
  match (fld w 0 6).toNat with
  | 0x00 => Decode.need (fld w 6 5 == 0 && fld w 19 2 == 0) .unusedField (.ok (.ringDef (fld w 21 5) (fld w 16 3) (fld w 11 5)))
  | 0x01 => Decode.need (fld w 6 5 == 0 && fld w 19 2 == 0) .unusedField (.ok (.ringInj (fld w 21 5) (fld w 16 3) (fld w 11 5)))
  | 0x02 => Decode.need (fld w 6 5 == 0) .unusedField (.ok (.mtWrite (fld w 21 5) (fld w 16 5) (fld w 11 5)))
  | 0x03 => Decode.need (fld w 6 10 == 0) .unusedField (.ok (.mtClear (fld w 21 5) (fld w 16 5)))
  | 0x04 => Decode.need (fld w 6 10 == 0) .unusedField (.ok (.ringGo (fld w 21 5) (fld w 16 5)))
  | 0x05 => Decode.need (fld w 6 10 == 0) .unusedField (.ok (.ringStat (fld w 21 5) (fld w 16 5)))
  | 0x06 => Decode.need (fld w 6 5 == 0) .unusedField (.ok (.ringStop (fld w 21 5) (fld w 16 5) (fld w 11 5)))
  | _ => .error .unassignedFn

/-- R115: major 0x29. -/
def Decode.rc (w : Code) : Decoded :=
  match (fld w 0 6).toNat with
  | 0x00 => Decode.need (fld w 6 5 == 0 && fld w 14 2 == 0) .unusedField (.ok (.rcSend (fld w 21 5) (fld w 16 5) (fld w 11 3)))
  | 0x01 => Decode.need (fld w 6 10 == 0 && fld w 21 5 == 0) .unusedField (.ok (.rcMask (fld w 16 5)))
  | 0x02 => Decode.need (fld w 6 10 == 0 && fld w 21 5 == 0) .unusedField (.ok (.rcUnmask (fld w 16 5)))
  | 0x03 => Decode.need (fld w 6 5 == 0 && fld w 21 5 == 0) .unusedField (.ok (.rcRoute (fld w 16 5) (fld w 11 5)))
  | _ => .error .unassignedFn

/-- R115: major 0x2A. -/
def Decode.ev (w : Code) : Decoded :=
  match (fld w 0 6).toNat with
  | 0x00 => Decode.need (fld w 6 15 == 0) .unusedField (.ok (.evPop (fld w 21 5)))
  | 0x01 => Decode.need (fld w 6 15 == 0) .unusedField (.ok (.evPeek (fld w 21 5)))
  | 0x02 => Decode.need (fld w 6 5 == 0) .unusedField (.ok (.evPost (fld w 21 5) (fld w 16 5) (fld w 11 5)))
  | _ => .error .unassignedFn

/-- R115: major 0x2B. -/
def Decode.mem (w : Code) : Decoded :=
  match (fld w 0 6).toNat with
  | 0x00 => Decode.need (fld w 6 2 == 0 && fld w 11 15 == 0) .unusedField (Decode.need (Form.scope06 (fld w 8 3)) .badScope (.ok (.phase (fld w 8 3))))
  | 0x01 => Decode.need (fld w 11 15 == 0) .unusedField (Decode.need (Form.scope06 (fld w 8 3)) .badScope (Decode.need ((fld w 7 1) == 1 || (fld w 6 1) == 1) .badOrder (.ok (.fence (fld w 8 3) (fld w 7 1) (fld w 6 1)))))
  | 0x02 => Decode.need (fld w 6 2 == 0 && fld w 19 7 == 0) .unusedField (Decode.need (Form.scope14 (fld w 8 3)) .badScope (.ok (.pref (fld w 16 3) (fld w 11 5) (fld w 8 3))))
  | 0x03 => Decode.need (fld w 6 2 == 0 && fld w 19 7 == 0) .unusedField (Decode.need (Form.scope14 (fld w 8 3)) .badScope (.ok (.discard (fld w 16 3) (fld w 11 5) (fld w 8 3))))
  | 0x04 => Decode.need (fld w 6 15 == 0) .unusedField (.ok (.tsread (fld w 21 5)))
  | _ => .error .unassignedFn

/-- R115: major 0x2C. -/
def Decode.atom (w : Code) : Decoded :=
  match (fld w 0 5).toNat with
  | 0x00 => Decode.need (fld w 19 2 == 0) .unusedField (.ok (.atAdd (fld w 21 5) (fld w 16 3) (fld w 11 5) (fld w 8 3) (fld w 7 1) (fld w 6 1) (fld w 5 1)))
  | 0x01 => Decode.need (fld w 5 1 == 0 && fld w 19 2 == 0) .unusedField (.ok (.atFadd (fld w 21 5) (fld w 16 3) (fld w 11 5) (fld w 8 3) (fld w 7 1) (fld w 6 1)))
  | 0x02 => Decode.need (fld w 19 2 == 0) .unusedField (.ok (.atAnd (fld w 21 5) (fld w 16 3) (fld w 11 5) (fld w 8 3) (fld w 7 1) (fld w 6 1) (fld w 5 1)))
  | 0x03 => Decode.need (fld w 19 2 == 0) .unusedField (.ok (.atOr (fld w 21 5) (fld w 16 3) (fld w 11 5) (fld w 8 3) (fld w 7 1) (fld w 6 1) (fld w 5 1)))
  | 0x04 => Decode.need (fld w 19 2 == 0) .unusedField (.ok (.atXor (fld w 21 5) (fld w 16 3) (fld w 11 5) (fld w 8 3) (fld w 7 1) (fld w 6 1) (fld w 5 1)))
  | 0x05 => Decode.need (fld w 19 2 == 0) .unusedField (.ok (.atMin (fld w 21 5) (fld w 16 3) (fld w 11 5) (fld w 8 3) (fld w 7 1) (fld w 6 1) (fld w 5 1)))
  | 0x06 => Decode.need (fld w 19 2 == 0) .unusedField (.ok (.atMax (fld w 21 5) (fld w 16 3) (fld w 11 5) (fld w 8 3) (fld w 7 1) (fld w 6 1) (fld w 5 1)))
  | 0x07 => Decode.need (fld w 19 2 == 0) .unusedField (.ok (.atMinn (fld w 21 5) (fld w 16 3) (fld w 11 5) (fld w 8 3) (fld w 7 1) (fld w 6 1) (fld w 5 1)))
  | 0x08 => Decode.need (fld w 19 2 == 0) .unusedField (.ok (.atMaxn (fld w 21 5) (fld w 16 3) (fld w 11 5) (fld w 8 3) (fld w 7 1) (fld w 6 1) (fld w 5 1)))
  | 0x09 => Decode.need (fld w 19 2 == 0) .unusedField (.ok (.atSwap (fld w 21 5) (fld w 16 3) (fld w 11 5) (fld w 8 3) (fld w 7 1) (fld w 6 1) (fld w 5 1)))
  | 0x0A => Decode.need (fld w 19 2 == 0) .unusedField (.ok (.atCas (fld w 21 5) (fld w 16 3) (fld w 11 5) (fld w 8 3) (fld w 7 1) (fld w 6 1) (fld w 5 1)))
  | 0x0B => Decode.need (fld w 19 2 == 0) .unusedField (.ok (.atInc (fld w 21 5) (fld w 16 3) (fld w 11 5) (fld w 8 3) (fld w 7 1) (fld w 6 1) (fld w 5 1)))
  | _ => .error .unassignedFn

/-- R115: major 0x2D. -/
def Decode.bar (w : Code) : Decoded :=
  match (fld w 0 6).toNat with
  | 0x00 => Decode.need (fld w 6 2 == 0 && fld w 19 7 == 0) .unusedField (Decode.need (Form.scope06 (fld w 8 3)) .badScope (.ok (.barInit (fld w 16 3) (fld w 11 5) (fld w 8 3))))
  | 0x01 => Decode.need (fld w 7 4 == 0 && fld w 19 2 == 0) .unusedField (.ok (.barArrive (fld w 21 5) (fld w 16 3) (fld w 11 5) (fld w 6 1)))
  | 0x02 => Decode.need (fld w 7 4 == 0 && fld w 19 2 == 0) .unusedField (.ok (.barDrop (fld w 21 5) (fld w 16 3) (fld w 11 5) (fld w 6 1)))
  | 0x03 => Decode.need (fld w 6 5 == 0 && fld w 19 7 == 0) .unusedField (.ok (.barExpect (fld w 16 3) (fld w 11 5)))
  | 0x04 => Decode.need (fld w 6 1 == 0 && fld w 8 3 == 0 && fld w 19 7 == 0) .unusedField (.ok (.barWait (fld w 16 3) (fld w 11 5) (fld w 7 1)))
  | 0x05 => Decode.need (fld w 6 1 == 0 && fld w 8 3 == 0 && fld w 19 2 == 0) .unusedField (.ok (.barTest (fld w 21 5) (fld w 16 3) (fld w 11 5) (fld w 7 1)))
  | _ => .error .unassignedFn

/-- R115: major 0x2E. -/
def Decode.snap (w : Code) : Decoded :=
  match (fld w 0 6).toNat with
  | 0x00 => Decode.need (fld w 6 2 == 0 && fld w 19 2 == 0) .unusedField (Decode.need (Form.scope06 (fld w 8 3)) .badScope (.ok (.snapOpen (fld w 21 5) (fld w 16 3) (fld w 11 5) (fld w 8 3))))
  | 0x01 => Decode.need (fld w 6 5 == 0 && fld w 19 2 == 0) .unusedField (.ok (.snapAdd (fld w 21 5) (fld w 16 3) (fld w 11 5)))
  | 0x02 => Decode.need (fld w 6 10 == 0) .unusedField (.ok (.snapKeep (fld w 21 5) (fld w 16 5)))
  | 0x03 => Decode.need (fld w 6 10 == 0) .unusedField (.ok (.snapDrop (fld w 21 5) (fld w 16 5)))
  | 0x04 => Decode.need (fld w 6 10 == 0) .unusedField (.ok (.snapQuery (fld w 21 5) (fld w 16 5)))
  | _ => .error .unassignedFn

/-- R115: major 0x2F. -/
def Decode.tag (w : Code) : Decoded :=
  match (fld w 0 6).toNat with
  | 0x00 => Decode.need (fld w 6 5 == 0 && fld w 14 2 == 0) .unusedField (.ok (.tagLook (fld w 21 5) (fld w 16 5) (fld w 11 3)))
  | 0x01 => Decode.need (fld w 6 5 == 0 && fld w 14 2 == 0) .unusedField (.ok (.tagFill (fld w 21 5) (fld w 16 5) (fld w 11 3)))
  | 0x02 => Decode.need (fld w 6 10 == 0) .unusedField (.ok (.tagEvict (fld w 21 5) (fld w 16 5)))
  | 0x03 => Decode.need (fld w 6 10 == 0 && fld w 21 5 == 0) .unusedField (.ok (.tagClear (fld w 16 5)))
  | _ => .error .unassignedFn

/-- R115: major 0x30. -/
def Decode.cpy (w : Code) : Decoded :=
  match (fld w 0 6).toNat with
  | 0x00 => Decode.need (fld w 19 2 == 0) .unusedField (.ok (.cpyLin (fld w 21 5) (fld w 16 3) (fld w 11 5) (fld w 8 3) (fld w 7 1) (fld w 6 1)))
  | 0x01 => Decode.need (fld w 19 2 == 0) .unusedField (.ok (.cpyTwo (fld w 21 5) (fld w 16 3) (fld w 11 5) (fld w 8 3) (fld w 7 1) (fld w 6 1)))
  | 0x02 => Decode.need (fld w 19 2 == 0) .unusedField (.ok (.cpyGather (fld w 21 5) (fld w 16 3) (fld w 11 5) (fld w 8 3) (fld w 7 1) (fld w 6 1)))
  | 0x03 => Decode.need (fld w 19 2 == 0) .unusedField (.ok (.cpyScatter (fld w 21 5) (fld w 16 3) (fld w 11 5) (fld w 8 3) (fld w 7 1) (fld w 6 1)))
  | 0x04 => Decode.need (fld w 19 2 == 0) .unusedField (.ok (.cpyFill (fld w 21 5) (fld w 16 3) (fld w 11 5) (fld w 8 3) (fld w 7 1) (fld w 6 1)))
  | 0x05 => Decode.need (fld w 6 10 == 0) .unusedField (.ok (.cpyWait (fld w 21 5) (fld w 16 5)))
  | 0x06 => Decode.need (fld w 6 10 == 0) .unusedField (.ok (.cpyStat (fld w 21 5) (fld w 16 5)))
  | _ => .error .unassignedFn

/-- R115: major 0x31. -/
def Decode.cb (w : Code) : Decoded :=
  match (fld w 0 6).toNat with
  | 0x00 => Decode.need (fld w 6 10 == 0 && fld w 19 2 == 0) .unusedField (.ok (.cbInit (fld w 21 5) (fld w 16 3)))
  | 0x01 => Decode.need (fld w 7 1 == 0 && fld w 19 2 == 0) .unusedField (Decode.need (Form.scopeOrd (fld w 8 3) ((fld w 6 1) == 1)) .badScope (.ok (.cbPush (fld w 21 5) (fld w 16 3) (fld w 11 5) (fld w 8 3) (fld w 6 1))))
  | 0x02 => Decode.need (fld w 6 1 == 0 && fld w 19 2 == 0) .unusedField (Decode.need (Form.scopeOrd (fld w 8 3) ((fld w 7 1) == 1)) .badScope (.ok (.cbPop (fld w 21 5) (fld w 16 3) (fld w 11 5) (fld w 8 3) (fld w 7 1))))
  | 0x03 => Decode.need (fld w 6 10 == 0 && fld w 19 2 == 0) .unusedField (.ok (.cbAvail (fld w 21 5) (fld w 16 3)))
  | 0x04 => Decode.need (fld w 6 10 == 0 && fld w 19 2 == 0) .unusedField (.ok (.cbRoom (fld w 21 5) (fld w 16 3)))
  | _ => .error .unassignedFn

/-- R115: major 0x32. -/
def Decode.prs (w : Code) : Decoded :=
  match (fld w 0 6).toNat with
  | 0x00 => Decode.need (Form.scopeOrd (fld w 8 3) ((fld w 7 1) == 1 || (fld w 6 1) == 1)) .badScope (.ok (.prsIssue (fld w 21 5) (fld w 16 5) (fld w 11 5) (fld w 8 3) (fld w 7 1) (fld w 6 1)))
  | 0x01 => Decode.need (fld w 6 5 == 0) .unusedField (.ok (.prsRead (fld w 21 5) (fld w 16 5) (fld w 11 5)))
  | _ => .error .unassignedFn

/-- R115: major 0x33. -/
def Decode.flue (w : Code) : Decoded :=
  match (fld w 0 6).toNat with
  | 0x00 => Decode.need (fld w 6 10 == 0) .unusedField (.ok (.flueExp2 (fld w 21 5) (fld w 16 5)))
  | 0x01 => Decode.need (fld w 6 10 == 0) .unusedField (.ok (.flueLog2 (fld w 21 5) (fld w 16 5)))
  | 0x02 => Decode.need (fld w 6 10 == 0) .unusedField (.ok (.flueRcp (fld w 21 5) (fld w 16 5)))
  | 0x03 => Decode.need (fld w 6 10 == 0) .unusedField (.ok (.flueRsqrt (fld w 21 5) (fld w 16 5)))
  | 0x04 => Decode.need (fld w 6 10 == 0) .unusedField (.ok (.flueSqrt (fld w 21 5) (fld w 16 5)))
  | 0x05 => Decode.need (fld w 6 10 == 0) .unusedField (.ok (.flueSinpi (fld w 21 5) (fld w 16 5)))
  | 0x06 => Decode.need (fld w 6 10 == 0) .unusedField (.ok (.flueCospi (fld w 21 5) (fld w 16 5)))
  | 0x07 => Decode.need (fld w 6 10 == 0) .unusedField (.ok (.flueTanh (fld w 21 5) (fld w 16 5)))
  | 0x08 => Decode.need (fld w 6 10 == 0) .unusedField (.ok (.flueSigm (fld w 21 5) (fld w 16 5)))
  | _ => .error .unassignedFn

/-- R110: a control word. -/
def decodeControl (w : Code) : Decoded :=
  match (fld w 26 6).toNat with
  | 0x00 => .ok (.illegal (fld w 0 26))
  | 0x01 => Decode.alu w
  | 0x02 => .ok (.addi (fld w 21 5) (fld w 16 5) (fld w 0 16))
  | 0x03 => .ok (.andi (fld w 21 5) (fld w 16 5) (fld w 0 16))
  | 0x04 => .ok (.ori (fld w 21 5) (fld w 16 5) (fld w 0 16))
  | 0x05 => .ok (.xori (fld w 21 5) (fld w 16 5) (fld w 0 16))
  | 0x06 => .ok (.slti (fld w 21 5) (fld w 16 5) (fld w 0 16))
  | 0x07 => .ok (.sltiu (fld w 21 5) (fld w 16 5) (fld w 0 16))
  | 0x08 => Decode.shi w
  | 0x09 => Decode.need (fld w 16 5 == 0) .unusedField (.ok (.lui (fld w 21 5) (fld w 0 16)))
  | 0x0A => Decode.need (fld w 18 3 == 0) .unusedField (.ok (.insh (fld w 21 5) (fld w 16 2) (fld w 0 16)))
  | 0x0B => Decode.need (fld w 16 5 == 0) .unusedField (.ok (.addpc (fld w 21 5) (fld w 0 16)))
  | 0x0C => .ok (.beq (fld w 21 5) (fld w 16 5) (fld w 0 16))
  | 0x0D => .ok (.bne (fld w 21 5) (fld w 16 5) (fld w 0 16))
  | 0x0E => .ok (.blt (fld w 21 5) (fld w 16 5) (fld w 0 16))
  | 0x0F => .ok (.bge (fld w 21 5) (fld w 16 5) (fld w 0 16))
  | 0x10 => .ok (.bltu (fld w 21 5) (fld w 16 5) (fld w 0 16))
  | 0x11 => .ok (.bgeu (fld w 21 5) (fld w 16 5) (fld w 0 16))
  | 0x12 => .ok (.jal (fld w 21 5) (fld w 0 21))
  | 0x13 => .ok (.jalr (fld w 21 5) (fld w 16 5) (fld w 0 16))
  | 0x14 => .ok (.ldb (fld w 21 5) (fld w 18 3) (fld w 0 18))
  | 0x15 => .ok (.ldbu (fld w 21 5) (fld w 18 3) (fld w 0 18))
  | 0x16 => .ok (.ldh (fld w 21 5) (fld w 18 3) (fld w 0 18))
  | 0x17 => .ok (.ldhu (fld w 21 5) (fld w 18 3) (fld w 0 18))
  | 0x18 => .ok (.ldw (fld w 21 5) (fld w 18 3) (fld w 0 18))
  | 0x19 => .ok (.ldwu (fld w 21 5) (fld w 18 3) (fld w 0 18))
  | 0x1A => .ok (.ldd (fld w 21 5) (fld w 18 3) (fld w 0 18))
  | 0x1B => .ok (.stb (fld w 21 5) (fld w 18 3) (fld w 0 18))
  | 0x1C => .ok (.sth (fld w 21 5) (fld w 18 3) (fld w 0 18))
  | 0x1D => .ok (.stw (fld w 21 5) (fld w 18 3) (fld w 0 18))
  | 0x1E => .ok (.std (fld w 21 5) (fld w 18 3) (fld w 0 18))
  | 0x1F => .ok (.fldw (fld w 21 5) (fld w 18 3) (fld w 0 18))
  | 0x20 => .ok (.fldd (fld w 21 5) (fld w 18 3) (fld w 0 18))
  | 0x21 => .ok (.fstw (fld w 21 5) (fld w 18 3) (fld w 0 18))
  | 0x22 => .ok (.fstd (fld w 21 5) (fld w 18 3) (fld w 0 18))
  | 0x23 => Decode.adr w
  | 0x24 => Decode.need (fld w 19 2 == 0 && fld w 24 2 == 0) .unusedField (.ok (.aaddi (fld w 21 3) (fld w 16 3) (fld w 0 16)))
  | 0x25 => Decode.fpu w
  | 0x26 => Decode.sys w
  | 0x27 => Decode.fab w
  | 0x28 => Decode.ring w
  | 0x29 => Decode.rc w
  | 0x2A => Decode.ev w
  | 0x2B => Decode.mem w
  | 0x2C => Decode.atom w
  | 0x2D => Decode.bar w
  | 0x2E => Decode.snap w
  | 0x2F => Decode.tag w
  | 0x30 => Decode.cpy w
  | 0x31 => Decode.cb w
  | 0x32 => Decode.prs w
  | 0x33 => Decode.flue w
  | 0x3E => Decode.need (fld w 0 11 == 0) .unusedField (Decode.need (Form.strideOk (fld w 19 1) (fld w 15 2) && Form.strideOk (fld w 18 1) (fld w 13 2) && Form.strideOk (fld w 17 1) (fld w 11 2)) .badStride (.ok (.rep (fld w 20 6) (fld w 19 1) (fld w 18 1) (fld w 17 1) (fld w 15 2) (fld w 13 2) (fld w 11 2))))
  | _ => .error .illegalMajor

/-- The instruction when the loader's conditions hold (R65, R119). -/
def Decode.elemIf (w : Code) (opc : Nat) (i : Instr) : Decoded :=
  match Form.elemBad opc (fld w 22 3) (fld w 19 3) (fld w 16 3) (fld w 12 4) (fld w 10 2) (fld w 9 1) (fld w 0 8) with
  | some e => .error e
  | none => .ok i

/-- R118: an operation word that is no memory node. -/
def decodeElement (w : Code) : Decoded :=
  match (fld w 25 7).toNat with
  | 0x00 => Decode.elemIf w 0x00 (.elemNop (fld w 8 1))
  | 0x01 => Decode.elemIf w 0x01 (.elemAdd (fld w 22 3) (fld w 19 3) (fld w 16 3) (fld w 12 4) (fld w 9 1) (fld w 8 1) (fld w 0 8))
  | 0x02 => Decode.elemIf w 0x02 (.elemSub (fld w 22 3) (fld w 19 3) (fld w 16 3) (fld w 12 4) (fld w 9 1) (fld w 8 1) (fld w 0 8))
  | 0x03 => Decode.elemIf w 0x03 (.elemMul (fld w 22 3) (fld w 19 3) (fld w 16 3) (fld w 12 4) (fld w 9 1) (fld w 8 1) (fld w 0 8))
  | 0x04 => Decode.elemIf w 0x04 (.elemMulh (fld w 22 3) (fld w 19 3) (fld w 16 3) (fld w 12 4) (fld w 8 1) (fld w 0 8))
  | 0x05 => Decode.elemIf w 0x05 (.elemMac (fld w 22 3) (fld w 19 3) (fld w 16 3) (fld w 12 4) (fld w 9 1) (fld w 8 1) (fld w 0 8))
  | 0x06 => Decode.elemIf w 0x06 (.elemMin (fld w 22 3) (fld w 19 3) (fld w 16 3) (fld w 12 4) (fld w 8 1) (fld w 0 8))
  | 0x07 => Decode.elemIf w 0x07 (.elemMax (fld w 22 3) (fld w 19 3) (fld w 16 3) (fld w 12 4) (fld w 8 1) (fld w 0 8))
  | 0x08 => Decode.elemIf w 0x08 (.elemAbs (fld w 22 3) (fld w 16 3) (fld w 12 4) (fld w 9 1) (fld w 8 1) (fld w 0 8))
  | 0x09 => Decode.elemIf w 0x09 (.elemNeg (fld w 22 3) (fld w 16 3) (fld w 12 4) (fld w 9 1) (fld w 8 1) (fld w 0 8))
  | 0x0A => Decode.elemIf w 0x0A (.elemAnd (fld w 22 3) (fld w 19 3) (fld w 16 3) (fld w 12 4) (fld w 8 1) (fld w 0 8))
  | 0x0B => Decode.elemIf w 0x0B (.elemOr (fld w 22 3) (fld w 19 3) (fld w 16 3) (fld w 12 4) (fld w 8 1) (fld w 0 8))
  | 0x0C => Decode.elemIf w 0x0C (.elemXor (fld w 22 3) (fld w 19 3) (fld w 16 3) (fld w 12 4) (fld w 8 1) (fld w 0 8))
  | 0x0D => Decode.elemIf w 0x0D (.elemNot (fld w 22 3) (fld w 16 3) (fld w 12 4) (fld w 8 1) (fld w 0 8))
  | 0x0E => Decode.elemIf w 0x0E (.elemShl (fld w 22 3) (fld w 19 3) (fld w 16 3) (fld w 12 4) (fld w 9 1) (fld w 8 1) (fld w 0 8))
  | 0x0F => Decode.elemIf w 0x0F (.elemShr (fld w 22 3) (fld w 19 3) (fld w 16 3) (fld w 12 4) (fld w 8 1) (fld w 0 8))
  | 0x10 => Decode.elemIf w 0x10 (.elemSra (fld w 22 3) (fld w 19 3) (fld w 16 3) (fld w 12 4) (fld w 8 1) (fld w 0 8))
  | 0x11 => Decode.elemIf w 0x11 (.elemClz (fld w 22 3) (fld w 16 3) (fld w 12 4) (fld w 8 1) (fld w 0 8))
  | 0x12 => Decode.elemIf w 0x12 (.elemPopc (fld w 22 3) (fld w 16 3) (fld w 12 4) (fld w 8 1) (fld w 0 8))
  | 0x18 => Decode.elemIf w 0x18 (.elemFadd (fld w 22 3) (fld w 19 3) (fld w 16 3) (fld w 12 4) (fld w 10 2) (fld w 9 1) (fld w 8 1) (fld w 0 8))
  | 0x19 => Decode.elemIf w 0x19 (.elemFsub (fld w 22 3) (fld w 19 3) (fld w 16 3) (fld w 12 4) (fld w 10 2) (fld w 9 1) (fld w 8 1) (fld w 0 8))
  | 0x1A => Decode.elemIf w 0x1A (.elemFmul (fld w 22 3) (fld w 19 3) (fld w 16 3) (fld w 12 4) (fld w 10 2) (fld w 9 1) (fld w 8 1) (fld w 0 8))
  | 0x1B => Decode.elemIf w 0x1B (.elemFfma (fld w 22 3) (fld w 19 3) (fld w 16 3) (fld w 12 4) (fld w 10 2) (fld w 9 1) (fld w 8 1) (fld w 0 8))
  | 0x1C => Decode.elemIf w 0x1C (.elemFmin (fld w 22 3) (fld w 19 3) (fld w 16 3) (fld w 12 4) (fld w 10 2) (fld w 9 1) (fld w 8 1) (fld w 0 8))
  | 0x1D => Decode.elemIf w 0x1D (.elemFmax (fld w 22 3) (fld w 19 3) (fld w 16 3) (fld w 12 4) (fld w 10 2) (fld w 9 1) (fld w 8 1) (fld w 0 8))
  | 0x1E => Decode.elemIf w 0x1E (.elemFabs (fld w 22 3) (fld w 16 3) (fld w 12 4) (fld w 10 2) (fld w 8 1) (fld w 0 8))
  | 0x1F => Decode.elemIf w 0x1F (.elemFneg (fld w 22 3) (fld w 16 3) (fld w 12 4) (fld w 10 2) (fld w 8 1) (fld w 0 8))
  | 0x20 => Decode.elemIf w 0x20 (.elemCmpeq (fld w 22 3) (fld w 19 3) (fld w 16 3) (fld w 12 4) (fld w 10 2) (fld w 9 1) (fld w 8 1) (fld w 0 8))
  | 0x21 => Decode.elemIf w 0x21 (.elemCmpne (fld w 22 3) (fld w 19 3) (fld w 16 3) (fld w 12 4) (fld w 10 2) (fld w 9 1) (fld w 8 1) (fld w 0 8))
  | 0x22 => Decode.elemIf w 0x22 (.elemCmplt (fld w 22 3) (fld w 19 3) (fld w 16 3) (fld w 12 4) (fld w 10 2) (fld w 9 1) (fld w 8 1) (fld w 0 8))
  | 0x23 => Decode.elemIf w 0x23 (.elemCmple (fld w 22 3) (fld w 19 3) (fld w 16 3) (fld w 12 4) (fld w 10 2) (fld w 9 1) (fld w 8 1) (fld w 0 8))
  | 0x24 => Decode.elemIf w 0x24 (.elemPack (fld w 22 3) (fld w 19 3) (fld w 16 3) (fld w 9 1) (fld w 8 1) (fld w 0 8))
  | 0x25 => Decode.elemIf w 0x25 (.elemUnpkl (fld w 22 3) (fld w 16 3) (fld w 8 1) (fld w 0 8))
  | 0x26 => Decode.elemIf w 0x26 (.elemUnpkh (fld w 22 3) (fld w 16 3) (fld w 8 1) (fld w 0 8))
  | 0x28 => Decode.elemIf w 0x28 (.elemPass (fld w 22 3) (fld w 16 3) (fld w 12 4) (fld w 10 2) (fld w 8 1) (fld w 0 8))
  | 0x29 => Decode.elemIf w 0x29 (.elemDup (fld w 22 3) (fld w 16 3) (fld w 12 4) (fld w 10 2) (fld w 8 1) (fld w 0 8))
  | 0x2A => Decode.elemIf w 0x2A (.elemSteert (fld w 22 3) (fld w 19 3) (fld w 16 3) (fld w 12 4) (fld w 10 2) (fld w 8 1) (fld w 0 8))
  | 0x2B => Decode.elemIf w 0x2B (.elemSteerf (fld w 22 3) (fld w 19 3) (fld w 16 3) (fld w 12 4) (fld w 10 2) (fld w 8 1) (fld w 0 8))
  | 0x2C => Decode.elemIf w 0x2C (.elemMerge (fld w 22 3) (fld w 19 3) (fld w 16 3) (fld w 12 4) (fld w 10 2) (fld w 8 1) (fld w 0 8))
  | 0x2D => Decode.elemIf w 0x2D (.elemSelect (fld w 22 3) (fld w 19 3) (fld w 16 3) (fld w 12 4) (fld w 10 2) (fld w 8 1) (fld w 0 8))
  | 0x30 => Decode.elemIf w 0x30 (.elemConst (fld w 22 3) (fld w 16 3) (fld w 12 4) (fld w 10 2) (fld w 8 1) (fld w 0 8))
  | 0x31 => Decode.elemIf w 0x31 (.elemIter (fld w 22 3) (fld w 19 3) (fld w 16 3) (fld w 12 4) (fld w 8 1) (fld w 0 8))
  | 0x38 => Decode.elemIf w 0x38 (.elemCvth (fld w 22 3) (fld w 16 3) (fld w 12 4) (fld w 10 2) (fld w 9 1) (fld w 8 1) (fld w 0 8))
  | 0x39 => Decode.elemIf w 0x39 (.elemCvti (fld w 22 3) (fld w 16 3) (fld w 12 4) (fld w 10 2) (fld w 9 1) (fld w 8 1) (fld w 0 8))
  | 0x3A => Decode.elemIf w 0x3A (.elemCvtf (fld w 22 3) (fld w 16 3) (fld w 12 4) (fld w 10 2) (fld w 9 1) (fld w 8 1) (fld w 0 8))
  | 0x3B => Decode.elemIf w 0x3B (.elemCvts (fld w 22 3) (fld w 16 3) (fld w 12 4) (fld w 10 2) (fld w 9 1) (fld w 8 1) (fld w 0 8))
  | 0x3C => Decode.elemIf w 0x3C (.elemHdrGet (fld w 22 3) (fld w 16 3) (fld w 8 1) (fld w 0 8))
  | 0x3D => Decode.elemIf w 0x3D (.elemHdrPut (fld w 22 3) (fld w 16 3) (fld w 8 1) (fld w 0 8))
  | 0x40 => Decode.elemIf w 0x40 (.elemLmac (fld w 22 3) (fld w 19 3) (fld w 16 3) (fld w 8 1) (fld w 0 8))
  | 0x41 => Decode.elemIf w 0x41 (.elemLfin (fld w 22 3) (fld w 16 3) (fld w 8 1) (fld w 0 8))
  | 0x58 => Decode.elemIf w 0x58 (.elemBound (fld w 22 3) (fld w 19 3) (fld w 16 3) (fld w 8 1) (fld w 0 8))
  | 0x59 => Decode.elemIf w 0x59 (.elemErrgen (fld w 22 3) (fld w 16 3) (fld w 8 1) (fld w 0 8))
  | 0x5A => Decode.elemIf w 0x5A (.elemSink (fld w 22 3) (fld w 12 4) (fld w 10 2) (fld w 8 1) (fld w 0 8))
  | 0x5C => Decode.elemIf w 0x5C (.elemTlook (fld w 22 3) (fld w 16 3) (fld w 8 1) (fld w 0 8))
  | 0x60 => Decode.elemIf w 0x60 (.elemRcsend (fld w 22 3) (fld w 19 3) (fld w 16 3) (fld w 12 4) (fld w 10 2) (fld w 8 1) (fld w 0 8))
  | 0x61 => Decode.elemIf w 0x61 (.elemPhasen (fld w 22 3) (fld w 16 3) (fld w 8 1) (fld w 0 8))
  | 0x62 => Decode.elemIf w 0x62 (.elemThread (fld w 22 3) (fld w 16 3) (fld w 8 1) (fld w 0 8))
  | 0x63 => Decode.elemIf w 0x63 (.elemCtok (fld w 22 3) (fld w 16 3) (fld w 8 1) (fld w 0 8))
  | _ => .error .unassignedOpcode

/-- A memory node as its opcode and fields. Lean's compiler builds no object of a constructor past its 245th, so the
decoder of nodes answers with this form, and `Instr.asNode` says which instruction it stands for. -/
structure NodeForm where
  opc : BitVec 7 := 0
  asrc : BitVec 3 := 0
  dsrc : BitVec 3 := 0
  dst : BitVec 3 := 0
  typ : BitVec 4 := 0
  off : BitVec 12 := 0
  seq : BitVec 10 := 0
  pred : BitVec 10 := 0
  succ : BitVec 10 := 0
  first : BitVec 1 := 0
  last : BitVec 1 := 0
deriving DecidableEq, Repr, Inhabited

/-- The fields that words 0 and 1 of a node lay out (R66). -/
def NodeForm.ofWords (w v : Code) : NodeForm :=
  { opc := fld w 25 7, asrc := fld w 22 3, dsrc := fld w 19 3, dst := fld w 16 3, typ := fld w 12 4, off := fld w 0 12,
    seq := fld v 22 10, pred := fld v 12 10, succ := fld v 2 10, first := fld v 1 1, last := fld v 0 1 }

/-- Why the loader refuses a node (R65, R66, R276). -/
def NodeForm.bad (n : NodeForm) : Option Reject :=
  Form.nodeBad n.opc.toNat n.asrc n.dsrc n.dst n.typ n.off n.seq n.pred n.succ n.first n.last

/-- R66: a memory node, word 0 and word 1. -/
def decodeNode (w v : Code) : Except Reject NodeForm :=
  match (NodeForm.ofWords w v).bad with
  | some e => .error e
  | none => .ok (NodeForm.ofWords w v)

/-- The memory node that an instruction is, if it is one. -/
def Instr.asNode (i : Instr) : Option NodeForm :=
  match i with
  | .bld asrc dsrc dst typ off seq pre suc first last => some { opc := 0x48, asrc, dsrc, dst, typ, off, seq, pred := pre, succ := suc, first, last }
  | .bst asrc dsrc dst typ off seq pre suc first last => some { opc := 0x49, asrc, dsrc, dst, typ, off, seq, pred := pre, succ := suc, first, last }
  | .mld asrc dsrc dst typ off seq pre suc first last => some { opc := 0x4A, asrc, dsrc, dst, typ, off, seq, pred := pre, succ := suc, first, last }
  | .mst asrc dsrc dst typ off seq pre suc first last => some { opc := 0x4B, asrc, dsrc, dst, typ, off, seq, pred := pre, succ := suc, first, last }
  | .matAdd asrc dsrc dst typ off seq pre suc first last => some { opc := 0x4C, asrc, dsrc, dst, typ, off, seq, pred := pre, succ := suc, first, last }
  | .matFadd asrc dsrc dst typ off seq pre suc first last => some { opc := 0x4D, asrc, dsrc, dst, typ, off, seq, pred := pre, succ := suc, first, last }
  | .matAnd asrc dsrc dst typ off seq pre suc first last => some { opc := 0x4E, asrc, dsrc, dst, typ, off, seq, pred := pre, succ := suc, first, last }
  | .matOr asrc dsrc dst typ off seq pre suc first last => some { opc := 0x4F, asrc, dsrc, dst, typ, off, seq, pred := pre, succ := suc, first, last }
  | .matMin asrc dsrc dst typ off seq pre suc first last => some { opc := 0x50, asrc, dsrc, dst, typ, off, seq, pred := pre, succ := suc, first, last }
  | .matMax asrc dsrc dst typ off seq pre suc first last => some { opc := 0x51, asrc, dsrc, dst, typ, off, seq, pred := pre, succ := suc, first, last }
  | .matSwap asrc dsrc dst typ off seq pre suc first last => some { opc := 0x52, asrc, dsrc, dst, typ, off, seq, pred := pre, succ := suc, first, last }
  | _ => none

/-- Little-endian bytes of a word (R7). -/
def wordBytes (w : Code) : List Byte := [fld w 0 8, fld w 8 8, fld w 16 8, fld w 24 8]

/-- The word that four bytes spell, the first at the lowest address (R7). -/
def bytesWord (b0 b1 b2 b3 : Byte) : Code := b3 ++ b2 ++ b1 ++ b0

/-- A control word from bytes: the instruction and the bytes after it. -/
def decodeBytes (bs : List Byte) : Except Reject (Instr × List Byte) :=
  match bs with
  | b0 :: b1 :: b2 :: b3 :: rest => (decodeControl (bytesWord b0 b1 b2 b3)).map (fun i => (i, rest))
  | _ => .error .shortWord

/-- An operation word that is no memory node, from bytes. -/
def decodeElemBytes (bs : List Byte) : Except Reject (Instr × List Byte) :=
  match bs with
  | b0 :: b1 :: b2 :: b3 :: rest => (decodeElement (bytesWord b0 b1 b2 b3)).map (fun i => (i, rest))
  | _ => .error .shortWord

/-- A memory node from bytes. -/
def decodeNodeBytes (bs : List Byte) : Except Reject (NodeForm × List Byte) :=
  match bs with
  | b0 :: b1 :: b2 :: b3 :: c0 :: c1 :: c2 :: c3 :: rest =>
    (decodeNode (bytesWord b0 b1 b2 b3) (bytesWord c0 c1 c2 c3)).map (fun n => (n, rest))
  | _ => .error .shortWord

/-! ### The encoder -/

/-- The words of an instruction; a step that no word encodes has none. -/
def encode (i : Instr) : List Code :=
  match i with
  | .illegal x => [0#6 ++ x]
  | .add d a b => [1#6 ++ d ++ a ++ b ++ 0#11]
  | .sub d a b => [1#6 ++ d ++ a ++ b ++ 1#11]
  | .and d a b => [1#6 ++ d ++ a ++ b ++ 2#11]
  | .or d a b => [1#6 ++ d ++ a ++ b ++ 3#11]
  | .xor d a b => [1#6 ++ d ++ a ++ b ++ 4#11]
  | .andn d a b => [1#6 ++ d ++ a ++ b ++ 5#11]
  | .shl d a b => [1#6 ++ d ++ a ++ b ++ 6#11]
  | .shr d a b => [1#6 ++ d ++ a ++ b ++ 7#11]
  | .sra d a b => [1#6 ++ d ++ a ++ b ++ 8#11]
  | .rol d a b => [1#6 ++ d ++ a ++ b ++ 9#11]
  | .ror d a b => [1#6 ++ d ++ a ++ b ++ 10#11]
  | .slt d a b => [1#6 ++ d ++ a ++ b ++ 11#11]
  | .sltu d a b => [1#6 ++ d ++ a ++ b ++ 12#11]
  | .min d a b => [1#6 ++ d ++ a ++ b ++ 13#11]
  | .max d a b => [1#6 ++ d ++ a ++ b ++ 14#11]
  | .minu d a b => [1#6 ++ d ++ a ++ b ++ 15#11]
  | .maxu d a b => [1#6 ++ d ++ a ++ b ++ 16#11]
  | .mul d a b => [1#6 ++ d ++ a ++ b ++ 17#11]
  | .mulh d a b => [1#6 ++ d ++ a ++ b ++ 18#11]
  | .mulhu d a b => [1#6 ++ d ++ a ++ b ++ 19#11]
  | .div d a b => [1#6 ++ d ++ a ++ b ++ 20#11]
  | .divu d a b => [1#6 ++ d ++ a ++ b ++ 21#11]
  | .rem d a b => [1#6 ++ d ++ a ++ b ++ 22#11]
  | .remu d a b => [1#6 ++ d ++ a ++ b ++ 23#11]
  | .clz d a => [1#6 ++ d ++ a ++ 24#16]
  | .ctz d a => [1#6 ++ d ++ a ++ 25#16]
  | .popc d a => [1#6 ++ d ++ a ++ 26#16]
  | .brev d a => [1#6 ++ d ++ a ++ 27#16]
  | .bswap d a => [1#6 ++ d ++ a ++ 28#16]
  | .sel d a b c => [1#6 ++ d ++ a ++ b ++ c ++ 29#6]
  | .addw d a b => [1#6 ++ d ++ a ++ b ++ 30#11]
  | .subw d a b => [1#6 ++ d ++ a ++ b ++ 31#11]
  | .satadd d a b => [1#6 ++ d ++ a ++ b ++ 32#11]
  | .satsub d a b => [1#6 ++ d ++ a ++ b ++ 33#11]
  | .muladd d a b c => [1#6 ++ d ++ a ++ b ++ c ++ 34#6]
  | .addi d a i => [2#6 ++ d ++ a ++ i]
  | .andi d a i => [3#6 ++ d ++ a ++ i]
  | .ori d a i => [4#6 ++ d ++ a ++ i]
  | .xori d a i => [5#6 ++ d ++ a ++ i]
  | .slti d a i => [6#6 ++ d ++ a ++ i]
  | .sltiu d a i => [7#6 ++ d ++ a ++ i]
  | .shli d a n => [8#6 ++ d ++ a ++ 0#10 ++ n]
  | .shri d a n => [8#6 ++ d ++ a ++ 1#10 ++ n]
  | .srai d a n => [8#6 ++ d ++ a ++ 2#10 ++ n]
  | .lui d i => [9#6 ++ d ++ 0#5 ++ i]
  | .insh d p i => [10#6 ++ d ++ 0#3 ++ p ++ i]
  | .addpc d i => [11#6 ++ d ++ 0#5 ++ i]
  | .beq a b i => [12#6 ++ a ++ b ++ i]
  | .bne a b i => [13#6 ++ a ++ b ++ i]
  | .blt a b i => [14#6 ++ a ++ b ++ i]
  | .bge a b i => [15#6 ++ a ++ b ++ i]
  | .bltu a b i => [16#6 ++ a ++ b ++ i]
  | .bgeu a b i => [17#6 ++ a ++ b ++ i]
  | .jal d i => [18#6 ++ d ++ i]
  | .jalr d a i => [19#6 ++ d ++ a ++ i]
  | .ldb d r i => [20#6 ++ d ++ r ++ i]
  | .ldbu d r i => [21#6 ++ d ++ r ++ i]
  | .ldh d r i => [22#6 ++ d ++ r ++ i]
  | .ldhu d r i => [23#6 ++ d ++ r ++ i]
  | .ldw d r i => [24#6 ++ d ++ r ++ i]
  | .ldwu d r i => [25#6 ++ d ++ r ++ i]
  | .ldd d r i => [26#6 ++ d ++ r ++ i]
  | .stb d r i => [27#6 ++ d ++ r ++ i]
  | .sth d r i => [28#6 ++ d ++ r ++ i]
  | .stw d r i => [29#6 ++ d ++ r ++ i]
  | .std d r i => [30#6 ++ d ++ r ++ i]
  | .fldw d r i => [31#6 ++ d ++ r ++ i]
  | .fldd d r i => [32#6 ++ d ++ r ++ i]
  | .fstw d r i => [33#6 ++ d ++ r ++ i]
  | .fstd d r i => [34#6 ++ d ++ r ++ i]
  | .amov d a => [35#6 ++ 0#2 ++ d ++ 0#2 ++ a ++ 0#16]
  | .aadd d a b => [35#6 ++ 0#2 ++ d ++ 0#2 ++ a ++ b ++ 1#11]
  | .aset d a b => [35#6 ++ 0#2 ++ d ++ a ++ b ++ 2#11]
  | .agetl d a => [35#6 ++ d ++ 0#2 ++ a ++ 3#16]
  | .ageth d a => [35#6 ++ d ++ 0#2 ++ a ++ 4#16]
  | .acmp d a b => [35#6 ++ d ++ 0#2 ++ a ++ 0#2 ++ b ++ 5#11]
  | .aaddi d a i => [36#6 ++ 0#2 ++ d ++ 0#2 ++ a ++ i]
  | .fadd d a b t => [37#6 ++ d ++ a ++ b ++ 0#4 ++ t ++ 0#6]
  | .fsub d a b t => [37#6 ++ d ++ a ++ b ++ 0#4 ++ t ++ 1#6]
  | .fmul d a b t => [37#6 ++ d ++ a ++ b ++ 0#4 ++ t ++ 2#6]
  | .fdiv d a b t => [37#6 ++ d ++ a ++ b ++ 0#4 ++ t ++ 3#6]
  | .fsqrt d a m t => [37#6 ++ d ++ a ++ m ++ 0#4 ++ t ++ 4#6]
  | .fmin d a b t => [37#6 ++ d ++ a ++ b ++ 0#4 ++ t ++ 5#6]
  | .fmax d a b t => [37#6 ++ d ++ a ++ b ++ 0#4 ++ t ++ 6#6]
  | .ffma d a b t => [37#6 ++ d ++ a ++ b ++ 0#4 ++ t ++ 7#6]
  | .ffms d a b t => [37#6 ++ d ++ a ++ b ++ 0#4 ++ t ++ 8#6]
  | .fneg d a t => [37#6 ++ d ++ a ++ 0#9 ++ t ++ 9#6]
  | .fabs d a t => [37#6 ++ d ++ a ++ 0#9 ++ t ++ 10#6]
  | .fcpys d a b t => [37#6 ++ d ++ a ++ b ++ 0#4 ++ t ++ 11#6]
  | .feq d a b t => [37#6 ++ d ++ a ++ b ++ 0#4 ++ t ++ 12#6]
  | .flt d a b t => [37#6 ++ d ++ a ++ b ++ 0#4 ++ t ++ 13#6]
  | .fle d a b t => [37#6 ++ d ++ a ++ b ++ 0#4 ++ t ++ 14#6]
  | .fcvt d a m x y => [37#6 ++ d ++ a ++ m ++ x ++ y ++ 15#7]
  | .fcvti d a m x y => [37#6 ++ d ++ a ++ m ++ 0#1 ++ x ++ y ++ 16#7]
  | .icvtf d a m x y => [37#6 ++ d ++ a ++ m ++ x ++ 0#1 ++ y ++ 17#7]
  | .fmvg d a => [37#6 ++ d ++ a ++ 18#16]
  | .gmvf d a => [37#6 ++ d ++ a ++ 19#16]
  | .trap n => [38#6 ++ 0#10 ++ n ++ 0#6]
  | .eret => [38#6 ++ 1#26]
  | .csrr d c => [38#6 ++ d ++ 0#3 ++ c ++ 2#6]
  | .csrw s c => [38#6 ++ s ++ 0#3 ++ c ++ 3#6]
  | .csrs s c => [38#6 ++ s ++ 0#3 ++ c ++ 4#6]
  | .csrc s c => [38#6 ++ s ++ 0#3 ++ c ++ 5#6]
  | .wfe => [38#6 ++ 6#26]
  | .halt => [38#6 ++ 7#26]
  | .brk => [38#6 ++ 8#26]
  | .ifence => [38#6 ++ 9#26]
  | .cfgLoad d a b => [39#6 ++ d ++ 0#2 ++ a ++ b ++ 0#11]
  | .cfgWait d a => [39#6 ++ d ++ a ++ 1#16]
  | .opw a b => [39#6 ++ 0#5 ++ a ++ b ++ 2#11]
  | .sww a b => [39#6 ++ 0#5 ++ a ++ b ++ 3#11]
  | .portBind d a b => [39#6 ++ d ++ 0#2 ++ a ++ b ++ 4#11]
  | .portUnbind d a => [39#6 ++ d ++ a ++ 5#16]
  | .inj d a b => [39#6 ++ d ++ a ++ b ++ 6#11]
  | .ext d a => [39#6 ++ d ++ a ++ 7#16]
  | .leaseDrain d a => [39#6 ++ d ++ a ++ 8#16]
  | .leaseFreeze d a => [39#6 ++ d ++ a ++ 9#16]
  | .leaseResume d a b => [39#6 ++ d ++ a ++ b ++ 10#11]
  | .leaseMove d a b => [39#6 ++ d ++ a ++ b ++ 11#11]
  | .sweep d a b => [39#6 ++ d ++ 0#2 ++ a ++ b ++ 12#11]
  | .ringDef d a b => [40#6 ++ d ++ 0#2 ++ a ++ b ++ 0#11]
  | .ringInj d a b => [40#6 ++ d ++ 0#2 ++ a ++ b ++ 1#11]
  | .mtWrite d a b => [40#6 ++ d ++ a ++ b ++ 2#11]
  | .mtClear d a => [40#6 ++ d ++ a ++ 3#16]
  | .ringGo d a => [40#6 ++ d ++ a ++ 4#16]
  | .ringStat d a => [40#6 ++ d ++ a ++ 5#16]
  | .ringStop d a b => [40#6 ++ d ++ a ++ b ++ 6#11]
  | .rcSend d a b => [41#6 ++ d ++ a ++ 0#2 ++ b ++ 0#11]
  | .rcMask a => [41#6 ++ 0#5 ++ a ++ 1#16]
  | .rcUnmask a => [41#6 ++ 0#5 ++ a ++ 2#16]
  | .rcRoute a b => [41#6 ++ 0#5 ++ a ++ b ++ 3#11]
  | .evPop d => [42#6 ++ d ++ 0#21]
  | .evPeek d => [42#6 ++ d ++ 1#21]
  | .evPost d a b => [42#6 ++ d ++ a ++ b ++ 2#11]
  | .phase s => [43#6 ++ 0#15 ++ s ++ 0#8]
  | .fence s q r => [43#6 ++ 0#15 ++ s ++ q ++ r ++ 1#6]
  | .pref a b s => [43#6 ++ 0#7 ++ a ++ b ++ s ++ 2#8]
  | .discard a b s => [43#6 ++ 0#7 ++ a ++ b ++ s ++ 3#8]
  | .tsread d => [43#6 ++ d ++ 4#21]
  | .atAdd d a b s q r w => [44#6 ++ d ++ 0#2 ++ a ++ b ++ s ++ q ++ r ++ w ++ 0#5]
  | .atFadd d a b s q r => [44#6 ++ d ++ 0#2 ++ a ++ b ++ s ++ q ++ r ++ 1#6]
  | .atAnd d a b s q r w => [44#6 ++ d ++ 0#2 ++ a ++ b ++ s ++ q ++ r ++ w ++ 2#5]
  | .atOr d a b s q r w => [44#6 ++ d ++ 0#2 ++ a ++ b ++ s ++ q ++ r ++ w ++ 3#5]
  | .atXor d a b s q r w => [44#6 ++ d ++ 0#2 ++ a ++ b ++ s ++ q ++ r ++ w ++ 4#5]
  | .atMin d a b s q r w => [44#6 ++ d ++ 0#2 ++ a ++ b ++ s ++ q ++ r ++ w ++ 5#5]
  | .atMax d a b s q r w => [44#6 ++ d ++ 0#2 ++ a ++ b ++ s ++ q ++ r ++ w ++ 6#5]
  | .atMinn d a b s q r w => [44#6 ++ d ++ 0#2 ++ a ++ b ++ s ++ q ++ r ++ w ++ 7#5]
  | .atMaxn d a b s q r w => [44#6 ++ d ++ 0#2 ++ a ++ b ++ s ++ q ++ r ++ w ++ 8#5]
  | .atSwap d a b s q r w => [44#6 ++ d ++ 0#2 ++ a ++ b ++ s ++ q ++ r ++ w ++ 9#5]
  | .atCas d a b s q r w => [44#6 ++ d ++ 0#2 ++ a ++ b ++ s ++ q ++ r ++ w ++ 10#5]
  | .atInc d a b s q r w => [44#6 ++ d ++ 0#2 ++ a ++ b ++ s ++ q ++ r ++ w ++ 11#5]
  | .barInit a b s => [45#6 ++ 0#7 ++ a ++ b ++ s ++ 0#8]
  | .barArrive d a b r => [45#6 ++ d ++ 0#2 ++ a ++ b ++ 0#4 ++ r ++ 1#6]
  | .barDrop d a b r => [45#6 ++ d ++ 0#2 ++ a ++ b ++ 0#4 ++ r ++ 2#6]
  | .barExpect a b => [45#6 ++ 0#7 ++ a ++ b ++ 3#11]
  | .barWait a b q => [45#6 ++ 0#7 ++ a ++ b ++ 0#3 ++ q ++ 4#7]
  | .barTest d a b q => [45#6 ++ d ++ 0#2 ++ a ++ b ++ 0#3 ++ q ++ 5#7]
  | .snapOpen d a b s => [46#6 ++ d ++ 0#2 ++ a ++ b ++ s ++ 0#8]
  | .snapAdd d a b => [46#6 ++ d ++ 0#2 ++ a ++ b ++ 1#11]
  | .snapKeep d a => [46#6 ++ d ++ a ++ 2#16]
  | .snapDrop d a => [46#6 ++ d ++ a ++ 3#16]
  | .snapQuery d a => [46#6 ++ d ++ a ++ 4#16]
  | .tagLook d a b => [47#6 ++ d ++ a ++ 0#2 ++ b ++ 0#11]
  | .tagFill d a b => [47#6 ++ d ++ a ++ 0#2 ++ b ++ 1#11]
  | .tagEvict d a => [47#6 ++ d ++ a ++ 2#16]
  | .tagClear a => [47#6 ++ 0#5 ++ a ++ 3#16]
  | .cpyLin d a b s q r => [48#6 ++ d ++ 0#2 ++ a ++ b ++ s ++ q ++ r ++ 0#6]
  | .cpyTwo d a b s q r => [48#6 ++ d ++ 0#2 ++ a ++ b ++ s ++ q ++ r ++ 1#6]
  | .cpyGather d a b s q r => [48#6 ++ d ++ 0#2 ++ a ++ b ++ s ++ q ++ r ++ 2#6]
  | .cpyScatter d a b s q r => [48#6 ++ d ++ 0#2 ++ a ++ b ++ s ++ q ++ r ++ 3#6]
  | .cpyFill d a b s q r => [48#6 ++ d ++ 0#2 ++ a ++ b ++ s ++ q ++ r ++ 4#6]
  | .cpyWait d a => [48#6 ++ d ++ a ++ 5#16]
  | .cpyStat d a => [48#6 ++ d ++ a ++ 6#16]
  | .cbInit d a => [49#6 ++ d ++ 0#2 ++ a ++ 0#16]
  | .cbPush d a b s r => [49#6 ++ d ++ 0#2 ++ a ++ b ++ s ++ 0#1 ++ r ++ 1#6]
  | .cbPop d a b s q => [49#6 ++ d ++ 0#2 ++ a ++ b ++ s ++ q ++ 2#7]
  | .cbAvail d a => [49#6 ++ d ++ 0#2 ++ a ++ 3#16]
  | .cbRoom d a => [49#6 ++ d ++ 0#2 ++ a ++ 4#16]
  | .prsIssue d a b s q r => [50#6 ++ d ++ a ++ b ++ s ++ q ++ r ++ 0#6]
  | .prsRead d a b => [50#6 ++ d ++ a ++ b ++ 1#11]
  | .flueExp2 d a => [51#6 ++ d ++ a ++ 0#16]
  | .flueLog2 d a => [51#6 ++ d ++ a ++ 1#16]
  | .flueRcp d a => [51#6 ++ d ++ a ++ 2#16]
  | .flueRsqrt d a => [51#6 ++ d ++ a ++ 3#16]
  | .flueSqrt d a => [51#6 ++ d ++ a ++ 4#16]
  | .flueSinpi d a => [51#6 ++ d ++ a ++ 5#16]
  | .flueCospi d a => [51#6 ++ d ++ a ++ 6#16]
  | .flueTanh d a => [51#6 ++ d ++ a ++ 7#16]
  | .flueSigm d a => [51#6 ++ d ++ a ++ 8#16]
  | .rep c d a b e f g => [62#6 ++ c ++ d ++ a ++ b ++ e ++ f ++ g ++ 0#11]
  | .elemNop e => [0#7 ++ 0#16 ++ e ++ 0#8]
  | .elemAdd a b d t s e p => [1#7 ++ a ++ b ++ d ++ t ++ 0#2 ++ s ++ e ++ p]
  | .elemSub a b d t s e p => [2#7 ++ a ++ b ++ d ++ t ++ 0#2 ++ s ++ e ++ p]
  | .elemMul a b d t s e p => [3#7 ++ a ++ b ++ d ++ t ++ 0#2 ++ s ++ e ++ p]
  | .elemMulh a b d t e p => [4#7 ++ a ++ b ++ d ++ t ++ 0#3 ++ e ++ p]
  | .elemMac a b d t s e p => [5#7 ++ a ++ b ++ d ++ t ++ 0#2 ++ s ++ e ++ p]
  | .elemMin a b d t e p => [6#7 ++ a ++ b ++ d ++ t ++ 0#3 ++ e ++ p]
  | .elemMax a b d t e p => [7#7 ++ a ++ b ++ d ++ t ++ 0#3 ++ e ++ p]
  | .elemAbs a d t s e p => [8#7 ++ a ++ 0#3 ++ d ++ t ++ 0#2 ++ s ++ e ++ p]
  | .elemNeg a d t s e p => [9#7 ++ a ++ 0#3 ++ d ++ t ++ 0#2 ++ s ++ e ++ p]
  | .elemAnd a b d t e p => [10#7 ++ a ++ b ++ d ++ t ++ 0#3 ++ e ++ p]
  | .elemOr a b d t e p => [11#7 ++ a ++ b ++ d ++ t ++ 0#3 ++ e ++ p]
  | .elemXor a b d t e p => [12#7 ++ a ++ b ++ d ++ t ++ 0#3 ++ e ++ p]
  | .elemNot a d t e p => [13#7 ++ a ++ 0#3 ++ d ++ t ++ 0#3 ++ e ++ p]
  | .elemShl a b d t s e p => [14#7 ++ a ++ b ++ d ++ t ++ 0#2 ++ s ++ e ++ p]
  | .elemShr a b d t e p => [15#7 ++ a ++ b ++ d ++ t ++ 0#3 ++ e ++ p]
  | .elemSra a b d t e p => [16#7 ++ a ++ b ++ d ++ t ++ 0#3 ++ e ++ p]
  | .elemClz a d t e p => [17#7 ++ a ++ 0#3 ++ d ++ t ++ 0#3 ++ e ++ p]
  | .elemPopc a d t e p => [18#7 ++ a ++ 0#3 ++ d ++ t ++ 0#3 ++ e ++ p]
  | .elemFadd a b d t r s e p => [24#7 ++ a ++ b ++ d ++ t ++ r ++ s ++ e ++ p]
  | .elemFsub a b d t r s e p => [25#7 ++ a ++ b ++ d ++ t ++ r ++ s ++ e ++ p]
  | .elemFmul a b d t r s e p => [26#7 ++ a ++ b ++ d ++ t ++ r ++ s ++ e ++ p]
  | .elemFfma a b d t r s e p => [27#7 ++ a ++ b ++ d ++ t ++ r ++ s ++ e ++ p]
  | .elemFmin a b d t r s e p => [28#7 ++ a ++ b ++ d ++ t ++ r ++ s ++ e ++ p]
  | .elemFmax a b d t r s e p => [29#7 ++ a ++ b ++ d ++ t ++ r ++ s ++ e ++ p]
  | .elemFabs a d t r e p => [30#7 ++ a ++ 0#3 ++ d ++ t ++ r ++ 0#1 ++ e ++ p]
  | .elemFneg a d t r e p => [31#7 ++ a ++ 0#3 ++ d ++ t ++ r ++ 0#1 ++ e ++ p]
  | .elemCmpeq a b d t r s e p => [32#7 ++ a ++ b ++ d ++ t ++ r ++ s ++ e ++ p]
  | .elemCmpne a b d t r s e p => [33#7 ++ a ++ b ++ d ++ t ++ r ++ s ++ e ++ p]
  | .elemCmplt a b d t r s e p => [34#7 ++ a ++ b ++ d ++ t ++ r ++ s ++ e ++ p]
  | .elemCmple a b d t r s e p => [35#7 ++ a ++ b ++ d ++ t ++ r ++ s ++ e ++ p]
  | .elemPack a b d s e p => [36#7 ++ a ++ b ++ d ++ 36#6 ++ s ++ e ++ p]
  | .elemUnpkl a d e p => [37#7 ++ a ++ 0#3 ++ d ++ 72#7 ++ e ++ p]
  | .elemUnpkh a d e p => [38#7 ++ a ++ 0#3 ++ d ++ 72#7 ++ e ++ p]
  | .elemPass a d t r e p => [40#7 ++ a ++ 0#3 ++ d ++ t ++ r ++ 0#1 ++ e ++ p]
  | .elemDup a d t r e p => [41#7 ++ a ++ 0#3 ++ d ++ t ++ r ++ 0#1 ++ e ++ p]
  | .elemSteert a b d t r e p => [42#7 ++ a ++ b ++ d ++ t ++ r ++ 0#1 ++ e ++ p]
  | .elemSteerf a b d t r e p => [43#7 ++ a ++ b ++ d ++ t ++ r ++ 0#1 ++ e ++ p]
  | .elemMerge a b d t r e p => [44#7 ++ a ++ b ++ d ++ t ++ r ++ 0#1 ++ e ++ p]
  | .elemSelect a b d t r e p => [45#7 ++ a ++ b ++ d ++ t ++ r ++ 0#1 ++ e ++ p]
  | .elemConst a d t r e p => [48#7 ++ a ++ 0#3 ++ d ++ t ++ r ++ 0#1 ++ e ++ p]
  | .elemIter a b d t e p => [49#7 ++ a ++ b ++ d ++ t ++ 0#3 ++ e ++ p]
  | .elemCvth a d t r s e p => [56#7 ++ a ++ 0#3 ++ d ++ t ++ r ++ s ++ e ++ p]
  | .elemCvti a d t r s e p => [57#7 ++ a ++ 0#3 ++ d ++ t ++ r ++ s ++ e ++ p]
  | .elemCvtf a d t r s e p => [58#7 ++ a ++ 0#3 ++ d ++ t ++ r ++ s ++ e ++ p]
  | .elemCvts a d t r s e p => [59#7 ++ a ++ 0#3 ++ d ++ t ++ r ++ s ++ e ++ p]
  | .elemHdrGet a d e p => [60#7 ++ a ++ 0#3 ++ d ++ 16#7 ++ e ++ p]
  | .elemHdrPut a d e p => [61#7 ++ a ++ 0#3 ++ d ++ 16#7 ++ e ++ p]
  | .elemLmac a b d e p => [64#7 ++ a ++ b ++ d ++ 64#7 ++ e ++ p]
  | .elemLfin a d e p => [65#7 ++ a ++ 0#3 ++ d ++ 64#7 ++ e ++ p]
  | .bld asrc dsrc dst typ off seq pre suc first last => [72#7 ++ asrc ++ dsrc ++ dst ++ typ ++ off, seq ++ pre ++ suc ++ first ++ last]
  | .bst asrc dsrc dst typ off seq pre suc first last => [73#7 ++ asrc ++ dsrc ++ dst ++ typ ++ off, seq ++ pre ++ suc ++ first ++ last]
  | .mld asrc dsrc dst typ off seq pre suc first last => [74#7 ++ asrc ++ dsrc ++ dst ++ typ ++ off, seq ++ pre ++ suc ++ first ++ last]
  | .mst asrc dsrc dst typ off seq pre suc first last => [75#7 ++ asrc ++ dsrc ++ dst ++ typ ++ off, seq ++ pre ++ suc ++ first ++ last]
  | .matAdd asrc dsrc dst typ off seq pre suc first last => [76#7 ++ asrc ++ dsrc ++ dst ++ typ ++ off, seq ++ pre ++ suc ++ first ++ last]
  | .matFadd asrc dsrc dst typ off seq pre suc first last => [77#7 ++ asrc ++ dsrc ++ dst ++ typ ++ off, seq ++ pre ++ suc ++ first ++ last]
  | .matAnd asrc dsrc dst typ off seq pre suc first last => [78#7 ++ asrc ++ dsrc ++ dst ++ typ ++ off, seq ++ pre ++ suc ++ first ++ last]
  | .matOr asrc dsrc dst typ off seq pre suc first last => [79#7 ++ asrc ++ dsrc ++ dst ++ typ ++ off, seq ++ pre ++ suc ++ first ++ last]
  | .matMin asrc dsrc dst typ off seq pre suc first last => [80#7 ++ asrc ++ dsrc ++ dst ++ typ ++ off, seq ++ pre ++ suc ++ first ++ last]
  | .matMax asrc dsrc dst typ off seq pre suc first last => [81#7 ++ asrc ++ dsrc ++ dst ++ typ ++ off, seq ++ pre ++ suc ++ first ++ last]
  | .matSwap asrc dsrc dst typ off seq pre suc first last => [82#7 ++ asrc ++ dsrc ++ dst ++ typ ++ off, seq ++ pre ++ suc ++ first ++ last]
  | .elemBound a b d e p => [88#7 ++ a ++ b ++ d ++ 16#7 ++ e ++ p]
  | .elemErrgen a d e p => [89#7 ++ a ++ 0#3 ++ d ++ 16#7 ++ e ++ p]
  | .elemSink a t r e p => [90#7 ++ a ++ 7#6 ++ t ++ r ++ 0#1 ++ e ++ p]
  | .elemTlook a d e p => [92#7 ++ a ++ 0#3 ++ d ++ 16#7 ++ e ++ p]
  | .elemRcsend a b d t r e p => [96#7 ++ a ++ b ++ d ++ t ++ r ++ 0#1 ++ e ++ p]
  | .elemPhasen a d e p => [97#7 ++ a ++ 0#3 ++ d ++ 16#7 ++ e ++ p]
  | .elemThread a d e p => [98#7 ++ a ++ 0#3 ++ d ++ 16#7 ++ e ++ p]
  | .elemCtok a d e p => [99#7 ++ a ++ 0#3 ++ d ++ 16#7 ++ e ++ p]
  | .routerTokenHop _ _ _ _ => []
  | .actorFiringStart _ => []
  | .firingStep _ => []
  | .waveArrival _ _ _ => []
  | .tileReconfigure _ => []
  | .configLoadComplete _ _ => []
  | .configLoadRefused _ _ => []
  | .threadEnqueue _ _ => []
  | .blockSchedulerSelect _ => []
  | .memNodePerform _ _ => []
  | .memNodeReturn _ _ => []
  | .edgeReadElement _ _ => []
  | .edgeWriteCommit _ _ => []
  | .wideEngineBeat _ _ => []
  | .ringBeat _ _ => []
  | .kindleHandoff _ _ _ => []
  | .pressMma _ => []
  | .pressMmaBeat _ => []
  | .pressRead _ => []
  | .pressDrain _ => []
  | .pressDrainBeat _ => []
  | .pressZero _ => []
  | .pressLoadw _ => []
  | .flueTokenExp2 _ => []
  | .flueTokenLog2 _ => []
  | .flueTokenRcp _ => []
  | .flueTokenRsqrt _ => []
  | .flueTokenSqrt _ => []
  | .flueTokenSinpi _ => []
  | .flueTokenCospi _ => []
  | .flueTokenTanh _ => []
  | .flueTokenSigm _ => []
  | .flueTokenMalformed _ => []
  | .flueReply _ => []
  | .copyUnit _ _ => []
  | .stokerAccessComplete _ => []
  | .memorySideApply _ => []
  | .phasedWriteAtHome _ => []
  | .sweeperReturn _ _ => []
  | .phaseBoundaryComplete _ _ _ => []
  | .contextWake _ => []
  | .asyncEventTrap _ => []
  | .watchdogExpiry _ => []
  | .drainComplete _ => []
  | .drainEscalation _ => []
  | .freezeReadoutComplete _ => []
  | .relocationComplete _ => []
  | .placerServe _ => []
  | .leaseEnd _ => []
  | .launch _ _ => []
  | .indirect _ _ => []
  | .pred _ _ => []
  | .loop _ _ => []
  | .waitPacket _ _ => []
  | .waitPacketSatisfied _ _ => []
  | .waitPacketTimeout _ _ => []
  | .signal _ _ => []
  | .copyPacket _ _ => []
  | .prefetchPacket _ _ => []
  | .discardPacket _ _ => []
  | .fetchFence _ _ => []
  | .commandProcessorRestart _ => []
  | .registerWrite _ _ _ => []
  | .pcfgWrite _ _ _ => []
  | .rightsWrite _ _ _ => []
  | .dietabWrite _ _ _ => []
  | .allotWrite _ _ _ => []
  | .poolsegWrite _ _ _ => []
  | .ivcmd _ _ _ => []
  | .ivcmdDone _ => []
  | .migrateFrame _ _ _ => []
  | .lend _ _ _ => []
  | .queueEnable _ _ _ => []
  | .queueDisable _ _ _ => []
  | .queueResume _ _ _ => []
  | .qtailDoorbell _ _ _ => []
  | .cringHeadWrite _ _ _ => []
  | .hqheadWrite _ _ _ => []
  | .faultReplyResume _ _ _ => []
  | .faultReplySave _ _ _ => []
  | .faultReplyEnd _ _ _ => []
  | .dbgHaltUnit _ _ _ => []
  | .dbgResumeUnit _ _ _ => []
  | .dbgHaltLease _ _ _ => []
  | .dbgResumeLease _ _ _ => []
  | .dbgReadWord _ _ _ => []
  | .dbgWriteWord _ _ _ => []
  | .mstatFullRetrain _ _ _ => []
  | .mstatClear _ _ _ => []
  | .dcfgWrite _ _ _ => []
  | .pkgidWrite _ _ _ => []
  | .gstatEnable _ _ _ => []
  | .gstatClear _ _ _ => []
  | .connSetup _ _ _ => []
  | .connTeardown _ _ _ => []
  | .circuitSetupDone _ => []
  | .circuitTeardownDone _ => []
  | .asrcWrite _ _ _ => []
  | .mext _ _ _ => []
  | .quarantine _ _ _ => []
  | .quarantineLift _ _ _ => []
  | .ftcmd _ _ _ => []
  | .ftcmdDone => []
  | .getVersion _ _ _ => []
  | .getCapabilities _ _ _ => []
  | .negotiateAlgorithms _ _ _ => []
  | .getCertificate _ _ _ => []
  | .challenge _ _ _ => []
  | .getMeasurements _ _ _ => []
  | .spdmUnsupportedRequest _ _ _ => []
  | .seamFlitReceive _ _ _ _ => []
  | .seamReplayTimeout _ _ => []
  | .seamRetrainEnd _ _ => []
  | .goriskFlitReceive _ _ _ => []
  | .goriskRemoteRequest _ => []
  | .goriskRequestTimeout _ => []
  | .damperPeriod => []
  | .damperTick _ => []
  | .budgetPeriod => []
  | .budgetReport _ => []
  | .packageReset => []
  | .clockGlitch => []
  | .supplyGlitch => []
  | .tamperMesh => []
  | .thermalTrip _ => []
  | .goriskPortTrainingDone _ _ => []
  | .goriskReplayTimeout _ _ => []
  | .frameMigrationComplete _ => []
  | .resumeDone _ => []

/-- What carries an instruction: a control word of a stoker, an operation word or a memory node of a tile's op store, or no
word at all, for a step of a unit. -/
inductive Carrier where
  | control
  | element
  | node
  | step
deriving DecidableEq, Repr, Inhabited

/-- What carries an instruction (R56, R61, R66). -/
def Instr.carrier (i : Instr) : Carrier :=
  match i with
  | .illegal _ => .control
  | .add _ _ _ => .control
  | .sub _ _ _ => .control
  | .and _ _ _ => .control
  | .or _ _ _ => .control
  | .xor _ _ _ => .control
  | .andn _ _ _ => .control
  | .shl _ _ _ => .control
  | .shr _ _ _ => .control
  | .sra _ _ _ => .control
  | .rol _ _ _ => .control
  | .ror _ _ _ => .control
  | .slt _ _ _ => .control
  | .sltu _ _ _ => .control
  | .min _ _ _ => .control
  | .max _ _ _ => .control
  | .minu _ _ _ => .control
  | .maxu _ _ _ => .control
  | .mul _ _ _ => .control
  | .mulh _ _ _ => .control
  | .mulhu _ _ _ => .control
  | .div _ _ _ => .control
  | .divu _ _ _ => .control
  | .rem _ _ _ => .control
  | .remu _ _ _ => .control
  | .clz _ _ => .control
  | .ctz _ _ => .control
  | .popc _ _ => .control
  | .brev _ _ => .control
  | .bswap _ _ => .control
  | .sel _ _ _ _ => .control
  | .addw _ _ _ => .control
  | .subw _ _ _ => .control
  | .satadd _ _ _ => .control
  | .satsub _ _ _ => .control
  | .muladd _ _ _ _ => .control
  | .addi _ _ _ => .control
  | .andi _ _ _ => .control
  | .ori _ _ _ => .control
  | .xori _ _ _ => .control
  | .slti _ _ _ => .control
  | .sltiu _ _ _ => .control
  | .shli _ _ _ => .control
  | .shri _ _ _ => .control
  | .srai _ _ _ => .control
  | .lui _ _ => .control
  | .insh _ _ _ => .control
  | .addpc _ _ => .control
  | .beq _ _ _ => .control
  | .bne _ _ _ => .control
  | .blt _ _ _ => .control
  | .bge _ _ _ => .control
  | .bltu _ _ _ => .control
  | .bgeu _ _ _ => .control
  | .jal _ _ => .control
  | .jalr _ _ _ => .control
  | .ldb _ _ _ => .control
  | .ldbu _ _ _ => .control
  | .ldh _ _ _ => .control
  | .ldhu _ _ _ => .control
  | .ldw _ _ _ => .control
  | .ldwu _ _ _ => .control
  | .ldd _ _ _ => .control
  | .stb _ _ _ => .control
  | .sth _ _ _ => .control
  | .stw _ _ _ => .control
  | .std _ _ _ => .control
  | .fldw _ _ _ => .control
  | .fldd _ _ _ => .control
  | .fstw _ _ _ => .control
  | .fstd _ _ _ => .control
  | .amov _ _ => .control
  | .aadd _ _ _ => .control
  | .aset _ _ _ => .control
  | .agetl _ _ => .control
  | .ageth _ _ => .control
  | .acmp _ _ _ => .control
  | .aaddi _ _ _ => .control
  | .fadd _ _ _ _ => .control
  | .fsub _ _ _ _ => .control
  | .fmul _ _ _ _ => .control
  | .fdiv _ _ _ _ => .control
  | .fsqrt _ _ _ _ => .control
  | .fmin _ _ _ _ => .control
  | .fmax _ _ _ _ => .control
  | .ffma _ _ _ _ => .control
  | .ffms _ _ _ _ => .control
  | .fneg _ _ _ => .control
  | .fabs _ _ _ => .control
  | .fcpys _ _ _ _ => .control
  | .feq _ _ _ _ => .control
  | .flt _ _ _ _ => .control
  | .fle _ _ _ _ => .control
  | .fcvt _ _ _ _ _ => .control
  | .fcvti _ _ _ _ _ => .control
  | .icvtf _ _ _ _ _ => .control
  | .fmvg _ _ => .control
  | .gmvf _ _ => .control
  | .trap _ => .control
  | .csrr _ _ => .control
  | .csrw _ _ => .control
  | .csrs _ _ => .control
  | .csrc _ _ => .control
  | .cfgLoad _ _ _ => .control
  | .cfgWait _ _ => .control
  | .opw _ _ => .control
  | .sww _ _ => .control
  | .portBind _ _ _ => .control
  | .portUnbind _ _ => .control
  | .inj _ _ _ => .control
  | .ext _ _ => .control
  | .leaseDrain _ _ => .control
  | .leaseFreeze _ _ => .control
  | .leaseResume _ _ _ => .control
  | .leaseMove _ _ _ => .control
  | .sweep _ _ _ => .control
  | .ringDef _ _ _ => .control
  | .ringInj _ _ _ => .control
  | .mtWrite _ _ _ => .control
  | .mtClear _ _ => .control
  | .ringGo _ _ => .control
  | .ringStat _ _ => .control
  | .ringStop _ _ _ => .control
  | .rcSend _ _ _ => .control
  | .rcMask _ => .control
  | .rcUnmask _ => .control
  | .rcRoute _ _ => .control
  | .evPop _ => .control
  | .evPeek _ => .control
  | .evPost _ _ _ => .control
  | .phase _ => .control
  | .fence _ _ _ => .control
  | .pref _ _ _ => .control
  | .discard _ _ _ => .control
  | .tsread _ => .control
  | .atAdd _ _ _ _ _ _ _ => .control
  | .atFadd _ _ _ _ _ _ => .control
  | .atAnd _ _ _ _ _ _ _ => .control
  | .atOr _ _ _ _ _ _ _ => .control
  | .atXor _ _ _ _ _ _ _ => .control
  | .atMin _ _ _ _ _ _ _ => .control
  | .atMax _ _ _ _ _ _ _ => .control
  | .atMinn _ _ _ _ _ _ _ => .control
  | .atMaxn _ _ _ _ _ _ _ => .control
  | .atSwap _ _ _ _ _ _ _ => .control
  | .atCas _ _ _ _ _ _ _ => .control
  | .atInc _ _ _ _ _ _ _ => .control
  | .barInit _ _ _ => .control
  | .barArrive _ _ _ _ => .control
  | .barDrop _ _ _ _ => .control
  | .barExpect _ _ => .control
  | .barWait _ _ _ => .control
  | .barTest _ _ _ _ => .control
  | .snapOpen _ _ _ _ => .control
  | .snapAdd _ _ _ => .control
  | .snapKeep _ _ => .control
  | .snapDrop _ _ => .control
  | .snapQuery _ _ => .control
  | .tagLook _ _ _ => .control
  | .tagFill _ _ _ => .control
  | .tagEvict _ _ => .control
  | .tagClear _ => .control
  | .cpyLin _ _ _ _ _ _ => .control
  | .cpyTwo _ _ _ _ _ _ => .control
  | .cpyGather _ _ _ _ _ _ => .control
  | .cpyScatter _ _ _ _ _ _ => .control
  | .cpyFill _ _ _ _ _ _ => .control
  | .cpyWait _ _ => .control
  | .cpyStat _ _ => .control
  | .cbInit _ _ => .control
  | .cbPush _ _ _ _ _ => .control
  | .cbPop _ _ _ _ _ => .control
  | .cbAvail _ _ => .control
  | .cbRoom _ _ => .control
  | .prsIssue _ _ _ _ _ _ => .control
  | .prsRead _ _ _ => .control
  | .flueExp2 _ _ => .control
  | .flueLog2 _ _ => .control
  | .flueRcp _ _ => .control
  | .flueRsqrt _ _ => .control
  | .flueSqrt _ _ => .control
  | .flueSinpi _ _ => .control
  | .flueCospi _ _ => .control
  | .flueTanh _ _ => .control
  | .flueSigm _ _ => .control
  | .rep _ _ _ _ _ _ _ => .control
  | .elemNop _ => .element
  | .elemAdd _ _ _ _ _ _ _ => .element
  | .elemSub _ _ _ _ _ _ _ => .element
  | .elemMul _ _ _ _ _ _ _ => .element
  | .elemMulh _ _ _ _ _ _ => .element
  | .elemMac _ _ _ _ _ _ _ => .element
  | .elemMin _ _ _ _ _ _ => .element
  | .elemMax _ _ _ _ _ _ => .element
  | .elemAbs _ _ _ _ _ _ => .element
  | .elemNeg _ _ _ _ _ _ => .element
  | .elemAnd _ _ _ _ _ _ => .element
  | .elemOr _ _ _ _ _ _ => .element
  | .elemXor _ _ _ _ _ _ => .element
  | .elemNot _ _ _ _ _ => .element
  | .elemShl _ _ _ _ _ _ _ => .element
  | .elemShr _ _ _ _ _ _ => .element
  | .elemSra _ _ _ _ _ _ => .element
  | .elemClz _ _ _ _ _ => .element
  | .elemPopc _ _ _ _ _ => .element
  | .elemFadd _ _ _ _ _ _ _ _ => .element
  | .elemFsub _ _ _ _ _ _ _ _ => .element
  | .elemFmul _ _ _ _ _ _ _ _ => .element
  | .elemFfma _ _ _ _ _ _ _ _ => .element
  | .elemFmin _ _ _ _ _ _ _ _ => .element
  | .elemFmax _ _ _ _ _ _ _ _ => .element
  | .elemFabs _ _ _ _ _ _ => .element
  | .elemFneg _ _ _ _ _ _ => .element
  | .elemCmpeq _ _ _ _ _ _ _ _ => .element
  | .elemCmpne _ _ _ _ _ _ _ _ => .element
  | .elemCmplt _ _ _ _ _ _ _ _ => .element
  | .elemCmple _ _ _ _ _ _ _ _ => .element
  | .elemPack _ _ _ _ _ _ => .element
  | .elemUnpkl _ _ _ _ => .element
  | .elemUnpkh _ _ _ _ => .element
  | .elemPass _ _ _ _ _ _ => .element
  | .elemDup _ _ _ _ _ _ => .element
  | .elemSteert _ _ _ _ _ _ _ => .element
  | .elemSteerf _ _ _ _ _ _ _ => .element
  | .elemMerge _ _ _ _ _ _ _ => .element
  | .elemSelect _ _ _ _ _ _ _ => .element
  | .elemConst _ _ _ _ _ _ => .element
  | .elemIter _ _ _ _ _ _ => .element
  | .elemCvth _ _ _ _ _ _ _ => .element
  | .elemCvti _ _ _ _ _ _ _ => .element
  | .elemCvtf _ _ _ _ _ _ _ => .element
  | .elemCvts _ _ _ _ _ _ _ => .element
  | .elemHdrGet _ _ _ _ => .element
  | .elemHdrPut _ _ _ _ => .element
  | .elemLmac _ _ _ _ _ => .element
  | .elemLfin _ _ _ _ => .element
  | .elemBound _ _ _ _ _ => .element
  | .elemErrgen _ _ _ _ => .element
  | .elemSink _ _ _ _ _ => .element
  | .elemTlook _ _ _ _ => .element
  | .elemRcsend _ _ _ _ _ _ _ => .element
  | .elemPhasen _ _ _ _ => .element
  | .elemThread _ _ _ _ => .element
  | .elemCtok _ _ _ _ => .element
  | .bld _ _ _ _ _ _ _ _ _ _ => .node
  | .bst _ _ _ _ _ _ _ _ _ _ => .node
  | .mld _ _ _ _ _ _ _ _ _ _ => .node
  | .mst _ _ _ _ _ _ _ _ _ _ => .node
  | .matAdd _ _ _ _ _ _ _ _ _ _ => .node
  | .matFadd _ _ _ _ _ _ _ _ _ _ => .node
  | .matAnd _ _ _ _ _ _ _ _ _ _ => .node
  | .matOr _ _ _ _ _ _ _ _ _ _ => .node
  | .matMin _ _ _ _ _ _ _ _ _ _ => .node
  | .matMax _ _ _ _ _ _ _ _ _ _ => .node
  | .matSwap _ _ _ _ _ _ _ _ _ _ => .node
  | .routerTokenHop _ _ _ _ => .step
  | .actorFiringStart _ => .step
  | .firingStep _ => .step
  | .waveArrival _ _ _ => .step
  | .tileReconfigure _ => .step
  | .configLoadComplete _ _ => .step
  | .configLoadRefused _ _ => .step
  | .threadEnqueue _ _ => .step
  | .blockSchedulerSelect _ => .step
  | .memNodePerform _ _ => .step
  | .memNodeReturn _ _ => .step
  | .edgeReadElement _ _ => .step
  | .edgeWriteCommit _ _ => .step
  | .wideEngineBeat _ _ => .step
  | .ringBeat _ _ => .step
  | .kindleHandoff _ _ _ => .step
  | .pressMma _ => .step
  | .pressMmaBeat _ => .step
  | .pressRead _ => .step
  | .pressDrain _ => .step
  | .pressDrainBeat _ => .step
  | .pressZero _ => .step
  | .pressLoadw _ => .step
  | .flueTokenExp2 _ => .step
  | .flueTokenLog2 _ => .step
  | .flueTokenRcp _ => .step
  | .flueTokenRsqrt _ => .step
  | .flueTokenSqrt _ => .step
  | .flueTokenSinpi _ => .step
  | .flueTokenCospi _ => .step
  | .flueTokenTanh _ => .step
  | .flueTokenSigm _ => .step
  | .flueTokenMalformed _ => .step
  | .flueReply _ => .step
  | .copyUnit _ _ => .step
  | .stokerAccessComplete _ => .step
  | .memorySideApply _ => .step
  | .phasedWriteAtHome _ => .step
  | .sweeperReturn _ _ => .step
  | .phaseBoundaryComplete _ _ _ => .step
  | .contextWake _ => .step
  | .asyncEventTrap _ => .step
  | .watchdogExpiry _ => .step
  | .drainComplete _ => .step
  | .drainEscalation _ => .step
  | .freezeReadoutComplete _ => .step
  | .relocationComplete _ => .step
  | .placerServe _ => .step
  | .leaseEnd _ => .step
  | .launch _ _ => .step
  | .indirect _ _ => .step
  | .pred _ _ => .step
  | .loop _ _ => .step
  | .waitPacket _ _ => .step
  | .waitPacketSatisfied _ _ => .step
  | .waitPacketTimeout _ _ => .step
  | .signal _ _ => .step
  | .copyPacket _ _ => .step
  | .prefetchPacket _ _ => .step
  | .discardPacket _ _ => .step
  | .fetchFence _ _ => .step
  | .commandProcessorRestart _ => .step
  | .registerWrite _ _ _ => .step
  | .pcfgWrite _ _ _ => .step
  | .rightsWrite _ _ _ => .step
  | .dietabWrite _ _ _ => .step
  | .allotWrite _ _ _ => .step
  | .poolsegWrite _ _ _ => .step
  | .ivcmd _ _ _ => .step
  | .ivcmdDone _ => .step
  | .migrateFrame _ _ _ => .step
  | .lend _ _ _ => .step
  | .queueEnable _ _ _ => .step
  | .queueDisable _ _ _ => .step
  | .queueResume _ _ _ => .step
  | .qtailDoorbell _ _ _ => .step
  | .cringHeadWrite _ _ _ => .step
  | .hqheadWrite _ _ _ => .step
  | .faultReplyResume _ _ _ => .step
  | .faultReplySave _ _ _ => .step
  | .faultReplyEnd _ _ _ => .step
  | .dbgHaltUnit _ _ _ => .step
  | .dbgResumeUnit _ _ _ => .step
  | .dbgHaltLease _ _ _ => .step
  | .dbgResumeLease _ _ _ => .step
  | .dbgReadWord _ _ _ => .step
  | .dbgWriteWord _ _ _ => .step
  | .mstatFullRetrain _ _ _ => .step
  | .mstatClear _ _ _ => .step
  | .dcfgWrite _ _ _ => .step
  | .pkgidWrite _ _ _ => .step
  | .gstatEnable _ _ _ => .step
  | .gstatClear _ _ _ => .step
  | .connSetup _ _ _ => .step
  | .connTeardown _ _ _ => .step
  | .circuitSetupDone _ => .step
  | .circuitTeardownDone _ => .step
  | .asrcWrite _ _ _ => .step
  | .mext _ _ _ => .step
  | .quarantine _ _ _ => .step
  | .quarantineLift _ _ _ => .step
  | .ftcmd _ _ _ => .step
  | .ftcmdDone => .step
  | .getVersion _ _ _ => .step
  | .getCapabilities _ _ _ => .step
  | .negotiateAlgorithms _ _ _ => .step
  | .getCertificate _ _ _ => .step
  | .challenge _ _ _ => .step
  | .getMeasurements _ _ _ => .step
  | .spdmUnsupportedRequest _ _ _ => .step
  | .seamFlitReceive _ _ _ _ => .step
  | .seamReplayTimeout _ _ => .step
  | .seamRetrainEnd _ _ => .step
  | .goriskFlitReceive _ _ _ => .step
  | .goriskRemoteRequest _ => .step
  | .goriskRequestTimeout _ => .step
  | .damperPeriod => .step
  | .damperTick _ => .step
  | .budgetPeriod => .step
  | .budgetReport _ => .step
  | .packageReset => .step
  | .clockGlitch => .step
  | .supplyGlitch => .step
  | .tamperMesh => .step
  | .thermalTrip _ => .step
  | .goriskPortTrainingDone _ _ => .step
  | .goriskReplayTimeout _ _ => .step
  | .frameMigrationComplete _ => .step
  | .resumeDone _ => .step
  | .eret => .control
  | .wfe => .control
  | .halt => .control
  | .brk => .control
  | .ifence => .control

/-! ### One word of the opcode table -/

/-- An answer as an option. -/
def Decoded.opt (d : Decoded) : Option Instr :=
  match d with
  | .ok i => some i
  | .error _ => none

/-- Whether a control reading is the ILLEGAL of major 0x00. -/
def Decode.isIllegal (d : Decoded) : Bool :=
  match d with
  | .ok (.illegal _) => true
  | .ok _ => false
  | .error _ => true

/-- The instruction read from the bits of a table row (log entry 9): a control word, or an operation word where the
control set holds no instruction but ILLEGAL. The table gives the memory nodes no bits. -/
def decodeTableWord (nbits w : Nat) : Option Instr :=
  let bs := wordBytes (BitVec.ofNat 32 (w % 2 ^ nbits))
  let c := (decodeBytes bs).map (fun x => x.1)
  if Decode.isIllegal c then
    match (decodeElemBytes bs).map (fun x => x.1) with
    | .ok i => some i
    | .error _ => Decoded.opt c
  else Decoded.opt c

end Sys2Proof
end

