-- ==== Sys2Proof/Machine/Node.lean ====
section
/-! DEFINITION. Memory nodes: a node's step in its lane, bank accesses (08 R275, R276), accesses at the edge interface in
wave order (08 R277 to R279), and the return of their values. -/

namespace Sys2Proof.Machine

/-- A memory node's two words (R66). -/
structure NW where
  opc : Nat := 0
  asrc : Nat := 0
  dsrc : Nat := 0
  dst : Nat := 0
  ty : Nat := 0
  off : Nat := 0
  seq : Nat := 0
  pred : Nat := 1023
  succ : Nat := 1023
  first : Bool := false
  last : Bool := false
deriving DecidableEq, Repr, Inhabited

def NW.of (w0 w1 : Code) : NW :=
  { opc := w0.fld 25 7, asrc := w0.fld 22 3, dsrc := w0.fld 19 3, dst := w0.fld 16 3, ty := w0.fld 12 4,
    off := w0.fld 0 12, seq := w1.fld 22 10, pred := w1.fld 12 10, succ := w1.fld 2 10, first := w1.fld 1 1 == 1,
    last := w1.fld 0 1 == 1 }

/-- BLD and MLD read no data operand (R66). -/
def NW.load (n : NW) : Bool := n.opc == 0x48 || n.opc == 0x4A
/-- Nodes that return a value into the latch: BLD, MLD and the MAT forms (R275). -/
def NW.returns (n : NW) : Bool := n.opc != 0x49 && n.opc != 0x4B

/-- R275: the bytes of an element. -/
def elemSize (t : Nat) : Nat := tyWidth t / 8

/-- Where an element stands from a base: its first byte, its bytes, and the bit its code starts at (R79, R275). -/
structure ElemAt where
  off : Nat := 0
  n : Nat := 1
  bit : Nat := 0
deriving DecidableEq, Repr, Inhabited

def elemAt (t e : Nat) : ElemAt :=
  if t = 8 then
    let b := 6 * (e % 16)
    { off := 12 * (e / 16) + b / 8, n := (b + 5) / 8 - b / 8 + 1, bit := b % 8 }
  else { off := e * elemSize t, n := elemSize t, bit := 0 }

/-- The lane value of an element from the bytes that hold it. -/
def elemVal (t : Nat) (x : ElemAt) (raw : Nat) : Code := laneExt t (raw / 2 ^ x.bit)

/-- The mask and the value of a store of an element over its bytes. -/
def elemMask (t : Nat) (x : ElemAt) : Nat := (2 ^ tyWidth t - 1) * 2 ^ x.bit
def elemBits (t : Nat) (x : ElemAt) (v : Code) : Nat := v.toNat % 2 ^ tyWidth t * 2 ^ x.bit

/-- Bytes of a memory with the masked bits replaced. -/
def Memory.mergeN (m : Memory) (a n mask val : Nat) : Memory :=
  let old := m.readN a n
  m.writeN a n ((old &&& ((2 ^ (8 * n) - 1) ^^^ mask)) ||| (val &&& mask))

/-- R15, R237: a bank write through a lane sets d in the slot of each byte, at the end of the fc. -/
def setDirty (s : State) (k a : Nat) : Nat → State
  | 0 => s
  | n + 1 => setDirty { s with dues := s.dues ++ [.stored k ((a + n) / 256)] } k a n

/-- The operands of a node when no access is made: an error, a bubble, or EOS on an operand. -/
def nodeNone (ops : List Opd) : Option Lane :=
  match firstErr ops with
  | some p => some (some (errTok p))
  | none => if ops.contains .bub then some none else if ops.contains .eos then some (some eosTok) else none

/-- R275: a value that returns to a lane goes to the latch and to dst. -/
def nodeDeliver (s : State) (n : NW) (r : Lane) : State :=
  let f := firingOf s
  let s1 := match r with
    | some x => if n.returns && x.kind != 2 && x.kind != 3 then setLatch s f.lane x.pay else s
    | none => s
  deliver s1 n.dst (n.off / 8 % 8) r

/-- R276: BLD and BST. -/
def bankNode (s : State) (n : NW) (a d : Opd) : State :=
  match nodeNone (if n.load then [a] else [a, d]) with
  | some r => nodeDeliver s n r
  | none =>
    let x := elemAt n.ty (a.pay.toNat + n.off)
    if 65536 < x.off + x.n then nodeDeliver s n (some (mkErr s 0x02))
    else if n.load then nodeDeliver s n (some (dataTok (elemVal n.ty x (s.ct.bank.readN x.off x.n))))
    else
      let s1 := s.modT (fun t => { t with bank := t.bank.mergeN x.off x.n (elemMask n.ty x) (elemBits n.ty x d.pay) })
      nodeDeliver (setDirty s1 s.cur.tile x.off x.n) n (some (dataTok 0))

/-- R278: where a lease counts the instances of a sequence number of a kernel. -/
def waveKey (kern seq : Nat) : Nat := kern * 1024 + seq

/-- Whether a lease declares the stream port of a lane (R82, R277). A node of a lane without one is held at the edge interface as it is
sent, and what it gives is at its tile as it is performed: there is no interface to go to. -/
def hasPort (s : State) (l lane : Nat) : Bool := (s.lease l).image.ports.any (fun r => r.name == lane)

/-- R277, R278: a node's access sets out for the edge interface of its port. -/
def edgeNode (s : State) (n : NW) (a d : Opd) : State :=
  let k := s.cur.tile
  let f := firingOf s
  let l := s.ct.lease.getD 0
  let le := s.lease l
  let none_ := nodeNone (if n.load then [a] else [a, d])
  let null := a.pay == 0xFFFFFFFF
  let q : NodeReq :=
    { tile := k, lane := f.lane, step := f.step, actor := f.actor, count := elemCount s, opc := n.opc, typ := n.ty,
      dst := n.dst, reg := n.off / 8 % 8, seq := n.seq, pred := n.pred, succ := n.succ, first := n.first, last := n.last,
      kern := s.ct.kern, inst := Tbl.get 0 le.fired (waveKey s.ct.kern n.seq)
      addr := if none_.isSome || null then none else some (a.pay.toNat + n.off)
      reply := none_.getD (some (dataTok 0))
      data := d.pay, tid := f.tid, id := le.nodeN, pos := if hasPort s l f.lane then .tile else .edge }
  let s1 := s.modLease l (fun x =>
    { x with nodes := x.nodes ++ [q], nodeN := x.nodeN + 1, fired := Tbl.set 0 x.fired (waveKey q.kern n.seq) (q.inst + 1) })
  s1.modT (fun t =>
    let o1 := if n.returns then Tbl.set 0 t.nodeOut f.lane (Tbl.get 0 t.nodeOut f.lane + 1) else t.nodeOut
    let o2 := if 2 ≤ n.dst && n.dst ≤ 5 then Tbl.set 0 o1 (14 + n.dst) (Tbl.get 0 o1 (14 + n.dst) + 1) else o1
    { t with nodeOut := o2 })

/-- R66: a memory node in its lane: operands are read, the access is made or sent, and the chain passes unchanged. -/
def nodeRun (n : NW) (s : State) : State :=
  let ch := (firingOf s).chain
  let imm : Code := (BitVec.ofNat 8 n.off).signExtend 32
  let ra := readSrc s n.asrc (n.off % 8) imm
  let rd := if n.load then (ra.1, Opd.bub) else readSrc ra.1 n.dsrc (n.off % 8) imm
  let s1 := if n.opc ≤ 0x49 then bankNode rd.1 n ra.2 rd.2 else edgeNode rd.1 n ra.2 rd.2
  laneDone s1 ch

/-! ### The edge interface (R277 to R279) -/

/-- The nodes of a kernel that its waves order: those of the tiles that hold its configuration, but for BLD and BST (R277, R278). -/
def kernNodes (s : State) (l kern : Nat) : List NW :=
  ((leaseTiles s l).filter (fun k => (s.tile k).kern == kern)).flatMap (fun k =>
    let t := s.tile k
    (List.range 8).flatMap (fun i => ((t.actorWords i).filter (fun x => isNodeWord x.2.2 && 0x4A ≤ x.2.2.fld 25 7)).map (fun x =>
      NW.of x.2.2 (t.op (x.1 + 1) x.2.1))))

/-- The last sequence number of the wave that a node stands in. -/
def waveLast (ns : List NW) (seq succ : Nat) (last : Bool) : Nat → Nat
  | 0 => seq
  | f + 1 =>
    if last then seq
    else match ns.find? (fun n => n.seq == succ) with
      | some n => waveLast ns n.seq n.succ n.last f
      | none => seq

/-- R278: whether a node's instance may be performed. One that names no pred waits for none. -/
def nodeDue (s : State) (l : Nat) (q : NodeReq) : Bool :=
  let dn (x : Nat) : Nat := Tbl.get 0 (s.lease l).done (waveKey q.kern x)
  if q.gone then true
  else if q.first then q.inst ≤ dn (waveLast (kernNodes s l q.kern) q.seq q.succ q.last 1024)
  else q.pred = 1023 || q.inst < dn q.pred

/-- R35, R277: translates through an engine's extents, which are filled on a miss; 8 are held. -/
def translateEng (s : State) (l port va : Nat) : Except Nat (State × TlbEnt) :=
  let e := Tbl.get {} (s.lease l).engines port
  match tlbFind e.exts l va with
  | some x => .ok (s, x)
  | none =>
    match translate s (s.lease l).part l va with
    | .error c => .error c
    | .ok x =>
      let e1 := { e with exts := (if 8 ≤ e.exts.length then e.exts.drop 1 else e.exts) ++ [x] }
      .ok (s.modLease l (fun y => { y with engines := Tbl.set {} y.engines port e1 }), x)

/-- The atomic of a MAT opcode (R279). -/
def matFn (opc : Nat) : Nat :=
  match opc with
  | 0x4C => 0x00
  | 0x4D => 0x01
  | 0x4E => 0x02
  | 0x4F => 0x03
  | 0x50 => 0x05
  | 0x51 => 0x06
  | _ => 0x09

/-- The access of a node at its VA: the state, and the value for its dst; or a fault code. -/
def nodeAccess (s : State) (l : Nat) (q : NodeReq) (va : Nat) (x : ElemAt) : Except Nat (State × Code) :=
  let w : Who := { lease := l, agent := .tile q.tile }
  let tr := fun s va => translateEng s l q.lane va
  if q.opc = 0x4A then (agentReadAcross tr s w va x.n).map (fun g => (g.counted l, elemVal q.typ x g.val))
  else if q.opc = 0x4B then
    (agentWriteAcross tr s w va x.n (elemMask q.typ x) (elemBits q.typ x q.data)).map (fun g => (g.1, 0))
  else match tr s va with
    | .error c => .error c
    | .ok (s1, e) =>
      match pageCheck s1 w va e { r := true, w := true, ms := true, noProof := true, noSys := true } with
      | .error c => .error c
      | .ok pa =>
        if agentWaits s1 w pa e.attr then .error heldCode
        else
          let s2 := countAccess s1 l pa false
          let m := s2.mem.readN pa 4
          let v := atomNew (matFn q.opc) 4 m q.data.toNat 0
          .ok ({ s2 with mem := s2.mem.writeN pa 4 v }, BitVec.ofNat 32 m)

/-- Replaces a node request of a lease. -/
def setNode (s : State) (l i : Nat) (q : NodeReq) : State :=
  s.modLease l (fun x => { x with nodes := x.nodes.set i q })

/-- A node performed, with what it gives. -/
def nodeDone (s : State) (l i : Nat) (q : NodeReq) (r : Lane) : State :=
  (setNode s l i { q with st := .performed r, pos := if hasPort s l q.lane then q.pos else .home }).modLease l (fun x =>
    { x with done := Tbl.set 0 x.done (waveKey q.kern q.seq) (Tbl.get 0 x.done (waveKey q.kern q.seq) + 1), prog := 0 })

/-- R279: a fault holds the access; its record goes to the owning level. A frame-tag refusal freezes the region (R360), and the access
is made again when it goes on. -/
def nodeHold (s : State) (l i : Nat) (q : NodeReq) (code va : Nat) : State :=
  let r : FRec := { tileRec s q.tile code with
    lane := q.lane, step := q.step, actor := q.actor, atag := dTag ((s.tile q.tile).desc q.actor), lease := l,
    wseq := q.seq, va, tid := q.tid }
  if code = 0x08 then lateFault (tagAlarm s l va (tlbFind (Tbl.get {} (s.lease l).engines q.lane).exts l va).isSome) r
  else openFault (setNode s l i { q with st := .held code }) r (.node q.tile q.lane q.step)

/-- R277, R278. Performs node access i of a lease, in wave order. -/
def nodePerform (s : State) (l i : Nat) : State :=
  match (s.lease l).nodes[i]? with
  | none => s
  | some q =>
    if q.st ≠ .waiting || !leaseLive s l || !nodeDue s l q then s
    else match q.addr with
      | none => nodeDone s l i q q.reply
      | some e =>
        let en := Tbl.get {} (s.lease l).engines q.lane
        let x := elemAt q.typ e
        let va := (en.base + x.off) % 2 ^ 80
        if !en.bound then nodeHold s l i q 0x04 va
        else if en.host.isSome then nodeHold s l i q 0x07 va
        else if q.typ ≠ 8 && va % x.n ≠ 0 then
          nodeDone s l i q (some (errTok (BitVec.ofNat 32 (0x03 * 2 ^ 24 + q.count % 2 ^ 24))))
        else match nodeAccess s l q va x with
          | .error c => if c = heldCode then s else nodeHold s l i q c va
          | .ok (s1, v) =>
            nodeDone s1 l i q (some (dataTok (if q.opc = 0x4B then 0 else v)))

/-- R275: what performed node i gives goes to its tile, unless that has a new configuration by now (R285). -/
def nodeBack (s : State) (l i : Nat) : State :=
  match (s.lease l).nodes[i]? with
  | none => s
  | some q =>
    match q.st with
    | .performed r =>
      if q.gone then s.modLease l (fun x => { x with nodes := x.nodes.eraseIdx i })
      else
        let s1 := s.modLease l (fun x => { x with nodes := x.nodes.eraseIdx i })
        let plain := match r with
          | some x => x.kind != 2 && x.kind != 3
          | none => false
        let pay : Code := match r with
          | some x => x.pay
          | none => 0
        let ret := q.opc != 0x4B
        s1.modTile q.tile (fun t =>
          let t1 := if ret && plain || (q.dst = 6 && plain) then { t with latch := Tbl.set 0 t.latch q.lane pay } else t
          let t2 := if q.dst = 1 && plain then { t1 with kreg := Tbl.set 0 t1.kreg (q.lane * 8 + q.reg) pay } else t1
          let t3 := if 2 ≤ q.dst && q.dst ≤ 5 then
            let t3 : Tile := { t2 with nodeOut := Tbl.set 0 t2.nodeOut (14 + q.dst) (Tbl.get 0 t2.nodeOut (14 + q.dst) - 1) }
            match r with
            | some x => t3.setOq (q.dst - 2) (t3.oq (q.dst - 2) ++ [x])
            | none => t3
            else t2
          let t4 : Tile := if ret then { t3 with nodeOut := Tbl.set 0 t3.nodeOut q.lane (Tbl.get 0 t3.nodeOut q.lane - 1) } else t3
          t4.note)
    | _ => s

/-- Whether the tiles of a lease are in the array with their state: it is neither saved nor being written back. -/
def Lease.placed (x : Lease) : Bool := x.live || x.stopping

/-- R275: the value of node i, whose reply has come to its tile, returns to its lane, oldest first for one lane; one of a lease out of the
array stays in its image (R284). -/
def nodeReturn (s : State) (l i : Nat) : State :=
  let ns := (s.lease l).nodes
  match ns[i]? with
  | none => s
  | some q =>
    if q.pos ≠ .home || !(s.lease l).placed || (!q.gone && (ns.take i).any (fun x => x.tile == q.tile && x.lane == q.lane && !x.gone)) then s
    else nodeBack s l i

/-- The node accesses of a kind that are on their way are made, in n passes. -/
def performNodes (s : State) (l : Nat) (which : NodeReq → Bool) : Nat → State
  | 0 => s
  | n + 1 =>
    performNodes ((List.range (s.lease l).nodes.length).foldl (fun s i =>
      if (((s.lease l).nodes[i]?).map which).getD false then nodePerform s l i else s) s) l which n

/-- R278. The edge interface performs a node access in wave order. -/
def execMemNodePerform (lease idx : Nat) (s : State) : Out :=
  .next (if ((s.lease lease).nodes[idx]?).map (fun q => q.pos) = some .edge then nodePerform s lease idx else s)
/-- R279. A performed node access returns to its tile. -/
def execMemNodeReturn (lease idx : Nat) (s : State) : Out := .next (nodeReturn s lease idx)

/-- A node from its fields. -/
def nodeOf (opc : Nat) (asrc dsrc dst : BitVec 3) (typ : BitVec 4) (off : BitVec 12) (seq pre suc : BitVec 10)
    (first last : BitVec 1) : NW :=
  { opc, asrc := asrc.toNat, dsrc := dsrc.toNat, dst := dst.toNat, ty := typ.toNat, off := off.toNat, seq := seq.toNat,
    pred := pre.toNat, succ := suc.toNat, first := first == 1, last := last == 1 }

/-- R276. Memory node loading an element from the tile bank. -/
def execBld (asrc dsrc dst : BitVec 3) (typ : BitVec 4) (off : BitVec 12) (seq pre suc : BitVec 10)
    (first last : BitVec 1) (s : State) : Out :=
  .next (inFiring s (nodeRun (nodeOf 0x48 asrc dsrc dst typ off seq pre suc first last)))
/-- R276. Memory node storing an element to the tile bank. -/
def execBst (asrc dsrc dst : BitVec 3) (typ : BitVec 4) (off : BitVec 12) (seq pre suc : BitVec 10)
    (first last : BitVec 1) (s : State) : Out :=
  .next (inFiring s (nodeRun (nodeOf 0x49 asrc dsrc dst typ off seq pre suc first last)))
/-- R277. Memory node loading through the lane's stream port. -/
def execMld (asrc dsrc dst : BitVec 3) (typ : BitVec 4) (off : BitVec 12) (seq pre suc : BitVec 10)
    (first last : BitVec 1) (s : State) : Out :=
  .next (inFiring s (nodeRun (nodeOf 0x4A asrc dsrc dst typ off seq pre suc first last)))
/-- R277. Memory node storing through the lane's stream port. -/
def execMst (asrc dsrc dst : BitVec 3) (typ : BitVec 4) (off : BitVec 12) (seq pre suc : BitVec 10)
    (first last : BitVec 1) (s : State) : Out :=
  .next (inFiring s (nodeRun (nodeOf 0x4B asrc dsrc dst typ off seq pre suc first last)))
/-- R279. Memory node atomic I32 add. -/
def execMatAdd (asrc dsrc dst : BitVec 3) (typ : BitVec 4) (off : BitVec 12) (seq pre suc : BitVec 10)
    (first last : BitVec 1) (s : State) : Out :=
  .next (inFiring s (nodeRun (nodeOf 0x4C asrc dsrc dst typ off seq pre suc first last)))
/-- R279. Memory node atomic FP32 add. -/
def execMatFadd (asrc dsrc dst : BitVec 3) (typ : BitVec 4) (off : BitVec 12) (seq pre suc : BitVec 10)
    (first last : BitVec 1) (s : State) : Out :=
  .next (inFiring s (nodeRun (nodeOf 0x4D asrc dsrc dst typ off seq pre suc first last)))
/-- R279. Memory node atomic AND. -/
def execMatAnd (asrc dsrc dst : BitVec 3) (typ : BitVec 4) (off : BitVec 12) (seq pre suc : BitVec 10)
    (first last : BitVec 1) (s : State) : Out :=
  .next (inFiring s (nodeRun (nodeOf 0x4E asrc dsrc dst typ off seq pre suc first last)))
/-- R279. Memory node atomic OR. -/
def execMatOr (asrc dsrc dst : BitVec 3) (typ : BitVec 4) (off : BitVec 12) (seq pre suc : BitVec 10)
    (first last : BitVec 1) (s : State) : Out :=
  .next (inFiring s (nodeRun (nodeOf 0x4F asrc dsrc dst typ off seq pre suc first last)))
/-- R279. Memory node atomic minimum. -/
def execMatMin (asrc dsrc dst : BitVec 3) (typ : BitVec 4) (off : BitVec 12) (seq pre suc : BitVec 10)
    (first last : BitVec 1) (s : State) : Out :=
  .next (inFiring s (nodeRun (nodeOf 0x50 asrc dsrc dst typ off seq pre suc first last)))
/-- R279. Memory node atomic maximum. -/
def execMatMax (asrc dsrc dst : BitVec 3) (typ : BitVec 4) (off : BitVec 12) (seq pre suc : BitVec 10)
    (first last : BitVec 1) (s : State) : Out :=
  .next (inFiring s (nodeRun (nodeOf 0x51 asrc dsrc dst typ off seq pre suc first last)))
/-- R279. Memory node atomic swap. -/
def execMatSwap (asrc dsrc dst : BitVec 3) (typ : BitVec 4) (off : BitVec 12) (seq pre suc : BitVec 10)
    (first last : BitVec 1) (s : State) : Out :=
  .next (inFiring s (nodeRun (nodeOf 0x52 asrc dsrc dst typ off seq pre suc first last)))

end Sys2Proof.Machine
end

