-- ==== Sys2Proof/Machine/Ports.lean ====
section
/-! DEFINITION. Stream ports: the engines at the rectangle edges and of the wide ports (01 R34, R35, 06 R178 to R180, 08 R289, R290, 10 R337, R339, 14 R443 to R446). -/

namespace Sys2Proof.Machine

/-! ### Stream descriptors and positions (R34, R82, R178) -/

/-- The port record of a port number. -/
def portRec (s : State) (l p : Nat) : Option PortRec := (s.lease l).image.ports.find? (fun r => r.name == p)

def eng (s : State) (l p : Nat) : Engine := Tbl.get {} (s.lease l).engines p
def setEng (s : State) (l p : Nat) (e : Engine) : State :=
  s.modLease l (fun x => { x with engines := Tbl.set {} x.engines p e })

/-- The tile of a port record in the placement, and the router port it feeds or takes from; 8 is a wide port. -/
def portTile (s : State) (l : Nat) (r : PortRec) : Option Nat :=
  match (s.lease l).image.rects[r.rect]? with
  | none => none
  | some q =>
    match r.edge with
    | 0 => rectTile s l r.rect 0 r.pos
    | 1 => rectTile s l r.rect r.pos (q.cols - 1)
    | 2 => rectTile s l r.rect (q.rows - 1) r.pos
    | 3 => rectTile s l r.rect r.pos 0
    | _ => rectTile s l r.rect r.row r.col

def PortRec.side (r : PortRec) : Nat := if r.edge = 4 then 8 else r.edge

/-- The context of a lease in the block of a tile (R445). -/
def blockCtx (s : State) (l k : Nat) : Nat :=
  ((leaseCtxs s l).find? (fun c => c / 8 == tileStoker k)).getD ((leaseCtxs s l).headD 0)

def dWord (d : List Word) (i : Nat) : Nat := (d.getD i 0).toNat
def dHost (d : List Word) : Bool := bits (dWord d 1) 17 1 == 1

/-- R178: whether a zero field of a stream descriptor is not zero. -/
def descBad (d : List Word) : Bool :=
  bits (dWord d 1) 18 46 != 0 || bits (dWord d 4) 32 32 != 0
    || (List.range 4).any (fun i => bits (dWord d (5 + i)) 48 16 != 0) || (dHost d && bits (dWord d 1) 0 16 != 0)

/-- R178, R179: whether a descriptor names a host endpoint that was not attached at launch. -/
def descNoHost (s : State) (l : Nat) (d : List Word) : Bool :=
  dHost d && (s.lease l).endpoints.length ≤ bits (dWord d 0) 0 16

/-- The engine that a descriptor describes. -/
def engOf (d : List Word) : Engine :=
  { bound := true, st := .running
    base := if dHost d then 0 else dWord d 0 + bits (dWord d 1) 0 16 * 2 ^ 64
    host := if dHost d then some (bits (dWord d 0) 0 16) else none
    dir := bits (dWord d 1) 16 1 == 1
    ext := [bits (dWord d 2) 0 32 + 1, bits (dWord d 2) 32 32 + 1, bits (dWord d 3) 0 32 + 1, bits (dWord d 3) 32 32 + 1,
            bits (dWord d 4) 0 32 + 1]
    stride := (List.range 4).map (fun i => signed 48 (bits (dWord d (5 + i)) 0 48))
    fmt := 15 }

/-- The elements of an iteration. -/
def Engine.total (e : Engine) : Nat := e.ext.foldl (fun a x => a * x) 1

/-- The iterator position of element n, innermost first. -/
def posOf : List Nat → Nat → List Nat
  | [], _ => []
  | x :: r, n => n % x :: posOf r (n / x)

/-- The byte offset of element n from the base, its bytes and the bit its code starts at. -/
def Engine.place (e : Engine) (fmt n : Nat) : Int × ElemAt :=
  let p := posOf e.ext n
  let x := elemAt fmt (p.headD 0)
  ((e.stride.zip (p.drop 1)).foldl (fun (a : Int) q => a + q.1 * q.2) 0 + x.off, x)

def Engine.va (e : Engine) (fmt n : Nat) : Nat := ((e.base + (e.place fmt n).1) % (2 ^ 80 : Nat)).toNat

/-- The committed index as the architecture has it (R179). -/
def Engine.index (e : Engine) : Nat := if e.committed = 0 then 2 ^ 48 - 1 else (e.committed - 1) % 2 ^ 48

/-- Bytes of a block of a format (R90). -/
def blockBytes (fmt geom : Nat) : Nat := if fmt = 8 then 32 * 2 ^ geom * 12 / 16 else 32 * 2 ^ geom * elemSize fmt

/-- R90: the formats whose pages have a scale area. -/
def scaledFmt (fmt : Nat) : Bool := fmt == 6 || fmt == 7 || fmt == 8

/-- R339: the poison value of a format. -/
def poison (fmt : Nat) : Nat :=
  match fmt with
  | 0 => 0x80
  | 1 => 0x8000
  | 2 => 0x80000000
  | 3 => 0xFFFF
  | 10 => 0xFF
  | 4 => 0x7FC0
  | 5 => 0x7FC00000
  | 6 => 0x7F
  | 7 => 0x7E
  | 8 => 0x30
  | _ => 0x80008000

/-! ### Binding (R179) -/

/-- The pages mapped from a VA upward, at most n, up to the first unmapped one. -/
def patch (s : State) (l va : Nat) : Nat → List TlbEnt
  | 0 => []
  | n + 1 =>
    match translate s (s.lease l).part l (va % 2 ^ 80) with
    | .error _ => []
    | .ok x => x :: patch s l (x.va + x.size) n

/-- R179: the engine bound to a descriptor that has passed the checks. Tokens already at the edge stay there. -/
def bindEng (s : State) (l p k : Nat) (d : List Word) : State :=
  match portRec s l p with
  | none => s
  | some r =>
    let old := eng s l p
    let e := engOf d
    let ep : Option Endpoint := e.host.bind (fun i => (s.lease l).endpoints[i]?)
    let xs := if e.host.isSome then [] else patch s l e.base 8
    let fg : Nat × Nat := match ep, xs with
      | some h, _ => (h.fmt, h.blk)
      | none, x :: _ => (x.attr.fmt, x.attr.blk)
      | none, [] => (15, 0)
    setEng s l p { e with
      ctx := k, exts := xs, fmt := fg.1, geom := fg.2, tile := (portTile s l r).getD 0, side := r.side,
      inbuf := old.inbuf, eosDue := old.eosDue, who := old.who, rel := old.rel, wl := old.wl }

/-! ### Faults of engines (R35, R363) -/

def engFault (s : State) (l p code n va : Nat) : State :=
  let e := eng s l p
  let r : FRec :=
    { code, level := codeLevel code, die := tileDie e.tile, row := tileRow e.tile, col := tileCol e.tile, lane := p % 8,
      step := p / 8, edge := true, lease := l, index := n, va }
  if code = 0x08 then lateFault (tagAlarm s l va (tlbFind e.exts l va).isSome) r
  else openFault (setEng s l p { e with st := .faulted }) r (.engine p)

/-- R180: an engine has delivered or committed its last element. -/
def engFinish (s : State) (l p : Nat) : State :=
  let e := eng s l p
  postEvent (setEng s l p { e with st := .finished }) e.ctx (evWord 0x0B 0 p 0 e.index)

/-- Room in the channel of an edge tile that a read engine feeds. -/
def edgeRoom (s : State) (e : Engine) (n : Nat) : Bool :=
  (s.tile e.tile).chan (chanKey e.side 0 0) |>.length |> (fun x => x + n ≤ chanCap)

/-- Tokens into that channel. -/
def edgePush (s : State) (l : Nat) (e : Engine) (ts : List Token) : State :=
  s.modTile e.tile (fun t =>
    t.setChan (chanKey e.side 0 0) (t.chan (chanKey e.side 0 0) ++ ts.map (fun x => { tok := x, lease := l })))

/-! ### Elements of a read engine (R35, R90, R446) -/

/-- The agent of an engine's elements: its edge tile (R337), or the context whose DRAIN the beat belongs to (R338). -/
def engWho (l : Nat) (e : Engine) : Who :=
  { lease := l, agent := match e.who with
    | some k => .ctx k
    | none => .tile e.tile }

/-- A read of n bytes by an engine. -/
def engRead (s : State) (l p : Nat) (w : Who) (va n : Nat) : Except Nat Got :=
  agentReadAcross (fun s va => translateEng s l p va) s w va n

/-- The page of an element, whose format and geometry must be the engine's (R179). -/
def engPage (s : State) (l p va : Nat) : Except Nat (State × TlbEnt) :=
  match translateEng s l p va with
  | .error c => .error c
  | .ok (s1, x) =>
    let e := eng s1 l p
    if e.fmt = 15 then .ok (setEng s1 l p { e with fmt := x.attr.fmt, geom := x.attr.blk }, x)
    else if x.attr.fmt ≠ e.fmt || x.attr.blk ≠ e.geom then .error 0x04
    else .ok (s1, x)

/-- An element read: its value, the block it lies in (an identity and a number), whether that block holds the engine's
last element, and the page base and soff for its scale. -/
structure Elem where
  st : State
  val : Code
  blk : Nat
  no : Nat
  lot : Bool
  scale : Option Nat

/-- The block number of a byte of a page or endpoint (R90). -/
def blockNo (fmt geom off : Nat) : Nat := off / blockBytes fmt geom

/-- Reads element n of a read engine. -/
def readElem (s : State) (l p n : Nat) : Except Nat Elem :=
  let e := eng s l p
  let w := engWho l { e with who := none }
  let last := e.total - 1
  match e.host with
  | some i =>
    match (s.lease l).endpoints[i]? with
    | none => .error 0x07
    | some h =>
      let q := e.place e.fmt n
      if q.1 < 0 || (h.bytes : Int) < q.1 + q.2.n then .error 0x07
      else
        let j := blockNo e.fmt e.geom q.1.toNat
        .ok { st := s, val := elemVal e.fmt q.2 (s.host.readN (h.ha + q.1.toNat) q.2.n), blk := j, no := j
              lot := blockNo e.fmt e.geom (e.place e.fmt last).1.toNat == j, scale := none }
  | none =>
    let fmt0 := if e.fmt = 15 then 0 else e.fmt
    match engPage s l p (e.va fmt0 n) with
    | .error c => .error c
    | .ok (s1, x) =>
      let e1 := eng s1 l p
      let va := e1.va e1.fmt n
      let q := (e1.place e1.fmt n).2
      match engRead s1 l p w va q.n with
      | .error c => .error c
      | .ok g =>
        let j := blockNo e1.fmt e1.geom (va - x.va)
        let lv := e1.va e1.fmt last
        .ok { st := g.counted l, val := elemVal e1.fmt q g.val, blk := x.va + j, no := j
              lot := x.va ≤ lv && lv < x.va + x.size && blockNo e1.fmt e1.geom (lv - x.va) == j
              scale := if scaledFmt e1.fmt then some ((x.va + 256 * x.attr.soff + j) % (2 ^ 80 : Nat)).toNat else none }

/-- R90, R317: the scale of an element's block: 127 where there is no scale area. -/
def readScale (s : State) (l p : Nat) (x : Elem) : Except Nat (State × Nat) :=
  match x.scale with
  | none => .ok (s, 127)
  | some va => (engRead s l p (engWho l { eng s l p with who := none }) va 1).map (fun g => (g.counted l, g.val))

/-- R39, R446: the header of an element's block. -/
def headerTok (fmt geom scale no : Nat) (lot : Bool) : Token :=
  { kind := 1
    pay := BitVec.ofNat 32 (scale * 2 ^ 24 + (32 * 2 ^ geom - 1) * 2 ^ 16 + boolBit lot * 2 ^ 15 + fmt * 2 ^ 11 + no % 2048) }

/-- R359: whether a lease's injections are refused for the rest of the period. -/
def mayInject (s : State) (l : Nat) : Bool := !injSpent (s.lease l)

/-- Counts the injection of n tokens (R358). -/
def countInjN (s : State) (l die : Nat) : Nat → State
  | 0 => s
  | n + 1 => countInjN (countInj s l die) l die n

/-- The header of an element's block and the element, as tokens: the header comes first where one is due (R446). -/
def elemTokens (s : State) (l p : Nat) (x : Elem) : Except Nat (State × List Token) :=
  let e := eng s l p
  if !e.hdrDue && e.lastBlk == some x.blk then .ok (s, [dataTok x.val])
  else (readScale s l p x).map (fun r => (r.1, [headerTok e.fmt e.geom r.2 x.no x.lot, dataTok x.val]))

/-- R446: a read engine that resumes from a fault, a drain or a freeze owes a header before its next element. -/
def Engine.resumed (e : Engine) : Engine := { e with hdrDue := e.hdrDue || !e.dir }

/-- R35, R446: delivers the next element of an edge read engine. -/
def edgeRead (s : State) (l p : Nat) : State :=
  let e := eng s l p
  let n := e.committed
  if e.total ≤ n || !edgeRoom s e 2 then s
  else
    let bad (code : Nat) : State :=
      if code = heldCode then s else engFault s l p code n (e.va (if e.fmt = 15 then 0 else e.fmt) n)
    match readElem s l p n with
    | .error c => bad c
    | .ok x =>
      match elemTokens x.st l p x with
      | .error c => bad c
      | .ok (s1, ts) =>
        let e1 := eng s1 l p
        let e2 := { e1 with committed := n + 1, pos := posOf e1.ext (n + 1), lastBlk := some x.blk, hdrDue := false }
        let s2 := setEng (countInjN (edgePush s1 l e1 ts) l (tileDie e1.tile) ts.length) l p e2
        let s3 := progress s2 l
        if n + 1 = e1.total then engFinish (setEng s3 l p { e2 with eosDue := true }) l p else s3

/-- Whether an engine's lease takes injection from its edges: running, and in no drain or move (R370). -/
def edgeLive (s : State) (l : Nat) : Bool := (s.lease l).st == .running && !(s.lease l).dbgHalt

/-- R35. A read edge engine delivers the next element, or the EOS that is due behind the last one. -/
def execEdgeReadElement (lease port : Nat) (s : State) : Out :=
  let e := eng s lease port
  .next (if !edgeLive s lease || 8 ≤ e.side || !mayInject s lease then s
    else if e.eosDue then
      (if edgeRoom s e 1 then
        countInj (setEng (edgePush s lease e [eosTok]) lease port { e with eosDue := false }) lease (tileDie e.tile)
       else s)
    else if e.bound && !e.dir && e.st == .running && (s.tile e.tile).configured then edgeRead s lease port
    else s)

/-! ### Elements of a write engine (R180, R337, R339) -/

/-- A write of the masked bits of n bytes by an engine. -/
def engWrite (s : State) (l p : Nat) (w : Who) (va n mask val : Nat) : Except Nat (State × List Nat) :=
  agentWriteAcross (fun s va => translateEng s l p va) s w va n mask val

/-- Writes element n of a write engine. -/
def writeElem (s : State) (l p n : Nat) (x : Token) : Except Nat State :=
  let e := eng s l p
  let v (fmt : Nat) : Code := if x.kind = 3 then BitVec.ofNat 32 (poison fmt) else x.pay
  match e.host with
  | some i =>
    match (s.lease l).endpoints[i]? with
    | none => .error 0x07
    | some h =>
      let q := e.place e.fmt n
      if q.1 < 0 || (h.bytes : Int) < q.1 + q.2.n || !h.write then .error 0x07
      else .ok { s with host := s.host.mergeN (h.ha + q.1.toNat) q.2.n (elemMask e.fmt q.2) (elemBits e.fmt q.2 (v e.fmt)) }
  | none =>
    let fmt0 := if e.fmt = 15 then 0 else e.fmt
    match engPage s l p (e.va fmt0 n) with
    | .error c => .error c
    | .ok (s1, _) =>
      let e1 := eng s1 l p
      let q := (e1.place e1.fmt n).2
      (engWrite s1 l p (engWho l e1) (e1.va e1.fmt n) q.n (elemMask e1.fmt q) (elemBits e1.fmt q (v e1.fmt))).map (fun r =>
        let e2 := eng r.1 l p
        setEng r.1 l p { e2 with wl := e2.wl ++ r.2.filter (fun ln => !e2.wl.contains ln) })

/-- R302: the release of a DRAIN, once every beat of it is acknowledged. -/
def drainRelease (s : State) (l p : Nat) : State :=
  let e := eng s l p
  if !e.inbuf.isEmpty then s
  else match e.rel with
    | none => s
    | some scope =>
      let s1 := releaseOn s (engWho l e) scope (fun ln => e.wl.contains ln)
      setEng s1 l p { e with rel := none, wl := [] }

/-- Takes the token at the head of a write engine's buffer: a header or EOS is consumed, an element committed. -/
def edgeCommit (s : State) (l p : Nat) : State :=
  let e := eng s l p
  match e.inbuf with
  | [] => s
  | x :: r =>
    if x.kind = 1 || x.kind = 2 then setEng s l p { e with inbuf := r }
    else if e.st ≠ .running || e.total ≤ e.committed then s
    else
      let n := e.committed
      match writeElem s l p n x with
      | .error c => if c = heldCode then s else engFault s l p c n (e.va (if e.fmt = 15 then 0 else e.fmt) n)
      | .ok s1 =>
        let e1 := eng s1 l p
        let s2 := progress (setEng s1 l p { e1 with inbuf := r, committed := n + 1, pos := posOf e1.ext (n + 1) }) l
        drainRelease (if n + 1 = e.total then engFinish s2 l p else s2) l p

def edgeCommitAll (s : State) (l p : Nat) : Nat → State
  | 0 => s
  | n + 1 => edgeCommitAll (edgeCommit s l p) l p n

/-- Whether a write engine works: its lease's units run. -/
def writeLive (s : State) (l p : Nat) : Bool :=
  let e := eng s l p
  leaseLive s l && e.bound && e.dir && (e.st == .running || e.st == .finished)

/-- R35. A write edge engine commits an element to memory. -/
def execEdgeWriteCommit (lease port : Nat) (s : State) : Out :=
  .next (if writeLive s lease port then edgeCommit s lease port else s)

/-! ### Wide engines (R289, R290) -/

/-- The slots of a beat: 512 bits, 64 slots for L6. -/
def beatSlots (fmt : Nat) : Nat := if fmt = 8 then 64 else 512 / tyWidth fmt

/-- The zero code of a format (R290). -/
def zeroCode (fmt : Nat) : Code := if fmt = 8 then 0x10 else 0

/-- Half a beat from element n: its codes and its scale; a fault carries the element. A half that spans two scale blocks
faults at the element that starts the second (R290). -/
def readHalf (s : State) (l p n : Nat) (blk : Option Nat) (sc : Nat) (acc : List Code) :
    Nat → Except (Nat × Nat) (State × List Code × Nat)
  | 0 => .ok (s, acc, sc)
  | k + 1 =>
    if (eng s l p).total ≤ n then .ok (s, acc, sc)
    else match readElem s l p n with
      | .error c => .error (c, n)
      | .ok x =>
        match blk with
        | none =>
          match readScale x.st l p x with
          | .error c => .error (c, n)
          | .ok (s1, v) => readHalf s1 l p (n + 1) (some x.blk) v (acc ++ [x.val]) k
        | some b =>
          if b ≠ x.blk && x.scale.isSome then .error (0x04, n)
          else readHalf x.st l p (n + 1) (some b) sc (acc ++ [x.val]) k

def padTo (n : Nat) (x : Code) (l : List Code) : List Code := l ++ List.replicate (n - l.length) x

/-- The elements that wait in a press's wide input buffer. -/
def aheadOf (p : Press) : Nat := p.wbuf.foldl (fun a b => a + b.n) 0

/-- R290: the next beat of a wide read engine enters the press's buffer. -/
def wideRead (s : State) (l p : Nat) : State :=
  let e := eng s l p
  let pr := (s.tile e.tile).press
  let n := e.committed + aheadOf pr
  if e.total ≤ n || 8 ≤ pr.wbuf.length || !mayInject s l then s
  else
    let bad (s : State) (c : Nat × Nat) : State :=
      if c.1 = heldCode then s else engFault s l p c.1 c.2 (e.va (if e.fmt = 15 then 0 else e.fmt) c.2)
    let s0 : Except Nat State :=
      if e.host.isSome then .ok s else (engPage s l p (e.va (if e.fmt = 15 then 0 else e.fmt) n)).map (fun r => r.1)
    match s0 with
    | .error c => bad s (c, n)
    | .ok s0 =>
      let half := beatSlots (eng s0 l p).fmt / 2
      match readHalf s0 l p n none 127 [] half with
      | .error c => bad s c
      | .ok (s1, a, sa) =>
        match readHalf s1 l p (n + half) none 127 [] half with
        | .error c => bad s c
        | .ok (s2, b, sb) =>
          let f := (eng s2 l p).fmt
          let beat : Beat :=
            { fmt := f, s0 := sa, s1 := sb, n := a.length + b.length
              slots := padTo half (zeroCode f) a ++ padTo half (zeroCode f) b }
          let s3 := s2.modTile e.tile (fun t => { t with press := { t.press with wbuf := t.press.wbuf ++ [beat] } })
          countInjN s3 l (tileDie e.tile) beat.n

/-- R290, R300: a beat of a DRAIN reaches the wide write engine, which commits its elements one by one. -/
def wideWrite (s : State) (l p : Nat) : State :=
  let e := eng s l p
  let take : State :=
    if !e.inbuf.isEmpty || e.st ≠ .running then s
    else match (s.tile e.tile).press.wout with
      | [] => s
      | b :: r =>
        let s1 := s.modTile e.tile (fun t => { t with press := { t.press with wout := r } })
        setEng s1 l p { e with inbuf := b.slots.map dataTok, who := b.who, rel := b.rel, wl := if b.first then [] else e.wl }
  edgeCommitAll take l p 64

/-- R290. A wide read engine delivers one beat with scale sideband; a wide write engine takes one. -/
def execWideEngineBeat (lease port : Nat) (s : State) : Out :=
  let e := eng s lease port
  .next (if e.side ≠ 8 || !e.bound then s
    else if e.dir then (if writeLive s lease port then wideWrite s lease port else s)
    else if edgeLive s lease && e.st == .running then wideRead s lease port else s)

/-! ### PORT.BIND and PORT.UNBIND (R179, R180) -/

/-- R179. Binds a stream port to a descriptor and starts its engine. -/
def execPortBind (d : BitVec 5) (a : BitVec 3) (b : BitVec 5) (s : State) : Out :=
  let v := s.cc.rg b
  let l := myLease s
  let p := v.toNat
  let va := (s.cc.ra a).toNat
  .next (checked s v (zeroAbove v 5)
    (if (portRec s l p).isNone then retireG s d 3
     else if (eng s l p).bound && (eng s l p).st != .finished then retireG s d 1
     else if (s.lease l).st != .running then retireG s d 5
     else if va % 8 ≠ 0 then raiseVa s 0x03 va
     else match readVaWords s (me s) 8 va 9 with
       | .error (code, x) => formFault s (me s) code x
       | .ok (s1, ws) =>
         let ws := ws.map (BitVec.ofNat 64)
         if descBad ws then retireG s1 d 4
         else if descNoHost s1 l ws then retireG s1 d 3
         else retireG (bindEng s1 l p (me s) ws) d 0))

/-- R180: the end of an unbind: the engine stops, a read edge engine owes its EOS, a wide one drops the beats that its
press has not taken. None while it must wait. -/
def unbindNow (s : State) (l p : Nat) : Option (State × Nat) :=
  let e := eng s l p
  if !e.bound then some (s, 2 ^ 48 - 1)
  else if !edgeLive s l || e.st == .paused then none
  else if e.dir then
    let s1 := edgeCommitAll s l p e.inbuf.length
    let e1 := eng s1 l p
    if e1.st == .running && !e1.inbuf.isEmpty then none
    else some (setEng s1 l p { e1 with bound := false, st := .finished }, e1.index)
  else
    let s1 := if e.side = 8 then s.modTile e.tile (fun t => { t with press := { t.press with wbuf := [] } }) else s
    some (setEng s1 l p { e with bound := false, st := .finished, eosDue := e.eosDue || (e.side != 8 && e.st != .finished) },
          e.index)

/-- R180. Unbinds a stream port and returns the committed index. A port that the image does not declare traps with 0x07 (DESIGN CHOICE,
log entry 28). -/
def execPortUnbind (d a : BitVec 5) (s : State) : Out :=
  let v := s.cc.rg a
  let l := myLease s
  .next (checked s v (zeroAbove v 5 && (portRec s l v.toNat).isSome)
    (match unbindNow s l v.toNat with
     | some (s1, x) => retireG s1 d (BitVec.ofNat 64 x)
     | none => s.modC (fun c => { c with busy := some (.unbind v.toNat d) })))

end Sys2Proof.Machine
end

