-- ==== Sys2Proof/Machine/Loader.lean ====
section
/-! DEFINITION. The configuration loader: lease images (02 R80 to R83), their checks (01 R13, 02 R65 to R68, 04 R118 to R120, 12 R383, R384), configuration loads and their waves (01 R51, 06 R172 to R175). -/

namespace Sys2Proof.Machine

/-! ### Reading an image (R80 to R83, log entry 10) -/

/-- A reader of 64-bit words of an image by offset; none where the read faults. -/
abbrev Rd := Nat → Option Word

def rdWord (rd : Rd) (off : Nat) : Except Nat Word :=
  match rd off with
  | some w => .ok w
  | none => .error off

/-- The first n words from an offset on, as far as they can be read, and the offset of the first that cannot. -/
def rdSome (rd : Rd) (off : Nat) : Nat → List Word × Option Nat
  | 0 => ([], none)
  | n + 1 =>
    match rdWord rd off with
    | .error e => ([], some e)
    | .ok w => (w :: (rdSome rd (off + 8) n).1, (rdSome rd (off + 8) n).2)

/-- A 16-bit field as a signed number. -/
def sfld (w : Word) (lo : Nat) : Int := signed 16 (w.fld lo 16)

/-- The places of a list whose key does not rise above the one before. -/
def notRising (es : List (Nat × Code)) : List Nat :=
  (List.range es.length).filter (fun j => 0 < j && (es.getD j (0, 0)).1 ≤ (es.getD (j - 1) (0, 0)).1)

/-- The lowest of some offsets. -/
def lowest : List Nat → Option Nat
  | [] => none
  | x :: r => some (r.foldl min x)

/-- An offset, where a condition makes it an offence. -/
def offIf (b : Bool) (o : Nat) : List Nat := if b then [o] else []

/-- A tile record's words after its header word, as far as they can be read. -/
def tileOfWords (off : Nat) (ws : List Word) : TileCfg :=
  let w1 := ws.getD 0 0
  let w2 := ws.getD 1 0
  let na := w2.fld 0 8
  let no := w2.fld 8 16
  let nk := w2.fld 24 16
  let body := ws.drop 2
  { off, rect := w1.fld 0 16, row := w1.fld 16 16, col := w1.fld 32 16, press := w1.fld 48 1 == 1
    part := body.length < na + no
    actors := (body.take na).mapIdx (fun i w => (i, w))
    ops := ((body.drop na).take no).map (fun w => (w.fld 35 5 * 8 + w.fld 32 3, BitVec.ofNat 32 (w.fld 0 32)))
    kregs := ((body.drop (na + no)).take nk).map (fun w => (w.fld 35 3 * 8 + w.fld 32 3, BitVec.ofNat 32 (w.fld 0 32)))
    sw := (body.drop (na + no + nk)).map (fun w => (w.fld 16 5, BitVec.ofNat 16 (w.fld 0 16))) }

/-- The words a tile record declares, header included. -/
def tileLen (w2 : Word) : Nat := 3 + w2.fld 0 8 + w2.fld 8 16 + w2.fld 24 16 + w2.fld 40 16

/-- R121: the zero fields of a tile record's words that are not zero: of words 1 and 2, and above the fields of an operation word, a
lane register and a switch word. -/
def tileZero (off : Nat) (ws : List Word) : List Nat :=
  let w1 := ws.getD 0 0
  let w2 := ws.getD 1 0
  let na := w2.fld 0 8
  let no := w2.fld 8 16
  let nk := w2.fld 24 16
  let in_ (j a n : Nat) : Bool := a ≤ j && j < a + n
  offIf (w1.fld 49 15 != 0) (off + 14) ++ offIf (8 < na) (off + 16) ++ offIf (w2.fld 56 8 != 0) (off + 23)
    ++ (List.range ws.length).flatMap (fun j =>
      let w := ws.getD j 0
      let o := off + 8 * (j + 1)
      offIf (in_ j (2 + na) no && w.fld 40 24 != 0) (o + 5) ++ offIf (in_ j (2 + na + no) nk && w.fld 38 26 != 0) (o + 4)
        ++ offIf (2 + na + no + nk ≤ j && w.fld 21 43 != 0) (o + 2))

/-- Reads the tile record at an offset: the record as far as it can be read, and its offences; `room` is the bytes its record may take. -/
def rdTile (rd : Rd) (off room : Nat) : TileCfg × List Nat :=
  if room < 24 then ({ off, part := true }, [off + 2])
  else
    let n := tileLen ((rdSome rd (off + 8) 2).1.getD 1 0)
    let r := rdSome rd (off + 8) (min n (room / 8) - 1)
    (tileOfWords off r.1, tileZero off r.1 ++ offIf (room < 8 * n) (off + 2) ++ r.2.toList)

/-- The tile records nested in a kind-8 record, within n, and the offences. One that cannot be followed ends them. -/
def rdTiles (rd : Rd) (off lim : Nat) : Nat → List TileCfg × List Nat
  | 0 => ([], [])
  | n + 1 =>
    if lim ≤ off then ([], [])
    else match rdWord rd off with
      | .error e => ([], [e])
      | .ok h =>
        if h.fld 0 16 ≠ 2 then ([], [off])
        else if h.fld 16 32 < 24 || lim < off + h.fld 16 32 then ([], [off + 2])
        else
          let c := rdTile rd off (h.fld 16 32)
          let r := rdTiles rd (off + (h.fld 16 32 + 7) / 8 * 8) lim n
          (c.1 :: r.1, offIf (h.fld 48 16 != 0) (off + 6) ++ c.2 ++ r.2)

/-- The bits of a customer leaf (R315) that a page record may not set: those that are zero there, sysw, and oa, gslot, v and leaf,
which the loader fills in. -/
def pageOff (off : Nat) (lo hi : Word) : List Nat :=
  offIf (lo.fld 0 2 != 0 || lo.fld 7 1 != 0) (off + 24) ++ offIf (lo.fld 21 5 != 0) (off + 26) ++ offIf (lo.fld 58 6 != 0) (off + 31)
    ++ offIf (hi.fld 0 48 != 0) (off + 32) ++ offIf (hi.fld 61 3 != 0) (off + 39)

/-- The bits of a match entry at an offset that must be zero (R188). -/
def entryOff (o : Nat) (w : Word) : List Nat :=
  offIf (w.fld 38 2 != 0) (o + 4) ++ offIf (w.fld 46 2 != 0) (o + 5) ++ offIf (w.fld 51 12 != 0) (o + 6)

/-- One record's body, and its offences. A port name above 31 is refused: an image has at most 32 ports, numbered from 0 (R80, R444),
and R82 does not list the case (DESIGN CHOICE, log entry 10). -/
def rdRecord (rd : Rd) (im : Image) (kind off len : Nat) : Image × List Nat :=
  let nw := (len - 8) / 8
  let need (n : Nat) (k : List Word → Image × List Nat) : Image × List Nat :=
    if nw < n then (im, [off + 2])
    else
      let ws := rdSome rd (off + 8) n
      let r := k ws.1
      if ws.1.isEmpty then (im, ws.2.toList) else (r.1, r.2 ++ ws.2.toList)
  match kind with
  | 1 => need 1 (fun ws =>
      let w := ws.headD 0
      let r : RectRec := { off, row0 := sfld w 0, col0 := sfld w 16, rows := w.fld 32 16, cols := w.fld 48 16 }
      ({ im with rects := im.rects ++ [r] }, offIf (r.rows == 0 || 64 < r.rows) (off + 12) ++ offIf (r.cols == 0 || 128 < r.cols) (off + 14)))
  | 2 => ({ im with tiles := im.tiles ++ [(rdTile rd off len).1] }, (rdTile rd off len).2)
  | 3 => need 2 (fun ws =>
      let w := ws.headD 0
      ({ im with ctxs := im.ctxs ++ [{ row := sfld w 0, col := sfld w 16, entry := (ws.getD 1 0).toNat }] }, offIf (w.fld 32 32 != 0) (off + 12)))
  | 4 => need 10 (fun ws =>
      let w := ws.headD 0
      let d := ws.drop 1
      let edge := w.fld 16 3
      let ix := w.fld 32 32
      ({ im with ports := im.ports ++ [
        { off, name := w.fld 0 16, edge, dir := w.fld 19 1 == 1, iter := w.fld 20 1 == 1, rect := bits ix 13 19
          row := if edge = 4 then bits ix 7 6 else 0, col := if edge = 4 then bits ix 0 7 else 0
          pos := if edge = 4 then 0 else bits ix 0 13, desc := d }] },
        offIf (31 < w.fld 0 16) (off + 8) ++ offIf (4 < edge || w.fld 21 11 != 0) (off + 10)
          ++ offIf (w.fld 20 1 == 0 && d.any (fun x => x != 0)) (off + 16 + 8 * d.findIdx (fun x => x != 0))))
  | 5 => need 4 (fun ws => (im, pageOff off (ws.getD 2 0) (ws.getD 3 0)))
  | 6 => need 1 (fun ws =>
      let w := ws.headD 0
      let st := rdSome rd (off + 16) (min (w.fld 0 16) (nw - 1))
      ({ im with rings := im.rings ++ [
          { stops := st.1.map (fun x => (x.fld 0 16, x.fld 16 16)), off := w.fld 16 16, laps := w.fld 32 16 }] },
        offIf (nw < 1 + w.fld 0 16) (off + 2) ++ offIf (w.fld 48 16 != 0) (off + 14)
          ++ (List.range st.1.length).flatMap (fun j => offIf ((st.1.getD j 0).fld 32 32 != 0) (off + 20 + 8 * j)) ++ st.2.toList))
  | 7 => need 1 (fun ws =>
      let w := ws.headD 0
      let es := rdSome rd (off + 16) (min 4096 (nw - 1))
      ({ im with matches_ := im.matches_ ++ [{ ring := w.fld 0 16, stop := w.fld 16 16, entries := es.1 }] },
        offIf (4096 < nw - 1) (off + 2) ++ offIf (w.fld 32 32 != 0) (off + 12)
          ++ (List.range es.1.length).flatMap (fun j => entryOff (off + 16 + 8 * j) (es.1.getD j 0)) ++ es.2.toList))
  | 8 => need 1 (fun ws =>
      let w := ws.headD 0
      let ts := rdTiles rd (off + 16) (off + len) nw
      ({ im with confs := im.confs ++ [{ idx := w.fld 0 16, cap := w.fld 32 32, tiles := ts.1 }] },
        offIf (63 < w.fld 0 16) (off + 8) ++ offIf (w.fld 16 16 != 0) (off + 10) ++ ts.2))
  | _ => (im, [])

/-- The offence of a record's header word, after a record of kind `last`, that ends the reading (R81, R83). -/
def headOff (lim last off : Nat) (h : Word) : Option Nat :=
  if h.fld 0 16 = 0 || 9 < h.fld 0 16 || h.fld 0 16 < last then some off
  else if h.fld 16 32 < 8 || lim < off + h.fld 16 32 then some (off + 2)
  else none

/-- The kinds of the records, as far as their header words can be followed, and whether all can. -/
def rdKinds (rd : Rd) (lim last off : Nat) : Nat → List Nat × Bool
  | 0 => ([], true)
  | n + 1 =>
    match rdWord rd off with
    | .error _ => ([], false)
    | .ok h =>
      if (headOff lim last off h).isSome then ([], false)
      else
        let r := rdKinds rd lim (h.fld 0 16) (off + (h.fld 16 32 + 7) / 8 * 8) n
        (h.fld 0 16 :: r.1, r.2)

/-- The records, in order (R83), after one of kind `last`, as far as the header words can be followed, and the offences of all. -/
def rdRecords (rd : Rd) (lim : Nat) (im : Image) (last off : Nat) : Nat → Image × List Nat
  | 0 => (im, [])
  | n + 1 =>
    match rdWord rd off with
    | .error e => (im, [e])
    | .ok h =>
      match headOff lim last off h with
      | some o => (im, [o])
      | none =>
        let q := rdRecord rd im (h.fld 0 16) off (h.fld 16 32)
        let r := rdRecords rd lim q.1 (h.fld 0 16) (off + (h.fld 16 32 + 7) / 8 * 8) n
        (r.1, offIf (h.fld 48 16 != 0) (off + 6) ++ q.2 ++ r.2)

/-- R83: the first count of the header that the records' kinds disagree with. Where they cannot all be followed, a count that they
already pass. -/
def countOff (w0 w1 : Word) (ks : List Nat) (all : Bool) : Option Nat :=
  let n (k : Nat) : Nat := (ks.filter (fun x => x == k)).length
  let off (k c : Nat) : Bool := c < n k || (all && n k < c)
  if off 1 (w0.fld 48 16) then some 6
  else if off 4 (w1.fld 8 8) then some 9
  else if off 8 (w1.fld 16 8) then some 0xA
  else if all && w1.fld 24 8 ≠ 255 && n 3 ≤ w1.fld 24 8 then some 0xB
  else none

/-- The number of switch words of a record with cut set. -/
def TileCfg.cuts (c : TileCfg) : Nat := (c.sw.filter (fun e => swCut e.2)).length

/-- R444: the records of a list with the numbers of their cut points, from n on. No image record gives them: the model counts the cut
words in the order of the image's records (DESIGN CHOICE, log entry 10). -/
def numberCuts (n : Nat) : List TileCfg → List TileCfg
  | [] => []
  | c :: r => { c with cut0 := n } :: numberCuts (n + c.cuts) r

def numberConfs (n : Nat) : List ConfRec → List ConfRec
  | [] => []
  | c :: r => { c with tiles := numberCuts n c.tiles } :: numberConfs (n + (c.tiles.map TileCfg.cuts).sum) r

def Image.numbered (im : Image) : Image :=
  { im with tiles := numberCuts 0 im.tiles, confs := numberConfs (im.tiles.map TileCfg.cuts).sum im.confs }

/-- Where the records end, as far as their header words can be followed. -/
def rdEnd (rd : Rd) (lim last off : Nat) : Nat → Nat
  | 0 => off
  | n + 1 =>
    match rdWord rd off with
    | .error _ => off + 8
    | .ok h =>
      if (headOff lim last off h).isSome then off + 8
      else rdEnd rd lim (h.fld 0 16) (off + (h.fld 16 32 + 7) / 8 * 8) n

/-- An image as far as it can be read: the rectangles and ports that its header counts, the bytes read, and the offences, unreadable
bytes among them. -/
structure ImageRead where
  im : Image := {}
  nrect : Nat := 0
  nport : Nat := 0
  len : Nat := 64
  offs : List Nat := []
deriving DecidableEq, Repr, Inhabited

/-- R80 to R83: an image and its offences. No field gives the length of an image, which a record may not run past (R83): the model takes
the records to end where the first of the sections begins that begins behind the header, and sets no end where none does (DESIGN
CHOICE, log entry 10). -/
def rdPart (rd : Rd) (va : Nat) : ImageRead :=
  let h := (rdSome rd 0 8).1
  let w0 := h.getD 0 0
  let w1 := h.getD 1 0
  let secs := [h.getD 2 0, h.getD 4 0, h.getD 6 0].map BitVec.toNat
  let lim := (secs.filter (fun x => 64 ≤ x)).foldl min (2 ^ 64)
  let n := if h.length < 8 then 0 else w1.fld 32 32
  let ks := rdKinds rd lim 0 64 n
  if w0.fld 0 32 ≠ 0x494D4B41 then { offs := [0] }
  else if w0.fld 32 16 ≠ 2 then { offs := [4] }
  else
    let r := rdRecords rd lim { va, cls := w1.fld 0 8, sched := w1.fld 24 8, codeOff := (h.getD 2 0).toNat } 0 64 n
    { im := r.1.numbered, nrect := w0.fld 48 16, nport := w1.fld 8 8, len := rdEnd rd lim 0 64 n
      offs := offIf (w0.fld 48 16 == 0 || 64 < w0.fld 48 16) 6 ++ offIf (7 < w1.fld 0 8) 8 ++ offIf (32 < w1.fld 8 8) 9
        ++ offIf (64 < w1.fld 16 8) 0xA ++ offIf (h.getD 7 0 != 0) 0x38 ++ (rdSome rd 0 8).2.toList
        ++ (if h.length < 8 then [] else (countOff w0 w1 ks.1 ks.2).toList) ++ r.2 }

/-- R80 to R83: an image, or the offset of its first offending or unreadable byte. -/
def rdImage (rd : Rd) (va : Nat) : Except Nat Image :=
  match lowest (rdPart rd va).offs with
  | some o => .error o
  | none => .ok (rdPart rd va).im

/-! ### The checks of a tile record (R13, R65, R66, R68, R120, R271, R276, R287) -/

/-- The tile a record describes, as far as its words go. -/
def TileCfg.tile (c : TileCfg) : Tile :=
  { ops := c.ops.foldl (fun m e => Tbl.set 0 m e.1 e.2) []
    actors := c.actors.foldl (fun m e => Tbl.set 0 m e.1 e.2) []
    sw := c.sw.foldl (fun m e => Tbl.set 0 m e.1 e.2) [] }

/-- The keys of word 1 of the nodes of a lane, from a step on, within n steps. -/
def Tile.seconds (t : Tile) (lane : Nat) (skip : Bool) (step : Nat) : Nat → List Nat
  | 0 => []
  | n + 1 =>
    if skip then (step * 8 + lane) :: t.seconds lane false (step + 1) n
    else t.seconds lane (isNodeWord (t.op step lane)) (step + 1) n

def Tile.allSeconds (t : Tile) : List Nat := (List.range 8).flatMap (fun l => t.seconds l false 0 32)

/-- The END bit of a word; a node's words have it clear (R66). -/
def Tile.endBit (t : Tile) (sec : List Nat) (step lane : Nat) : Nat :=
  let w := t.op step lane
  if isNodeWord w || sec.contains (step * 8 + lane) then 0 else w.fld 8 1

/-- The run of a descriptor from a step on; none where it reaches step 31 with no END. -/
def Tile.runOf (t : Tile) (sec : List Nat) (d : BitVec 64) (step : Nat) : Nat → Option (List Nat)
  | 0 => none
  | n + 1 =>
    if 31 < step then none
    else if t.endBit sec step (dLane0 d) = 1 then some [step]
    else (t.runOf sec d (step + 1) n).map (fun r => step :: r)

def queueOf (c : Nat) : List Nat := if 2 ≤ c && c ≤ 5 then [c - 2] else []

/-- Queues that a word reads on every firing, those it reads on some, and those it writes (R13, R264, R266, R272). -/
def wordUse (w : Code) : List Nat × List Nat × List Nat :=
  let o := w.fld 25 7
  let a := queueOf (w.fld 22 3)
  let b := queueOf (w.fld 19 3)
  let d := queueOf (w.fld 16 3)
  if o = 0x2C then ([], a ++ b, d)
  else if o = 0x3C then ([], [], d)
  else if o = 0x29 then (a, [], d ++ [w.fld 6 2])
  else if isNodeWord w then (if o = 0x48 || o = 0x4A then a else a ++ b, [], d)
  else if o = 0 then ([], [], d)
  else (if twoSrc w then a ++ b else a, [], d)

/-- An actor as the checks see it. -/
structure ActorUse where
  bad : Bool := false
  pos : List Nat := []
  reads : List Nat := []
  writes : List Nat := []
deriving Inhabited

def countOf (q : Nat) (l : List Nat) : Nat := (l.filter (fun x => x == q)).length

/-- R13, R66, R271, R287: one descriptor against its words. A queue that it only gates or declares is neither read nor written. -/
def Tile.actorUse (t : Tile) (sec : List Nat) (press : Bool) (i : Nat) : ActorUse :=
  let d := t.desc i
  if !dValid d then { bad := d.fld 8 1 == 1 }
  else match t.runOf sec d (dEntry d) 33 with
    | none => { bad := true }
    | some run =>
      let lanes := (List.range (dLanes d)).map (fun j => dLane0 d + j)
      let keys := run.flatMap (fun st => lanes.map (fun l => st * 8 + l))
      let ws := (keys.filter (fun k => !sec.contains k)).map (fun k => t.op (k / 8) (k % 8))
      let merges := (ws.filter (fun w => w.fld 25 7 == 0x2C)).length
      let sel := List.replicate merges (dSelq d)
      let reads := ws.flatMap (fun w => (wordUse w).1) ++ sel
      let conds := ws.flatMap (fun w => (wordUse w).2.1)
      let writes := ws.flatMap (fun w => (wordUse w).2.2)
      let bad :=
        d.fld 8 1 == 1
          || (List.range 4).any (fun q => 16 < dInq d q || 16 < dOutq d q)
          || 8 < dLane0 d + dLanes d
          || run.any (fun st => lanes.any (fun l => t.endBit sec st l != t.endBit sec st (dLane0 d)))
          || keys.any (fun k => (sec.contains k && !run.contains (k / 8 - 1))
              || (!sec.contains k && isNodeWord (t.op (k / 8) (k % 8)) && !run.contains (k / 8 + 1)))
          || (List.range 4).any (fun q => dInq d q != 0 && countOf q reads != dInq d q)
          || (List.range 4).any (fun q => dOutq d q < countOf q writes)
          || ws.any (fun w => (wordUse w).1.any (fun q => dInq d q == 0))
          || (dMg d && (dInq d (dSelq d) == 0 || merges != 1))
          || ws.any (fun w => w.fld 25 7 == 0x3B && (queueOf (w.fld 16 3)).any (fun q => dOutq d q < 2))
          || (press && dOutq d 2 != 0)
      { bad, pos := keys, reads := reads ++ conds, writes }

/-- R13: whether two actors share a position, or read or write one queue. -/
def ActorUse.meets (u v : ActorUse) : Bool :=
  let both (a b : List Nat) : Bool := a.any (fun x => b.contains x)
  both u.pos v.pos || both u.reads v.reads || both u.writes v.writes

/-- R13 over the actors of a tile: the indices that offend. Of two that clash it is the later one. -/
def Tile.actorsBad (t : Tile) (sec : List Nat) (press : Bool) : List Nat :=
  let us := (List.range 8).map (t.actorUse sec press)
  (List.range 8).filter (fun i => (us.getD i {}).bad || (us.take i).any (us.getD i {}).meets)

/-- R13 for one actor of a tile, against every other one. -/
def Tile.actorBad (t : Tile) (sec : List Nat) (press : Bool) (i : Nat) : Bool :=
  let us := (List.range 8).map (t.actorUse sec press)
  (us.getD i {}).bad || (List.range 8).any (fun j => j != i && (us.getD i {}).meets (us.getD j {}))

/-- R65, R66, R118, R119: whether a word at a key is refused; the second word of a node is checked with the first. -/
def Tile.wordBad (t : Tile) (sec : List Nat) (press : Bool) (key : Nat) (w : Code) : Bool :=
  if sec.contains key then false
  else
    let o2 := press && (w.fld 16 3 == 4 || (w.fld 25 7 == 0x29 && w.fld 6 2 == 2))
    if isNodeWord w then
      let x := t.op (key / 8 + 1) (key % 8)
      key / 8 == 31 || o2
        || (Form.nodeBad (w.fld 25 7) (w.extractLsb' 22 3) (w.extractLsb' 19 3) (w.extractLsb' 16 3) (w.extractLsb' 12 4)
              (w.extractLsb' 0 12) (x.extractLsb' 22 10) (x.extractLsb' 12 10) (x.extractLsb' 2 10) (x.extractLsb' 1 1)
              (x.extractLsb' 0 1)).isSome
    else match decodeElement w with
      | .ok _ => o2
      | .error _ => true

/-! ### Switch words (R68, R120, R383, R384) -/

/-- The sides of a tile of a lease that face out of its rectangle. -/
def outSides (s : State) (l rect row col : Nat) : List Nat :=
  match (s.lease l).image.rects[rect]? with
  | none => []
  | some q =>
    (if row = 0 then [0] else []) ++ (if col + 1 = q.cols then [1] else []) ++ (if row + 1 = q.rows then [2] else [])
      ++ (if col = 0 then [3] else [])

/-- The stream port declared at a side of a tile: its record. -/
def sidePort (s : State) (l k side : Nat) : Option PortRec :=
  (s.lease l).image.ports.find? (fun r => r.edge == side && side < 4 && portTile s l r == some k)

/-- Whether a tile is a stop of a ring of an image. -/
def isStop (s : State) (im : Image) (l k : Nat) : Bool :=
  im.rings.any (fun r => r.stops.any (fun p => rectTile s l 0 p.1 p.2 == some k))

/-- The package position one step out of a side. -/
def stepOut (k side : Nat) : Option Nat :=
  let r : Int := tilePRow k
  let c : Int := tilePCol k
  match side with
  | 0 => tileAt (r - 1) c
  | 1 => tileAt r (c + 1)
  | 2 => tileAt (r + 1) c
  | _ => tileAt r (c - 1)

/-- R68, R120: the conditions of one word of an image but sanc; `others` are the tile's other words. -/
def switchBad (s : State) (im : Image) (l k : Nat) (others : List (BitVec 16)) (w : BitVec 16) : Bool :=
  if w = 0 then false
  else
    let o := swOut w
    let i := swIn w
    let c := swCls w
    4 < c || o == i || others.any (fun x => x != 0 && swIn x == i && swCls x == c && swOut x == o)
      || ((swRc w != 0) != (c == 3))
      || (([4, 5].contains o || [4, 5].contains i) && (!isStop s im l k || c != 0))
      || ((o == 7 || i == 7) && c != 4)
      || (swCut w && c != 0)

/-- R383, R384: what the loader asks of a word at the edge of a die or of a rectangle. -/
def edgeBad (s : State) (l k : Nat) (w : BitVec 16) : Bool :=
  w != 0
    && ((match sidePort s l k (swOut w) with
        | some r => swCls w != 0 || !r.dir
        | none => swOut w < 4 && (stepOut k (swOut w)).isNone)
      || (match sidePort s l k (swIn w) with
        | some r => swCls w != 0 || r.dir
        | none => false))

/-- The words of a tile record that offend, by their place in it. -/
def swsBad (s : State) (im : Image) (l k : Nat) (c : TileCfg) : List Nat :=
  (List.range c.sw.length).filter (fun j =>
    let w := (c.sw.getD j (0, 0)).2
    swSanc w || switchBad s im l k ((c.sw.take j).map (fun e => e.2)) w || edgeBad s l k w)

/-! ### The checks of a configuration (R172) -/

/-- The press tiles of an image, in its main configuration or another. -/
def pressAt (im : Image) : List (Nat × Nat × Nat) :=
  ((im.tiles ++ im.confs.flatMap (fun c => c.tiles)).filter (fun c => c.press)).map (fun c => (c.rect, c.row, c.col))

/-- Where a tile record's position leaves its rectangle: its rectangle, row or column. -/
def placeOff (le : Lease) (c : TileCfg) : Nat :=
  match le.image.rects[c.rect]? with
  | none => c.off + 8
  | some r => if r.rows ≤ c.row then c.off + 10 else c.off + 12

/-- The lowest offending offset of a tile record of an image, if any. A record at a press position is checked as a press tile's (R287).
Of a record that could not be read whole, what needs a missing word is not checked: its actors, its nodes, and the links of nodes where
the image is not `full`. -/
def tileOff (s : State) (im : Image) (l : Nat) (full : Bool) (seqs : List Nat) (c : TileCfg) : Option Nat :=
  match rectTile s l c.rect c.row c.col with
  | none => some (placeOff (s.lease l) c)
  | some k =>
    if c.press && !(isPress k && c.row % 2 == 0 && c.col % 2 == 0) then some (c.off + 14)
    else
      let t := c.tile
      let sec := t.allSeconds
      let press := (pressAt im ++ pressAt (s.lease l).image).contains (c.rect, c.row, c.col)
      let cvts := (t.ops.filter (fun e => !sec.contains e.1 && e.2.fld 25 7 == 0x3B)).map (fun e => e.1)
      let link (x : Code) : Bool :=
        full && ((x.fld 12 10 != 1023 && !seqs.contains (x.fld 12 10)) || (x.fld 2 10 != 1023 && !seqs.contains (x.fld 2 10)))
      let opBad (e : Nat × Code) : Bool :=
        !(c.part && (isNodeWord e.2 || sec.contains e.1))
          && (t.wordBad sec press e.1 e.2 || (cvts.drop 1).contains e.1 || (sec.contains e.1 && link e.2))
      let na := c.actors.length
      let no := c.ops.length
      let acts := if c.part then [] else t.actorsBad sec press
      let at_ (i : Nat) : Nat := c.off + 8 * (3 + i)
      lowest (acts.map at_ ++ (notRising c.ops).map (fun j => at_ (na + j) + 4)
        ++ ((List.range no).filter (fun j => opBad (c.ops.getD j (0, 0)))).map (fun j => at_ (na + j))
        ++ (notRising c.kregs).map (fun j => at_ (na + no + j) + 4)
        ++ (swsBad s im l k c).map (fun j => at_ (na + no + c.kregs.length + j)))

/-- The wave numbers of the nodes of a configuration. -/
def confSeqs (cs : List TileCfg) : List Nat :=
  cs.flatMap (fun c =>
    let t := c.tile
    t.allSeconds.map (fun k => (t.op (k / 8) (k % 8)).fld 22 10))

/-- The offences of a list of tile records of an image. -/
def tilesOff (s : State) (im : Image) (l : Nat) (full : Bool) (cs : List TileCfg) : List Nat :=
  cs.filterMap (tileOff s im l full (confSeqs cs))

/-- The records of a configuration: the main one (0x7F) or a basic-block configuration. -/
def confTiles (im : Image) (conf : Nat) : Option (List TileCfg) :=
  if conf = 0x7F then some im.tiles else (im.confs.find? (fun c => c.idx == conf)).map (fun c => c.tiles)

/-- R82, R172: a port record against the placement, and against what PORT.BIND would answer where it will be bound. -/
def portOff (s : State) (l : Nat) (im : Image) (names : List Nat) (r : PortRec) : Option Nat :=
  match portTile s l r with
  | none => some (r.off + 12)
  | some k =>
    if r.edge = 4 && !(isPress k && (pressAt im ++ pressAt (s.lease l).image).contains (r.rect, r.row, r.col)) then some (r.off + 12)
    else if r.iter && names.contains k && !((eng s l r.name).bound && (eng s l r.name).st != .finished)
        && (descBad r.desc || descNoHost s l r.desc) then some r.off
    else none

/-- R172: the first field of an image's rectangle that differs from the lease's, if any; one that the lease lacks differs whole. -/
def RectRec.differs (a : RectRec) (b : Option RectRec) : Option Nat :=
  match b with
  | none => some a.off
  | some b =>
    if a.row0 ≠ b.row0 then some (a.off + 8) else if a.col0 ≠ b.col0 then some (a.off + 10)
    else if a.rows ≠ b.rows then some (a.off + 12) else if a.cols ≠ b.cols then some (a.off + 14) else none

/-- R172: the first field of an image's port record that differs from the lease's, if any: its name, its edge and direction, or its
index. -/
def PortRec.differs (a : PortRec) (b : Option PortRec) : Option Nat :=
  match b with
  | none => some a.off
  | some b =>
    if a.name ≠ b.name then some (a.off + 8) else if a.edge ≠ b.edge || a.dir != b.dir then some (a.off + 10)
    else if a.rect ≠ b.rect || a.row ≠ b.row || a.col ≠ b.col || a.pos ≠ b.pos then some (a.off + 12) else none

/-- R172: the offences of an image's rectangles, press positions and port records against the lease's. One that is missing is found at
the header's count of its kind, a missing press mark at the count of records (log entry 10). -/
def matchOff (le : Lease) (r : ImageRead) : List Nat :=
  let im := r.im
  offIf (r.nrect < le.image.rects.length) 6 ++ offIf (r.nport < le.image.ports.length) 9
    ++ (im.rects.mapIdx (fun i x => x.differs le.image.rects[i]?)).filterMap id
    ++ (im.ports.mapIdx (fun i x => x.differs le.image.ports[i]?)).filterMap id
    ++ ((im.tiles ++ im.confs.flatMap (fun c => c.tiles)).filter (fun c =>
      c.press && !(pressAt le.image).contains (c.rect, c.row, c.col))).map (fun c => c.off + 14)
    ++ offIf (r.offs.isEmpty && !(pressAt le.image).all (fun p => (pressAt im).contains p)) 0xC

/-- The tiles a list of records names in the placement. -/
def namedTiles (s : State) (l : Nat) (cs : List TileCfg) : List (Nat × TileCfg) :=
  cs.filterMap (fun c => (rectTile s l c.rect c.row c.col).map (fun k => (k, c)))

/-- The tiles that a load of a configuration takes; `only` keeps those of one stoker's block. -/
def confNamed (s : State) (l : Nat) (cs : List TileCfg) (only : Option Nat) : List (Nat × TileCfg) :=
  (namedTiles s l cs).filter (fun e => match only with
    | none => true
    | some st => tileStoker e.1 == st)

/-- The tiles whose ports a load binds: a launch binds every port record of the image (R346, step 5), any other load those whose edge
tile it loads. -/
def bindNames (s : State) (l : Nat) (ns : List (Nat × TileCfg)) : List Nat :=
  if (s.lease l).starting then leaseTiles s l else ns.map (fun e => e.1)

/-- R172: the offences of a configuration of an image for a lease; that of a configuration which the image lacks stands at the header's
count of configurations (log entry 10). -/
def confOffs (s : State) (l : Nat) (im : Image) (full : Bool) (conf : Nat) (only : Option Nat) : List Nat :=
  match confTiles im conf with
  | none => offIf full 0xA
  | some cs => tilesOff s im l full cs ++ im.ports.filterMap (portOff s l im (bindNames s l (confNamed s l cs only)))

/-- R172: the checks of a configuration of an image for a lease. It gives the waves to send and the port records to bind, or the lowest
offending offset. -/
def checkConf (s : State) (l : Nat) (im : Image) (conf : Nat) (only : Option Nat) :
    Except Nat (List (Nat × TileCfg) × List PortRec) :=
  match lowest (confOffs s l im true conf only) with
  | some o => .error o
  | none =>
    let ns := confNamed s l ((confTiles im conf).getD []) only
    .ok (ns, im.ports.filter (fun r => r.iter && (match portTile s l r with
      | some k => (bindNames s l ns).contains k
      | none => false)))

/-! ### Sanctioned words (R68, R376, R392; log entry 15) -/

/-- R52, R177: a switch word waits for the end of a firing, and for a packet in passage on its pair or on the old one. -/
def writeSw (s : State) (k i : Nat) (w : BitVec 16) : State :=
  s.modTile k (fun t =>
    let old := Tbl.get 0 t.sw i
    if t.firing.isSome || t.inPassage (swIn old) (swCls old) || t.inPassage (swIn w) (swCls w) || t.swLate i then
      { t with late := t.late ++ [{ sw := true, key := i, word := w.setWidth 32 }] }
    else t.applySw i w)

/-- The port of a lease at a side of a tile, in a direction, that no PORT.BIND or load has bound. -/
def freePort (s : State) (l k side : Nat) (write : Bool) : Bool :=
  match sidePort s l k side with
  | none => false
  | some p => p.dir == write && !(eng s l p.name).bound

/-- Whether the leases at the two ends of a link both declare a stream endpoint there, the one here in a direction and the other in the
opposite one, that no engine serves. They are of one partition. -/
def bothDeclare (s : State) (k side : Nat) (write : Bool) : Bool :=
  match (s.tile k).lease, stepOut k side with
  | some l, some j =>
    (match (s.tile j).lease with
      | none => false
      | some m => m != l && (s.lease m).part == (s.lease l).part && side < 4 && freePort s l k side write
          && freePort s m j ((side + 2) % 4) (!write))
  | _, _ => false

/-- R68: whether the placer sanctions a switch word of a tile. -/
def sanctioned (s : State) (k : Nat) (w : BitVec 16) : Bool :=
  w != 0 && swCls w == 0 && (bothDeclare s k (swOut w) true || bothDeclare s k (swIn w) false)

/-- The sanctioned bits of a tile's words are set anew, each at its next packet boundary (R177). -/
def sancTile (s : State) (k : Nat) : State :=
  (s.tile k).sw.foldl (fun s e =>
    let w := e.2.put 5 1 (boolBit (sanctioned s k e.2))
    if w = e.2 then s else writeSw s k e.1 w) s

/-- R68, R376: as sancTile, for a tile and its neighbours. -/
def sancAround (s : State) (k : Nat) : State := (k :: (List.range 4).filterMap (stepOut k)).foldl sancTile s

/-! ### Running a load (R51, R172, R173) -/

/-- The reader of an image through a context's translation. A loader whose read waits reads it later. -/
def ctxRd (s : State) (k va : Nat) : Rd := fun off =>
  let a := (va + off) % 2 ^ 80
  if a % 8 ≠ 0 then none
  else match readWord false s k a 8 with
    | .ok (_, v) => some (BitVec.ofNat 64 v)
    | .error _ => none

/-- What a load that has not been read yet comes to. -/
def resolveLoad (s : State) (x : Load) : Except Nat (List (Nat × TileCfg) × List PortRec) :=
  let only := if x.all then none else some (x.ctx / 8)
  let le := s.lease x.lease
  if x.ticket = 0 then checkConf s x.lease le.image x.conf none
  else
    let r := rdPart (ctxRd s x.ctx x.image) x.image
    match lowest (r.offs ++ matchOff le r ++ confOffs s x.lease r.im r.offs.isEmpty x.conf only) with
    | some o => .error o
    | none => checkConf s x.lease r.im x.conf only

def isLoad (ctx ticket : Nat) (x : Load) : Bool := x.ctx == ctx && x.ticket == ticket

def findLoad (s : State) (ctx ticket : Nat) : Option Load := s.loads.find? (isLoad ctx ticket)

def setLoad (s : State) (y : Load) : State :=
  { s with loads := s.loads.map (fun x => if isLoad y.ctx y.ticket x then y else x) }

/-- A read of a load's image that its frame's tag refuses: the class 1 alarm and the 0x08 that R360 and R436 give for a refused access.
The freeze is that fault's and not the refusal's (R173; DEDUCED, log entry 10). -/
def imageTag (s : State) (k va : Nat) : State :=
  lateFault (ctxTagAlarm s k va) (ctxRec s k 0x08 0 va)

/-- What the reads of n lines of an image from a VA on leave: their line transfers (R358), and the alarm at one that is refused by its
tag, which ends them. -/
def imageLines (s : State) (k va : Nat) : Nat → State
  | 0 => s
  | n + 1 =>
    match readWord false s k (va % 2 ^ 80) 8 with
    | .ok (s1, _) => imageLines s1 k (va / 128 * 128 + 128) n
    | .error c => if c = 0x08 then imageTag s k (va % 2 ^ 80) else s

/-- What the reads of a load's image leave. -/
def readImage (s : State) (x : Load) : State :=
  if x.ticket = 0 || x.image % 8 ≠ 0 then s
  else imageLines s x.ctx x.image (linesAt x.image (rdPart (ctxRd s x.ctx x.image) x.image).len)

/-- A load read and checked: its waves and ports, and what the reads leave. One that is refused stays as it was. -/
def startLoad (s : State) (x : Load) : State × Load :=
  match x.st with
  | .reading =>
    match resolveLoad s x with
    | .error _ => (s, x)
    | .ok (ns, ps) =>
      (readImage s x, { x with st := .running, send := ns, names := ns.map (fun e => e.1), left := ns.map (fun e => e.1), ports := ps })
  | _ => (s, x)

/-- Whether a wave can reach a tile: those of a CFG.LOAD come from its stoker, those of the hearth reach every die (R400). -/
def waveMay (s : State) (ctx ticket tile : Nat) : Bool := ticket == 0 || blocksMeet s (ctx / 8) (tileStoker tile)

/-- R51, R172. A configuration's wave reaches a named tile. -/
def execWaveArrival (ctx ticket tile : Nat) (s : State) : Out :=
  .next (match findLoad s ctx ticket with
    | none => s
    | some x0 =>
      if !leaseLive s x0.lease || !waveMay s ctx ticket tile then s
      else
        let r := startLoad s x0
        let s := r.1
        let x := r.2
        match x.send.find? (fun e => e.1 == tile) with
        | none => setLoad s x
        | some (_, c) =>
          let s1 := setLoad s { x with send := x.send.filter (fun e => e.1 != tile) }
          s1.modTile tile (fun t => { t with waves := t.waves ++ [{ ctx, ticket, cfg := c, rm := x.rm, image := x.image, conf := x.conf }] }))

/-- The class-0 output links of a configuration (R51). -/
def Tile.outLinks (t : Tile) : List Nat :=
  (t.sw.filter (fun e => swCls e.2 == 0 && swOut e.2 < 6)).map (fun e => swOut e.2)

/-- Whether a node's access is on its way: it waits neither behind a fault (R279) nor for its turn in its wave (R278). -/
def nodeSent (s : State) (l : Nat) (q : NodeReq) : Bool :=
  match q.st, q.pos with
  | .held _, _ => false
  | .waiting, .edge => nodeDue s l q
  | _, _ => true

/-- R51: whether a tile may take the wave that has reached it; one that a debugger halts does no work (R55). -/
def mayReconfigure (s : State) (k : Nat) : Bool :=
  let t := s.tile k
  !t.waves.isEmpty && t.firing.isNone && t.note.readyQ.isEmpty && !t.halted
    && (!t.configured || t.outLinks.all (fun o => t.eosOut.contains o))
    && (match t.lease with
      | none => false
      | some l => leaseLive s l)

/-- What the performed node accesses of a tile give returns to it, oldest first, n of them. -/
def returnNodes (s : State) (l k : Nat) : Nat → State
  | 0 => s
  | n + 1 =>
    let s1 := returnNodes s l k n
    let i := (s1.lease l).nodes.findIdx (fun q => q.tile == k && !q.gone && (match q.st with
      | .performed _ => true
      | _ => false))
    nodeBack s1 l i

/-- R51, R284: the accesses of a tile's nodes that are on their way are made, and what they give returns, before the tile takes its new
configuration; one that has to wait is made later, and what it gives is dropped with the rest of the element state (R285). -/
def flushNodes (s : State) (l k : Nat) : State :=
  let n := ((s.lease l).nodes.filter (fun q => q.tile == k)).length
  let s1 := returnNodes (performNodes s l (fun q => q.tile == k) n) l k n
  s1.modLease l (fun x => { x with nodes := x.nodes.map (fun q =>
    if q.tile == k && nodeSent s1 l q then { q with gone := true } else q) })

/-- The number of a configuration of an image in the name of a kernel. -/
def kernConf (kern : Nat) : Nat := kern / 2 ^ 80 % 128

/-- R19, R285: the words of a configuration written into a tile. R19 says that the queues are empty at every load, as R51 ensures; but
the conditions of R51 leave tokens that no actor is ready for, and the model keeps them (DESIGN CHOICE, log entry 14). The k-th load of
a configuration of an image is the k-th for each of its tiles, and gives them one kernel (log entry 27). -/
def Tile.applyCfg (t : Tile) (w : Wave) : Tile :=
  let n := w.cfg.tile
  let before := ((t.loaded.find? (fun e => e.1 == w.image && e.2.1 == w.conf)).map (fun e => e.2.2)).getD 0
  { t with
    kern := (before * 128 + w.conf) * 2 ^ 80 + w.image
    loaded := t.loaded.filter (fun e => !(e.1 == w.image && e.2.1 == w.conf)) ++ [(w.image, w.conf, before + 1)]
    configured := true, rm := w.rm, ops := n.ops, actors := n.actors, sw := n.sw
    cuts := (w.cfg.sw.filter (fun e => swCut e.2)).mapIdx (fun i e => (e.1, w.cfg.cut0 + i))
    kreg := w.cfg.kregs.foldl (fun m e => Tbl.set 0 m e.1 e.2) t.kreg
    hdr := [], astate := [], readyQ := [], aged := 0, iter := [], conv := {}, rcOpen := [], sinkEos := [], nodeOut := [], eosOut := []
    late := [], hold := t.hold.filter (fun e => e.1 % 8 == 3) }

/-- R284, R285: the held accesses of a tile that has been loaded are cleared, and the instance numbers of a kernel that no tile of the
lease runs any more. -/
def clearWaves (s : State) (l k : Nat) : State :=
  let ks := (leaseTiles s l).map (fun j => (s.tile j).kern)
  let live (e : Nat × Nat) : Bool := ks.contains (e.1 / 1024)
  s.modLease l (fun x =>
    { x with fired := x.fired.filter live, done := x.done.filter live, nodes := x.nodes.filter (fun q => q.tile != k || q.gone) })

/-- The port records of a load whose edge tile has just taken its configuration are bound (R172, R179, R445). -/
def bindPorts (s : State) (l k : Nat) (ps : List PortRec) : State :=
  ps.foldl (fun s r =>
    let e := eng s l r.name
    if portTile s l r == some k && !(e.bound && e.st != .finished) then bindEng s l r.name (blockCtx s l k) r.desc else s) s

/-- R51. A tile applies a configuration after its EOS and starts firing under it. Its snapshot begins with its first configuration
(DEDUCED from R457, log entry 2). -/
def execTileReconfigure (tile : Nat) (s : State) : Out :=
  .next (if !mayReconfigure s tile then s
    else
      let t := s.tile tile
      match t.waves, t.lease with
      | w :: r, some l =>
        let snap := if t.configured then t.snap else freshSnap t.snap 6 s.ordn
        let s1 := clearWaves ((flushNodes s l tile).modTile tile (fun t => ({ t.applyCfg w with waves := r, snap }).note)) l tile
        match findLoad s1 w.ctx w.ticket with
        | none => sancAround s1 tile
        | some x =>
          sancAround (bindPorts (setLoad s1 { x with left := x.left.filter (fun k => k != tile) }) l tile x.ports) tile
      | _, _ => s)

/-- R346: the port records of a launch whose edge tile no record of the configuration names. -/
def bindRest (s : State) (x : Load) : State :=
  x.ports.foldl (fun s r =>
    match portTile s x.lease r with
    | some k => if x.names.contains k then s else bindPorts s x.lease k [r]
    | none => s) s

/-- Whether a load is outstanding or among the last four that its context finished. One whose refusal a CFG.WAIT has reported is
forgotten and counts among them no more (R174; DESIGN CHOICE, log entry 28). -/
def Load.recent (s : State) (x : Load) : Bool :=
  let fins := (s.loads.filter (fun y => y.ctx == x.ctx && y.ticket != 0 && y.fin != 0)).map (fun y => y.fin)
  x.fin == 0 || (fins.filter (fun f => x.fin < f)).length < 4

/-- The finished loads that a context still remembers: those refused and not yet reported, and its last four. -/
def trimLoads (s : State) (k : Nat) : State :=
  let keep (x : Load) : Bool :=
    x.ctx != k || x.ticket == 0 || x.recent s || (match x.st with
      | .refused _ => true
      | _ => false)
  { s with loads := s.loads.filter keep }

/-- R49, R50: a load that completed leaves its configuration the loaded one, once every tile that it names in the lease holds it. -/
def noteConf (s : State) (l conf : Nat) : State :=
  let ks := (namedTiles s l ((confTiles (s.lease l).image conf).getD [])).map (fun e => e.1)
  if ks.all (fun k => (s.tile k).configured && kernConf (s.tile k).kern == conf) then s.modLease l (fun y => { y with conf })
  else s

/-- The end of a load, with the event a notify asked for (R172, R173). The load of a launch or of the scheduler is then
forgotten; with a launch's load, its contexts enter READY and its queue goes on (R346, R425). -/
def finishLoad (s : State) (x : Load) (st : LoadSt) (code : Nat) : State :=
  if x.ticket = 0 then
    let s1 := progress { s with loads := s.loads.filter (fun y => !isLoad x.ctx x.ticket y) } x.lease
    let le := s.lease x.lease
    if st != .done then s1
    else if le.starting then
      let s2 := modLeaseCtxs ((noteConf (bindRest s1 x) x.lease x.conf).modLease x.lease (fun y => { y with starting := false })) x.lease
        Ctx.thawed
      launchStarted s2 le.part le.queue le.seq
    else noteConf s1 x.lease x.conf
  else
    let s0 := trimLoads (setLoad s { x with st := st, fin := s.ordn + 1 }) x.ctx
    let s1 := if st == .done then noteConf s0 x.lease x.conf else s0
    progress (if x.notify then postEvent s1 x.ctx (evWord 0x01 code x.conf 0 x.ticket) else s1) x.lease

/-- R173. A load that passed its checks completes. -/
def execConfigLoadComplete (ctx ticket : Nat) (s : State) : Out :=
  .next (match findLoad s ctx ticket with
    | none => s
    | some x0 =>
      let x := (startLoad s x0).2
      if leaseLive s x.lease && x.st == .running && x.send.isEmpty && x.left.isEmpty then finishLoad (startLoad s x0).1 x .done 0
      else s)

/-- R173. A load whose checks failed ends refused with the offset of the first offending byte. -/
def execConfigLoadRefused (ctx ticket : Nat) (s : State) : Out :=
  .next (match findLoad s ctx ticket with
    | none => s
    | some x =>
      if !(leaseLive s x.lease && x.st == .reading) then s
      else match resolveLoad s x with
        | .ok _ => s
        | .error o => finishLoad (readImage s x) x (.refused o) 0x19)

/-! ### CFG.LOAD and CFG.WAIT (R172, R174) -/

def Load.open_ (x : Load) : Bool := x.st == .reading || x.st == .running

/-- R174: the number of a ticket names the newest load that has it: an older one that has ended keeps its place without it. -/
def Load.rename (k tk : Nat) (x : Load) : Load :=
  if x.ctx == k && x.ticket != 0 && x.ticket % 65536 == tk && !x.open_ then { x with ticket := x.ticket + 65536 } else x

/-- R172. Starts a configuration load from a lease image, giving a ticket. -/
def execCfgLoad (d : BitVec 5) (a : BitVec 3) (b : BitVec 5) (s : State) : Out :=
  let v := s.cc.rg b
  let k := me s
  let n := (s.loads.filter (fun x => x.ctx == k && x.ticket != 0 && x.open_)).length
  let tk := nextTicket s.cc.loadTk
  .next (checked s v (zeroAbove v 9 && (v.fld 0 7 < 64 || v.fld 0 7 == 0x7F))
    (if 4 ≤ n then retireG s d 0
     else
      let x : Load :=
        { ctx := k, ticket := tk, lease := myLease s, conf := v.fld 0 7, all := v.fld 8 1 == 1, notify := v.fld 7 1 == 1
          rm := s.cc.fcr.extractLsb' 0 2, image := (s.cc.ra a).toNat }
      retire { s with loads := s.loads.map (Load.rename k tk) ++ [x] } (fun c => ({ c with loadTk := tk } : Ctx).wg d (BitVec.ofNat 64 tk))))

/-- What a CFG.WAIT for tickets gives: none while one is outstanding, else the first refused load in issue order, if any. -/
def cfgWaitVal (s : State) (k : Nat) (ts : List Nat) : Option (Option Load) :=
  let ls := s.loads.filter (fun x => x.ctx == k && x.ticket != 0 && ts.contains x.ticket)
  if ls.any Load.open_ then none
  else some (ls.find? (fun x => match x.st with
    | .refused _ => true
    | _ => false))

/-- R174: the trap of a refused load, which is then forgotten. One that cannot be entered freezes the region (R153): the CFG.WAIT is
examined again when it goes on, and reports it then. -/
def cfgTrap (s : State) (k : Nat) (x : Load) : State :=
  let s1 : State := if (s.ctx k).traps then { s with loads := s.loads.filter (fun y => !isLoad x.ctx x.ticket y) } else s
  match x.st with
  | .refused o => fault s1 k 0x19 (BitVec.ofNat 64 o) 0 o
  | _ => s1

/-- The tickets that a CFG.WAIT covers. -/
def cfgTickets (s : State) (k t : Nat) : List Nat :=
  if t ≠ 0 then [t]
  else (s.loads.filter (fun x => x.ctx == k && x.ticket != 0 && (x.open_ || (match x.st with
    | .refused _ => true
    | _ => false)))).map (fun x => x.ticket)

/-- R174. Waits for one or all configuration loads of the context. -/
def execCfgWait (d a : BitVec 5) (s : State) : Out :=
  let t := (s.cc.rg a).toNat
  let k := me s
  let known := t < 65536 && s.loads.any (fun x => x.ctx == k && x.ticket == t && x.recent s)
  let ts := cfgTickets s k t
  .next (if t ≠ 0 && !known then retireG s d 3
    else match cfgWaitVal s k ts with
      | none => s.modC (fun c => { c with st := .waiting, wait := some (.cfg d ts) })
      | some none => retireG s d 0
      | some (some x) => cfgTrap s k x)

end Sys2Proof.Machine
end

