-- ==== Sys2Proof/Machine/Seams.lean ====
section
/-! DEFINITION. The seams between dies: modules, flits, replay, retrains and detours (12 R393 to R399). -/

namespace Sys2Proof.Machine

/-! ### Channels of a module (R393, R394) -/

/-- The link of a module that a tile's row or column uses: its first or its second. -/
def rowLink (n k : Nat) : Nat := (if n < 6 then tileRow k else tileCol k) % 2

/-- R393: the module of a seam that carries the mesh links of a tile's row or column. -/
def rowModule (n k : Nat) : Nat := n * 16 + (if n < 6 then tileRow k else tileCol k) / 2

/-- The tile and the input port at which a link of a module ends, in a direction. -/
def linkEnd (k dir link : Nat) : Nat × Nat :=
  let n := k / 16
  let i := 2 * (k % 16) + link
  let d := seamDies n
  if n < 6 then (if dir = 0 then (tileKey d.2 i 0, 3) else (tileKey d.1 i 31, 1))
  else if dir = 0 then (tileKey d.2 0 i, 0) else (tileKey d.1 31 i, 2)

/-- A router channel of the mesh that holds packets of memory nodes (R381, R382). -/
def meshKey (tile port cls vc : Nat) : Nat := tile * 128 + chanKey port cls vc
def meshChan (s : State) (key : Nat) : List NPkt := Tbl.get [] s.mesh key
def setMesh (s : State) (key : Nat) (ps : List NPkt) : State := { s with mesh := Tbl.set [] s.mesh key ps }

/-- R394: the tokens that stand in a receiving channel of a module: those for which the router's own channel has no room, or the packets
of accesses that wait for their next crossing. -/
def standing (s : State) (k dir c : Nat) : Nat :=
  let link := c / 16
  let cls := c / 2 % 8
  if link = 2 then (s.reqs.filter (fun q => q.came == some (2 * k + dir) && q.cls == cls)).length
  else
    let x := linkEnd k dir link
    (if cls = 1 || cls = 2 then (meshChan s (meshKey x.1 x.2 cls (c % 2))).length
      else ((s.tile x.1).chan (chanKey x.2 cls (c % 2))).length) - chanCap

/-! ### Widths and retrains (R396 to R398) -/

/-- Whether lanes [lo, lo + n) are free of faults. -/
def lanesOk (bad : BitVec 64) (lo n : Nat) : Bool := bad.fld lo n == 0

/-- R396: the widest width that uses no faulty lane, and its half or quarter, the lower first; lane repair keeps full width. -/
def lanesOf (bad : BitVec 64) : Nat × Nat :=
  if bad = 0 || Config.laneRepair bad then (0, 0)
  else match [0, 32].findIdx? (fun lo => lanesOk bad lo 32), [0, 16, 32, 48].findIdx? (fun lo => lanesOk bad lo 16) with
    | some i, _ => (1, i)
    | none, some i => (2, i)
    | none, none => (3, 0)

def widthOf (bad : BitVec 64) : Nat := (lanesOf bad).1

/-- R398: the owner's record of a change. -/
def seamRecord (s : State) (k : Nat) (opa : Nat) : State :=
  let ws := (({ code := 0, level := 0, opa } : FRec).words (timeNs s))
  postRecord s 0 0 (ws.set 1 (BitVec.ofNat 64 (k / 16 + k % 16 * 16)))

/-- The status of a module for its faulty lanes. -/
def SeamMod.settle (m : SeamMod) (width : Nat) : SeamMod :=
  { m with mstat := (m.mstat.put 6 2 width).put 5 1 (boolBit (m.bad != 0 && Config.laneRepair m.bad)) }

/-- R399: whether a seam is down and neither its detour nor a circuit serves it. -/
def cutOff (s : State) (n : Nat) : Bool := seamIsDown s n && !detourUp s n

/-- R399: the owner gets a record of each seam that is cut off and was not in `s0`. -/
def noteCut (s0 s : State) : State :=
  (List.range 10).foldl (fun s n => if cutOff s n && !cutOff s0 n then seamRecord s (n * 16) (2 ^ 64 - 1) else s) s

/-- Changes both directions of a module. -/
def modDirs (s : State) (k : Nat) (f : LinkDir → LinkDir → LinkDir) : State :=
  let m := seamMod s k
  setSeamMod s k { m with d0 := f m.d0 m.d1, d1 := f m.d1 m.d0 }

/-- The modules of a module's seam whose links it carries (R397). -/
def carriedBy (s : State) (c : Nat) : List Nat :=
  ((List.range 16).map (fun i => c / 16 * 16 + i)).filter (fun k => carrier s k == some c)

/-- R397: the credits of the tokens that were waiting on lanes that have failed come back. -/
def LinkDir.freeWaiting (d : LinkDir) : LinkDir := { d with used := d.used.map (fun e => (e.1, e.2 - d.onTheWay e.1)) }

/-- R397: what a module carried goes on over the one that takes its links: the flits not acknowledged are sent again. -/
def passLinks (s : State) (c : Nat) : State :=
  (carriedBy s c).foldl (fun s k => modDirs s k (fun d r => ({ d.freeWaiting with wire := [] } : LinkDir).again r 256)) s

/-- R397, R399, R439: a module takes a width. One that goes down hands its links over, and a seam that is cut off is reported. -/
def takeWidth (s : State) (k width part : Nat) : State :=
  let old := (seamMod s k).width
  let s0 := if width = 3 && old ≠ 3 then passLinks s k else s
  let m := { (seamMod s0 k).settle width with part, retrain := none, full := false, fails := 0 }
  let s1 := setSeamMod s0 k m
  let s2 := if old = width then s1 else seamRecord s1 k m.mstat.toNat
  let s3 := if width = 3 && old ≠ 3 then alarm s2 3 0 0 else s2
  let s4 := if seamIsDown s3 (k / 16) && !seamIsDown s (k / 16) then alarm s3 3 0 0 else s3
  noteCut s s4

/-- R396: a module starts a retrain: it carries nothing, and the flits on its lanes are not delivered. -/
def startRetrain (s : State) (k : Nat) (full : Bool) : State :=
  let s1 := (carriedBy s k).foldl (fun s j => modDirs s j (fun d _ => { d with wire := [] })) s
  let m := seamMod s1 k
  setSeamMod s1 k { m with retrain := some s.fc, full, mstat := bump16 m.mstat 16 }

/-- R396: faulty lanes of a module: lane repair replaces them; else the module retrains, or, with no width left, goes down. -/
def laneFaults (s : State) (k : Nat) (faulty : BitVec 64) : State :=
  let m := seamMod s k
  let bad := m.bad ||| faulty
  let s1 := setSeamMod s k { m with bad }
  if faulty = 0 then s
  else if Config.laneRepair bad then setSeamMod s k (({ m with bad } : SeamMod).settle m.width)
  else if widthOf bad = 3 then takeWidth s1 k 3 0
  else startRetrain s1 k false

/-- What a flit delivers: a token or a memory node's packet enters its channel, and a packet of an access has crossed; then packets that
waited for a credit go. -/
def landTokens (s : State) (ts : List FTok) : State :=
  pumpReqs (ts.foldl (fun s x =>
    if x.link = 2 then crossed s x
    else match x.pkt with
      | some p => setMesh s (meshKey x.tile x.port x.cls x.vc) (meshChan s (meshKey x.tile x.port x.cls x.vc) ++ [p])
      | none => s.modTile x.tile (fun t =>
        t.setChan (chanKey x.port x.cls x.vc) (t.chan (chanKey x.port x.cls x.vc) ++ [x.tok]))) s)

/-- R394: the flit that comes next on a direction of a module: the one on the lanes, else the one that its sender fills now. -/
def nextFlit (s : State) (k dir : Nat) : Option (LinkDir × LinkDir) :=
  let m := seamMod s k
  if (m.dir dir).wire.isEmpty then fillFlit 128 256 s.fc (standing s k (1 - dir)) (m.dir dir) (m.dir (1 - dir))
  else some (m.dir dir, m.dir (1 - dir))

/-- R395, R396. A seam side accepts, discards or naks a received flit. A CRC failure, and the lanes that disagree, are those of the module
that carries the flit (R397). -/
def execSeamFlitReceive (module dir : Nat) (crcOk : Bool) (faulty : BitVec 64) (s : State) : Out :=
  let m := seamMod s module
  .next (if 160 ≤ module || 2 ≤ dir || !flitsMove s module then s
    else match nextFlit s module dir with
      | none => s
      | some (d, r) =>
        if crcOk then
          let h := receiveGood 256 s.fc d r
          let m1 := (m.setDir dir h.d).setDir (1 - dir) h.r
          landTokens (setSeamMod s module (if h.replays then { m1 with mstat := bump16 m1.mstat 32 } else m1)) h.toks
        else
          let s1 := setSeamMod s module ((m.setDir dir d.reject).setDir (1 - dir) r)
          let c := (carrier s module).getD module
          let cm := seamMod s1 c
          let s2 := setSeamMod s1 c { cm with mstat := bump16 cm.mstat 48 }
          if (carrier s module).isSome then laneFaults s2 c faulty else s2)

/-- R395. 512 fc without acknowledgement resends from the oldest flit. -/
def execSeamReplayTimeout (module dir : Nat) (s : State) : Out :=
  let m := seamMod s module
  let d := m.dir dir
  .next (if 160 ≤ module || 2 ≤ dir || !d.overdue s.fc || !flitsMove s module then s
    else setSeamMod s module
      { m.setDir dir (d.timeout (m.dir (1 - dir)) 256 s.fc) with mstat := bump16 m.mstat 32 })

/-- R396, R397. A module finishes its 1 µs retrain: with no lane found faulty that it did not know, it takes the width that
its lanes allow; otherwise the retrain has failed, and it trains again, or goes down after 8 failures in a row. -/
def execSeamRetrainEnd (module : Nat) (faulty : BitVec 64) (s : State) : Out :=
  let m := seamMod s module
  let bad := if m.full then faulty else m.bad ||| faulty
  let s1 := setSeamMod s module { m with bad }
  let w := lanesOf bad
  .next (match m.retrain with
    | none => s
    | some t =>
      if 160 ≤ module || s.fc < t + 2100 then s
      else if m.full || faulty &&& ~~~m.bad = 0 then takeWidth s1 module w.1 w.2
      else if 8 ≤ m.fails + 1 || w.1 = 3 then takeWidth s1 module 3 0
      else startRetrain (setSeamMod s1 module { m with bad, fails := m.fails + 1 }) module false)

end Sys2Proof.Machine
end

