-- ==== Sys2Proof/Machine/Mesh.lean ====
section
/-! DEFINITION. The packets of memory nodes on the mesh: destination routing, the rings of a die and their datelines, the edge interfaces
and the tenant tags (12 R381 to R386, R392). A packet is one token (log entry 17). -/

namespace Sys2Proof.Machine

/-! ### Routes (R383, R385) -/

/-- Whether the source and the destination of a packet lie in the same die columns, or rows: it then goes round the ring of a row, or
column. -/
def NPkt.rowRing (p : NPkt) : Bool := tilePCol p.src / 32 == tilePCol p.dst / 32
def NPkt.colRing (p : NPkt) : Bool := tilePRow p.src / 32 == tilePRow p.dst / 32

/-- R385: the output that a packet takes at a tile: along the package row, then along the package column, the shorter way round a ring, east
or south on a tie; at its destination its own. -/
def NPkt.route (p : NPkt) (k : Nat) : Nat :=
  let way (ring : Bool) (here there up down : Nat) : Nat :=
    if ring then (if (there % 32 + 32 - here % 32) % 32 ≤ 16 then up else down) else if here < there then up else down
  if tilePCol k ≠ tilePCol p.dst then way p.rowRing (tilePCol k) (tilePCol p.dst) 1 3
  else if tilePRow k ≠ tilePRow p.dst then way p.colRing (tilePRow k) (tilePRow p.dst) 2 0
  else p.out

/-- R383: whether a link out of a tile is the wrap link of a ring. -/
def isWrap (k o : Nat) : Bool :=
  (o == 1 && tileCol k == 31) || (o == 3 && tileCol k == 0) || (o == 2 && tileRow k == 31) || (o == 0 && tileRow k == 0)

/-- The tile at the far end of the link that a packet takes: a wrap link closes a ring that it goes round, and else it crosses the seam. -/
def NPkt.nextTile (p : NPkt) (k o : Nat) : Option Nat :=
  if isWrap k o && (if o % 2 = 1 then p.rowRing else p.colRing) then
    some (if o % 2 = 1 then tileKey (tileDie k) (tileRow k) (31 - tileCol k) else tileKey (tileDie k) (31 - tileRow k) (tileCol k))
  else stepOut k o

/-- The input port at the far end of a mesh link. -/
def farPort (out : Nat) : Nat := (out + 2) % 4

/-- R386: the virtual channel of the next hop: lower on entering a die or a dimension, upper from a wrap link to the end of the dimension. -/
def nextVc (k j o port vc : Nat) : Nat :=
  if tileDie k ≠ tileDie j then 0 else if isWrap k o then 1 else if port = farPort o then vc else 0

/-! ### Where packets come from and go to -/

/-- The tenant tag of a lease (R31, R418). -/
def leaseTag (s : State) (l : Nat) : Nat := mkTag (s.lease l).part (s.lease l).slot

/-- Changes one of a lease's node accesses. -/
def modNode (s : State) (l id : Nat) (f : NodeReq → NodeReq) : State :=
  s.modLease l (fun x => { x with nodes := x.nodes.map (fun q => if q.id = id then f q else q) })

/-- The next request of a tile's memory nodes, for the port of its lane (R277). -/
def requestOf (s : State) (k : Nat) : Option NPkt :=
  ((s.tile k).lease).bind (fun l =>
    if !leaseLive s l then none
    else ((s.lease l).nodes.find? (fun q => q.tile == k && q.pos == .tile)).bind (fun q =>
      (portRec s l q.lane).bind (fun r => (portTile s l r).map (fun j =>
        { lease := l, id := q.id, tag := leaseTag s l, src := k, dst := j, out := r.edge }))))

/-- The next reply of the edge interface at a side of a tile. -/
def replyOf (s : State) (k side : Nat) : Option NPkt :=
  ((s.tile k).lease).bind (fun l => (sidePort s l k side).bind (fun r =>
    ((s.lease l).nodes.find? (fun q => q.lane == r.name && q.pos == .edge && (match q.st with
      | .performed _ => true
      | _ => false))).map (fun q => { lease := l, id := q.id, tag := leaseTag s l, src := k, dst := q.tile, out := 6 })))

/-- Where the packet of an input of a router comes from: a channel, or the unit that sends it. -/
inductive MeshSrc where
  | chan (key : Nat)
  | unit
deriving DecidableEq, Repr, Inhabited

/-- The packet that an input of a router offers. -/
def meshHead (s : State) (k port cls vc : Nat) : Option (MeshSrc × NPkt) :=
  match meshChan s (meshKey k port cls vc) with
  | p :: _ => some (.chan (meshKey k port cls vc), p)
  | [] =>
    if vc ≠ 0 then none
    else if cls = 1 && port = 6 then (requestOf s k).map (fun p => (.unit, p))
    else if cls = 2 && port < 4 then (replyOf s k port).map (fun p => (.unit, p))
    else none

/-- Takes the packet from its input. -/
def meshPop (s : State) (h : MeshSrc) (cls : Nat) (p : NPkt) : State :=
  match h with
  | .chan key => setMesh s key ((meshChan s key).drop 1)
  | .unit => modNode s p.lease p.id (fun q => { q with pos := if cls = 1 then .out else .back })

/-- R386: the outstanding requests of a port that its edge interface holds. -/
def edgeTable : Nat := 64
def edgeHeld (s : State) (l lane : Nat) : Nat := ((s.lease l).nodes.filter (fun q => q.lane == lane && q.pos == .edge)).length

/-- R392: a packet whose tag does not match is dropped, and the sending lease's region freezes. -/
def tagDrop (s : State) (k : Nat) (p : NPkt) : State := fabricFault s { tileRec s k 0x07 with lease := p.lease }

/-- A packet that has come to the last tile of its way: a reply to LOCAL, or a request to a free entry of the edge interface. -/
def meshDeliver (s : State) (k : Nat) (p : NPkt) : Option State :=
  if ((s.tile k).lease.map (leaseTag s)) ≠ some p.tag then some (tagDrop s k p)
  else if p.out = 6 then some (modNode s p.lease p.id (fun q => { q with pos := .home }))
  else match sidePort s p.lease k p.out with
    | none => some (tagDrop s k p)
    | some r =>
      if edgeTable ≤ edgeHeld s p.lease r.name then none
      else some (modNode s p.lease p.id (fun q => { q with pos := .edge }))

/-- A packet over a link to tile j, whose input is `port` there. -/
def meshLink (s : State) (k j port cls vc : Nat) (p : NPkt) : Option State :=
  if tileDie k = tileDie j then
    let key := meshKey j port cls vc
    if (meshChan s key).length < chanCap then some (setMesh s key (meshChan s key ++ [p])) else none
  else match seamOf (tileDie k) (tileDie j) with
    | none => none
    | some (n, up) =>
      let m := rowModule n k
      let dir := if up then 0 else 1
      if !flitsMove s m then none
      else (((seamMod s m).dir dir).send { tile := j, port, link := rowLink n k, cls, vc, pkt := some p }).map (fun d =>
        setSeamMod s m ((seamMod s m).setDir dir d))

/-- Whether the access of a packet still stands: its lease has not ended, nor its tile taken another configuration (R51, R348). -/
def NPkt.stands (p : NPkt) (s : State) : Bool := (s.lease p.lease).nodes.any (fun q => q.id == p.id)

/-- A packet's next move: its source, its output, and the state after it. One whose access stands no more is dropped. -/
def meshMove (s : State) (k port cls vc : Nat) : Option (MeshSrc × NPkt × Nat × State) :=
  match meshHead s k port cls vc with
  | none => none
  | some (h, p) =>
    let o := p.route k
    let t := meshPop s h cls p
    (if !p.stands s then some t
      else if tilePCol k = tilePCol p.dst && tilePRow k = tilePRow p.dst then meshDeliver t k p
      else (p.nextTile k o).bind (fun j => meshLink t k j (farPort o) cls (nextVc k j o port vc) p)).map (fun t => (h, p, o, t))

/-- The inputs of a router at which a packet may wait. -/
def meshInputs (s : State) (k : Nat) : List (Nat × Nat × Nat) :=
  (s.mesh.filter (fun e => e.1 / 128 == k)).map (fun e => (e.1 % 128 / 16, e.1 / 2 % 8, e.1 % 2))
    ++ (6, 1, 0) :: (List.range 4).map (fun p => (p, 2, 0))

/-- R284, R372: the accesses of a lease whose packets are on the mesh stand where they set out from; the packets go again from there. -/
def recallNodes (s : State) (l : Nat) : State :=
  let back (q : NodeReq) : NodeReq := match q.pos with
    | .out => { q with pos := .tile }
    | .back => { q with pos := .edge }
    | _ => q
  let s1 : State := { s with mesh := s.mesh.filterMap (fun e =>
    let ps := e.2.filter (fun p => p.lease != l)
    if ps.isEmpty then none else some (e.1, ps)) }
  (keepToks s1 (fun y => !((y.pkt.map (fun p => p.lease)) == some l))).modLease l (fun x => { x with nodes := x.nodes.map back })

end Sys2Proof.Machine
end

