-- ==== Sys2Proof/Machine/Router.lean ====
section
/-! DEFINITION. The routers: switch words, multicasts, packets, LOCAL delivery, lease boundaries (12 R381 to R392, 14 R443), and the checkpoint buffer (01 R17, 11 R370). -/

namespace Sys2Proof.Machine

/-! ### What a tile is in its lease -/

/-- Whether a tile is a press tile of the lease that holds it (R286, R207). -/
def isPressTile (s : State) (k : Nat) : Bool :=
  match (s.tile k).lease with
  | none => false
  | some l => isPress k && (match tileRect s l k with
    | some p => (pressAt (s.lease l).image).contains p
    | none => false)

/-- R288: the control queue of a press tile holds 16 tokens. -/
def ctlRoom (s : State) (k : Nat) : Bool := (s.tile k).press.ctl.length < 16
def ctlPush (s : State) (k : Nat) (x : PTok) : State :=
  s.modTile k (fun t => { t with press := { t.press with ctl := t.press.ctl ++ [x] } })

/-- The flue of a tile's column, and its requesters: rows 0 to 31, then the stokers of the block column by block row
(R306). -/
def flueKey (die col : Nat) : Nat := die * 32 + col
def flueOf (k : Nat) : Nat := flueKey (tileDie k) (tileCol k)

/-- Tokens of a request stream between the tile and its flue, which the spec does not bound: enough that a request is in
whole before it is granted (log entry 17). -/
def streamCap : Nat := 512

/-! ### The input side of a hop -/

/-- A route: an output with the switch word that names it. -/
abbrev Route := Nat × BitVec 16

/-- The switch words that a token follows, in ascending out (R68, R389, R443). A class-3 packet of a stoker enters at TREE,
which no class-3 word may name (R120): it follows the words of the tile's own packets (log entry 17). -/
def Tile.routes (t : Tile) (port cls vc rc : Nat) : List Route :=
  let inp := if port = 7 && cls = 3 then 6 else port
  let ws := (t.sw.map (fun e => e.2)).filter (fun w =>
    w != 0 && swIn w == inp && swCls w == cls && (cls != 3 || swRc w == rc) && (port != 6 || cls == 3 || swOut w % 4 == vc))
  (List.range 8).filterMap (fun o => (ws.find? (fun w => swOut w == o)).map (fun w => (o, w)))

/-- The context whose packet is entering at a tile's TREE port: one that has begun, else the first. -/
def rcSender (s : State) (k : Nat) : Option Nat :=
  let cs := s.ctxs.filter (fun e => !e.2.sendBuf.isEmpty && e.2.sendTile == k && leaseLive s e.2.lease)
  let begun := cs.find? (fun e => (e.2.sendBuf.headD {}).kind != 6)
  (begun.orElse (fun _ => cs.head?)).map (fun e => e.1)

/-- Where the tokens of an input come from: a router channel, its saved part in the checkpoint buffer (R17), an output
queue, or a stoker's send buffer. -/
inductive HopSrc where
  | chan (c : Nat)
  | ckpt (i : Nat)
  | out (q cls : Nat)
  | send (ctx : Nat)
deriving DecidableEq, Repr, Inhabited

/-- The token that an input offers, with the branches that have taken it. -/
def hopHead (s : State) (k port cls vc : Nat) : Option (HopSrc × ChTok) :=
  let t := s.tile k
  let l := t.lease.getD 0
  if port = 6 && cls ≠ 3 then
    match t.oq vc with
    | [] => none
    | x :: _ => some (.out vc cls, { tok := x, lease := l, taken := Tbl.get [] t.otaken (vc + 4 * cls) })
  else if port = 7 then
    if cls ≠ 3 || vc ≠ 0 then none
    else match rcSender s k with
      | none => none
      | some c =>
        some (.send c, { tok := (s.ctx c).sendBuf.headD {}, lease := l, rc := (s.ctx c).sendRc
                         taken := Tbl.get [] t.otaken (32 + 4 * cls) })
  else
    let c := chanKey port cls vc
    match t.ckpt.findIdx? (fun e => e.1 == c), t.divert.contains c with
    | some i, false =>
      match t.ckpt[i]? with
      | some e => some (.ckpt i, { e.2 with lease := l })
      | none => none
    | _, _ => (t.chan c).head?.map (fun x => (.chan c, x))

/-- R182: the router takes from an output queue after an EXT of the same fc. -/
def serveOut (s : State) (k : Nat) (h : HopSrc) : State :=
  match h with
  | .out q _ => serve s (.outq k q) 1
  | _ => s

/-- Removes the token of an input. -/
def hopPop (s : State) (k : Nat) (h : HopSrc) : State :=
  match h with
  | .chan c => s.modTile k (fun t => t.setChan c ((t.chan c).drop 1))
  | .ckpt i => s.modTile k (fun t => { t with ckpt := t.ckpt.eraseIdx i })
  | .out q cls => s.modTile k (fun t => ({ t.setOq q ((t.oq q).drop 1) with otaken := Tbl.set [] t.otaken (q + 4 * cls) [] }).note)
  | .send c =>
    (s.modCtx c (fun x => { x with sendBuf := x.sendBuf.drop 1 })).modTile k (fun t =>
      { t with otaken := Tbl.set [] t.otaken 44 [] })

/-- Notes the branches of a multicast that have taken the token of an input (R387). -/
def hopTaken (s : State) (k : Nat) (h : HopSrc) (os : List Nat) : State :=
  match h with
  | .chan c =>
    s.modTile k (fun t => match t.chan c with
      | [] => t
      | x :: r => t.setChan c ({ x with taken := os } :: r))
  | .ckpt i =>
    s.modTile k (fun t => match t.ckpt[i]? with
      | none => t
      | some e => { t with ckpt := t.ckpt.set i (e.1, { e.2 with taken := os }) })
  | .out q cls => s.modTile k (fun t => { t with otaken := Tbl.set [] t.otaken (q + 4 * cls) os })
  | .send _ => s.modTile k (fun t => { t with otaken := Tbl.set [] t.otaken 44 os })

/-! ### The output side of a hop: none where the token cannot move now -/

/-- Whether LOCAL is in the middle of a class-3 packet (R382, R389). -/
def holdKey (out cls : Nat) : Nat := out * 8 + cls
def Tile.held (t : Tile) (out cls : Nat) : Nat := Tbl.get 0 t.hold (holdKey out cls)

/-- A waiting input of a router. -/
def tripleId (port cls vc : Nat) : Nat := (port * 8 + cls) * 4 + vc

/-- Delivery at LOCAL (R202, R249, R288, R389, R390, R443). Of one fc's tokens to a queue, that of a lower-numbered in port enters
first, then an INJ (R181), and those of stokers to a control queue follow the router's (R288). Packets of class 3 enter in the order of
their arrival at LOCAL, so that one of a masked class, or without a handler, stalls those behind it (R201). -/
def toLocal (s : State) (k port cls : Nat) (x : ChTok) : Option State :=
  let t := s.tile k
  if cls = 3 then
    if x.tok.kind = 6 && (t.rcMask.contains x.rc || Tbl.get 8 t.rcHandler x.rc == 8 || t.localQ.head? != some (tripleId port 3 0)) then none
    else if t.qRoom 3 && !lateFor s (.inq k 3) port then some (serve (arriveQ s k 3 x.tok) (.inq k 3) port) else none
  else if x.tok.kind = 7 then some (if badToken x.tok then dropToken s k x.tok else s)
  else if x.tok.kind = 5 && isPressTile s k then
    if ctlRoom s k && !lateFor s (.ctl k) 0 then some (ctlPush s k { word := x.tok.pay }) else none
  else
    let q := port % 4
    if t.qRoom q && (q ≠ 3 || t.held 6 3 = 0) && !lateFor s (.inq k q) port then
      some (serve (arriveQ s k q x.tok) (.inq k q) port)
    else none

/-- R308: fields of a flue control token. -/
def fluFn (w : Code) : Nat := w.fld 28 4
def fluFmt (w : Code) : Nat := w.fld 24 4
def fluCnt (w : Code) : Nat := w.fld 16 8 + 1

/-- R312: a malformed control token. -/
def flueBad (w : Code) : Bool := 9 ≤ fluFn w || !(fluFmt w == 4 || fluFmt w == 5) || w.fld 0 16 != 0

/-- The values that the last request of a stream still lacks, and whether its control token is malformed; 0 between requests. -/
def burstOpen (a : Nat × Bool) : List Token → Nat × Bool
  | [] => a
  | x :: r =>
    burstOpen (if a.1 = 0 then (if x.kind = 5 then (fluCnt x.pay, flueBad x.pay) else a)
      else if x.kind = 2 then (0, false) else (a.1 - 1, a.2)) r

/-- A flue request leaves at TREE in class 4 (R307), unless its lease drains (R370). A header in a burst is dropped as it comes,
with fault 0x02 (R309), and so is a malformed token (R38). -/
def toFlue (s : State) (k : Nat) (x : ChTok) : Option State :=
  let t := s.tile k
  let open_ := burstOpen (0, false) t.fstream
  if (s.lease x.lease).st ≠ .running then none
  else if x.tok.kind = 1 && 0 < open_.1 && !open_.2 then some (fabricFault s { tileRec s k 0x02 with opa := x.tok.pay.toNat })
  else if badToken x.tok then some (dropToken s k x.tok)
  else if streamCap ≤ t.fstream.length then none
  else some (s.setTile k { t with fstream := t.fstream ++ [x.tok] })

/-- A token reaches the edge engine of a write port (R180, R384). A malformed one is dropped there with 0x02 (R69, R70, R121). -/
def toEngine (s : State) (l p : Nat) (x : ChTok) : Option State :=
  let e := eng s l p
  if !e.bound || !e.dir || !leaseLive s l then none
  else if (e.st == .finished || e.st == .running) && (badToken x.tok || (x.tok.kind = 1 && 11 ≤ x.tok.pay.fld 11 4)) then
    some (lateFault s { tileRec s e.tile 0x02 with lease := l, opa := x.tok.pay.toNat, edge := true, lane := p % 8, step := p / 8 })
  else if e.st == .finished && (x.tok.kind = 1 || x.tok.kind = 2) then some s
  else if e.st ≠ .running || 16 ≤ e.inbuf.length then none
  else some (setEng s l p { e with inbuf := e.inbuf ++ [x.tok] })

/-- R51: whether a link leads from a tile that a load has reconfigured to one that it has not yet reached. -/
def waveHolds (s : State) (l a b : Nat) : Bool :=
  s.loads.any (fun x => x.lease == l && x.st == .running && x.left.contains b && x.names.contains a && !x.left.contains a)

/-- The next stop of a ring at a tile: CW goes on to stop i + 1, CCW to stop i − 1; the far end is the other ring port. -/
def ringStep (s : State) (l k out : Nat) : Option Nat :=
  (s.lease l).image.rings.findSome? (fun r =>
    let ts := r.stops.map (fun p => rectTile s l 0 p.1 p.2)
    match ts.findIdx? (fun x => x == some k) with
    | none => none
    | some i => (ts[(if out = 4 then i + 1 else i + ts.length - 1) % ts.length]?).join)

/-- R391, R392: a token dropped at a lease boundary. -/
def firewallDrop (s : State) (k : Nat) (x : ChTok) : State :=
  let l := x.lease
  let s1 := fabricFault s { tileRec s k 0x07 with lease := l, opa := x.tok.kind.toNat * 2 ^ 32 + x.tok.pay.toNat }
  alarm s1 0 (mkTag (s.lease l).part (s.lease l).slot) l

/-- A token sent over the link to tile j, whose input is `port` there. -/
def toLink (s : State) (k j port cls : Nat) (sanc : Bool) (x : ChTok) : Option State :=
  let there := (s.tile j).lease
  if there ≠ some x.lease && !(sanc && there.isSome) then some (firewallDrop s k x)
  else if cls = 0 && waveHolds s x.lease k j then none
  else
    let y : ChTok := { x with lease := there.getD x.lease, taken := [] }
    let c := chanKey port cls 0
    if tileDie k = tileDie j then
      if ((s.tile j).chan c).length < chanCap then some (s.modTile j (fun t => t.setChan c (t.chan c ++ [y]))) else none
    else match seamOf (tileDie k) (tileDie j) with
      | none => none
      | some (n, up) =>
        let m := rowModule n k
        let dir := if up then 0 else 1
        if !flitsMove s m then none
        else (((seamMod s m).dir dir).send { tile := j, port, link := rowLink n k, cls, tok := y }).map (fun d =>
          setSeamMod s m ((seamMod s m).setDir dir d))

/-- A token sent out of an output of a router by a switch word. -/
def sendOut (s : State) (k port cls : Nat) (r : Route) (x : ChTok) : Option State :=
  let o := r.1
  if o = 6 then toLocal s k port cls x
  else if o = 7 then toFlue s k x
  else if o = 4 || o = 5 then
    match ringStep s x.lease k o with
    | none => none
    | some j => toLink s k j (9 - o) cls (swSanc r.2) x
  else match (if cls = 0 then sidePort s x.lease k o else none) with
    | some p =>
      if swSanc r.2 && !(eng s x.lease p.name).bound then (stepOut k o).bind (fun j => toLink s k j (farPort o) cls true x)
      else if p.dir then toEngine s x.lease p.name x else none
    | none => match stepOut k o with
      | none => none
      | some j => toLink s k j (farPort o) cls (swSanc r.2) x

/-! ### Arbitration (R382, R387, R388) -/

/-- The next branch of a token: the first that has not taken it. -/
def nextBranch (t : Tile) (port cls vc : Nat) (x : ChTok) : Option Route :=
  (t.routes port cls vc x.rc).find? (fun r => !x.taken.contains r.1)

/-- Whether an output's channel is free for the packet of an input: none other holds it (R382). -/
def Tile.free (t : Tile) (out port cls vc : Nat) : Bool :=
  let h := t.held out cls
  h == 0 || h % 1024 == tripleId port cls vc + 1

/-- A token's next move: its branch and the state after it. -/
def hopMove (s : State) (k port cls vc : Nat) : Option (HopSrc × ChTok × Route × State) :=
  match hopHead s k port cls vc with
  | none => none
  | some (h, x) =>
    match nextBranch (s.tile k) port cls vc x with
    | none => none
    | some r =>
      if !(s.tile k).free r.1 port cls vc then none
      else (sendOut s k port cls r x).map (fun s1 => (h, x, r, s1))

/-- The inputs of a router that hold a token. -/
def inputs (s : State) (k : Nat) : List (Nat × Nat × Nat) :=
  let t := s.tile k
  let cs := (t.chans.map (fun e => e.1) ++ t.ckpt.map (fun e => e.1)).map (fun c => (c / 16, c / 2 % 8, c % 2))
  let os := t.outq.flatMap (fun e => [(6, 0, e.1), (6, 1, e.1), (6, 2, e.1), (6, 4, e.1)])
  cs ++ os ++ (7, 3, 0) :: meshInputs s k

/-- The output that the head of an input could move to now, if any. -/
def movesTo (s : State) (k port cls vc : Nat) : Option Nat :=
  if cls = 1 || cls = 2 then (meshMove s k port cls vc).map (fun r => r.2.2.1)
  else (hopMove s k port cls vc).map (fun r => r.2.2.1.1)

/-- R382: whether an input is the one that an output serves next: none that could move to it stands between the last it
served and this one. -/
def isTurn (s : State) (k out : Nat) (me_ : Nat) : Bool :=
  let last := Tbl.get 0 (s.tile k).rr out
  let dist (i : Nat) : Nat := (i + 512 - last) % 256
  (inputs s k).all (fun p =>
    let i := tripleId p.1 p.2.1 p.2.2
    i == me_ || dist me_ ≤ dist i || movesTo s k p.1 p.2.1 p.2.2 != some out)

/-- Notes what holds an output's channel: a packet, with its remaining data tokens and its input (R382, R388), or a token that has not
taken all its branches yet, which holds those that it has (R387). -/
def Tile.holdFor (t : Tile) (out port cls vc : Nat) (x : ChTok) (all : Bool) : Tile :=
  let mine := tripleId port cls vc + 1
  if cls ≠ 3 then
    if all then { t with hold := t.hold.filter (fun e => !(e.1 % 8 == cls && e.2 % 1024 == mine)) }
    else { t with hold := Tbl.set 0 t.hold (holdKey out cls) (1024 + mine) }
  else
    let left := if x.tok.kind = 6 then x.tok.pay.fld 19 8 + 1 else t.held out cls / 1024 - 1
    { t with hold := Tbl.set 0 t.hold (holdKey out cls) (if left = 0 then 0 else left * 1024 + tripleId port cls vc + 1) }

/-- R51: the mark of an EOS as the last token sent on a link. -/
def Tile.markEos (t : Tile) (out cls : Nat) (x : Token) : Tile :=
  if cls ≠ 0 || 6 ≤ out then t
  else if x.kind = 2 then { t with eosOut := if t.eosOut.contains out then t.eosOut else t.eosOut ++ [out] }
  else { t with eosOut := t.eosOut.filter (fun o => o != out) }

/-- R389: a class-3 token with no matching word is dropped; a head freezes the sending lease's region. -/
def rcDrop (s : State) (k : Nat) (h : HopSrc) (x : ChTok) : State :=
  let s1 := hopPop s k h
  if x.tok.kind = 6 then fabricFault s1 { tileRec s1 k 0x02 with lease := x.lease, opa := x.tok.pay.toNat } else s1

/-- R370: during a drain a marker, and every token behind it on its link, goes to the checkpoint buffer of 64 tokens. -/
def divertTok (s : State) (k c : Nat) (x : ChTok) : State :=
  let t := s.tile k
  if 64 ≤ t.ckpt.length then s
  else s.setTile k
    { t.setChan c ((t.chan c).drop 1) with
      ckpt := t.ckpt ++ [(c, x)], divert := if t.divert.contains c then t.divert else t.divert ++ [c] }

/-- Whether a lease drains, in a drain or in the drain of a move. -/
def draining (s : State) (l : Nat) : Bool := (s.lease l).st == .draining || (s.lease l).st == .moving

/-- The inputs of a tile whose class-3 heads wait at LOCAL, in the order of their arrival there; those of one step by port (R201). -/
def noteLocal (s : State) (k : Nat) : State :=
  let at_ (i : Nat) : Bool := match hopHead s k (i / 32) 3 0 with
    | none => false
    | some (_, x) => x.tok.kind == 6 && ((nextBranch (s.tile k) (i / 32) 3 0 x).map (fun r => r.1)) == some 6
  let now := ((List.range 8).map (fun p => tripleId p 3 0)).filter at_
  s.modTile k (fun t =>
    let old := t.localQ.filter (fun i => now.contains i)
    { t with localQ := old ++ now.filter (fun i => !old.contains i) })

/-- One token of an input moves to its next branch. -/
def hop (s : State) (k port cls vc : Nat) : State :=
  match (s.tile k).lease with
  | none => s
  | some l =>
    if !leaseLive s l || (port = 6 && !mayInject s l) || (port = 7 && !mayInject s l) then s
    else match hopHead s k port cls vc with
      | none => s
      | some (h, x) =>
        let c := chanKey port cls vc
        if port < 6 && cls = 0 && draining s l && ((s.tile k).divert.contains c || x.tok.kind = 7) then divertTok s k c x
        else if cls = 3 && ((s.tile k).routes port cls vc x.rc).isEmpty then rcDrop s k h x
        else match hopMove s k port cls vc with
          | none => s
          | some (_, _, r, s1) =>
            if !isTurn s k r.1 (tripleId port cls vc) then s
            else
              let os := x.taken ++ [r.1]
              let all := ((s.tile k).routes port cls vc x.rc).all (fun q => os.contains q.1)
              let s2 := serveOut (if all then hopPop s1 k h else hopTaken s1 k h os) k h
              let first := x.taken.isEmpty && (port = 6 || port = 7)
              let s3 := if first then countInj s2 l (tileDie k) else s2
              s3.modTile k (fun t =>
                (({ t with rr := Tbl.set 0 t.rr r.1 ((tripleId port cls vc + 1) % 256) }.holdFor r.1 port cls vc x all).markEos r.1 cls
                  x.tok).applyWaiting)

/-- R382, R385: one packet of a memory node moves on towards its destination. It passes through the routers of tiles of any lease or of none
(R392), and of units that have stopped (R365). -/
def meshHop (s : State) (k port cls vc : Nat) : State :=
  match meshMove s k port cls vc with
  | none => s
  | some (_, _, o, s1) =>
    if !isTurn s k o (tripleId port cls vc) then s
    else s1.modTile k (fun t => { t with rr := Tbl.set 0 t.rr o ((tripleId port cls vc + 1) % 256) })

/-- R382. A router output port serves one waiting token. -/
def execRouterTokenHop (tile port cls vc : Nat) (s : State) : Out :=
  .next (if 8 ≤ port || 6 ≤ cls || 4 ≤ vc then s
    else if cls = 1 || cls = 2 then (if vc < 2 then meshHop s tile port cls vc else s)
    else hop (noteLocal s tile) tile port cls vc)

end Sys2Proof.Machine
end

