-- ==== Sys2Proof/Machine/Fabric.lean ====
section
/-! DEFINITION. Fabric control forms of a stoker: OPW, SWW, INJ, EXT, SWEEP, route classes, events and press forms (06 R167 to R186, R200 to R208, 11 R368). -/

namespace Sys2Proof.Machine

/-! ### Traffic of the forms (R168, R171, R358) -/

/-- A form that reaches a tile of another block does so over the tree and trunk, as one injected token; while its lease has spent its
injection budget, or the way to another die is cut (R399), it waits, so the context issues it again. -/
def overTree (s : State) (tile : Nat) (k : State → State) : State :=
  if tileStoker tile = me s / 8 then k s
  else if mayInject s (myLease s) && blocksMeet s (me s / 8) (tileStoker tile) then k (countInj s (myLease s) (ctxDie (me s)))
  else s

/-- A form that reaches several tiles: one injected token for each in another block. -/
def overTrees (s : State) (tiles : List Nat) (k : State → State) : State :=
  let far := (tiles.filter (fun t => tileStoker t != me s / 8)).length
  if far = 0 then k s
  else if mayInject s (myLease s) && tiles.all (fun t => blocksMeet s (me s / 8) (tileStoker t)) then
    k (countInjN s (myLease s) (ctxDie (me s)) far)
  else s

/-- A selector with the fields that its form uses. -/
def selOf (s : State) (v : Word) (flag sub idx : Bool) : Option Nat :=
  let n := v.toNat
  if selHigh n && (flag || !selFlag n) && (sub || selSub n = 0) && (idx || selIdx n = 0) then selTile s (myLease s) n else none

/-- A form on the tile that such a selector names; any other value traps (R169). -/
def onSel (s : State) (v : Word) (flag sub idx : Bool) (k : Nat → State) : State :=
  match selOf s v flag sub idx with
  | none => raiseOp s v
  | some t => k t

/-! ### OPW and SWW (R176, R177, R120) -/

/-- The actors whose run holds a position, before or after a change of the words. -/
def actorsAt (t n : Tile) (key : Nat) : List Nat :=
  let on (t : Tile) (i : Nat) : Bool :=
    let d := t.desc i
    dValid d && dLane0 d ≤ key % 8 && key % 8 < dLane0 d + dLanes d
      && ((t.runOf t.allSeconds d (dEntry d) 33).getD (t.runSteps d (dEntry d) 32)).contains (key / 8)
  (List.range 8).filter (fun i => on t i || on n i)

/-- R176: whether an OPW of a word at a key fails its checks. Flag 0 says that the word is no word 1 of a node, and only word 0's and a
plain word's checks are made of it: one at the position after a node's word 0 is accepted, and the tile reads it as word 1 (DESIGN
CHOICE, log entry 28). -/
def opwBad (s : State) (k key : Nat) (second : Bool) (w : Code) : Bool :=
  let t := s.tile k
  let n : Tile := { t with ops := Tbl.set 0 t.ops key w }
  let press := isPressTile s k
  let alone :=
    if second then
      key < 8 || (let x := t.op (key / 8 - 1) (key % 8)
        !isNodeWord x || t.allSeconds.contains (key - 8) || (Form.nodeBad (x.fld 25 7) (x.extractLsb' 22 3) (x.extractLsb' 19 3) (x.extractLsb' 16 3)
          (x.extractLsb' 12 4) (x.extractLsb' 0 12) (w.extractLsb' 22 10) (w.extractLsb' 12 10) (w.extractLsb' 2 10)
          (w.extractLsb' 1 1) (w.extractLsb' 0 1)).isSome)
    else if isNodeWord w then
      key / 8 == 31 || (Form.node0Bad (w.fld 25 7) (w.extractLsb' 22 3) (w.extractLsb' 19 3) (w.extractLsb' 16 3) (w.extractLsb' 12 4)
        (w.extractLsb' 0 12)).isSome
    else n.wordBad [] press key w
  alone || (actorsAt t n key).any (n.actorBad n.allSeconds press)

/-- R52: a word that reaches a tile in the middle of a firing waits for its end. -/
def writeOp (s : State) (k key : Nat) (w : Code) : State :=
  s.modTile k (fun t =>
    if t.firing.isSome then { t with late := t.late ++ [{ sw := false, key, word := w }] } else (t.applyOp key w).note)

/-- R176. Writes an operation word into a tile's op store. -/
def execOpw (a b : BitVec 5) (s : State) : Out :=
  let v := s.cc.rg a
  let w : Code := (s.cc.rg b).setWidth 32
  .next (onSel s v true true true (fun k => overTree s k (fun s =>
    let key := selIdx v.toNat * 8 + selSub v.toNat
    if opwBad s k key (selFlag v.toNat) w then
      lateFault (retire s id) { tileRec s k 0x02 with opa := w.toNat, lane := key % 8, step := key / 8 }
    else retire (writeOp s k key w) id)))

/-- R177. Writes a switch word of a tile's router. A CW or CCW word is tested against the rings of the lease's own image, that of its
LAUNCH, whichever image's configuration the tile runs (R120; DESIGN CHOICE, log entry 28). -/
def execSww (a b : BitVec 5) (s : State) : Out :=
  let v := s.cc.rg a
  let x := s.cc.rg b
  let w : BitVec 16 := x.setWidth 16
  .next (onSel s v false false true (fun k =>
    if x.fld 16 48 ≠ 0 || swSanc w then raiseOp s x
    else
      let i := selIdx v.toNat
      let others := ((s.tile k).sw.filter (fun e => e.1 != i)).map (fun e => e.2)
      if switchBad s (s.lease (myLease s)).image (myLease s) k others w then raise s 0x01 x 0
      else overTree s k (fun s => retire (writeSw s k i w) id)))

/-! ### INJ and EXT (R181, R182) -/

/-- R181. Injects one token into a tile input queue. While a packet is entering q3, which enters whole (R202), q3 is busy (log entry 14). -/
def execInj (d a b : BitVec 5) (s : State) : Out :=
  let v := s.cc.rg a
  let x := s.cc.rg b
  let q := selSub v.toNat
  .next (if 3 < q then raiseOp s v
    else onSel s v false true false (fun k =>
      if x.fld 36 28 ≠ 0 || 5 < x.fld 32 4 then raise s 0x02 0 0
      else if (s.lease (myLease s)).st ≠ .running then retireG s d 5
      else if !(s.tile k).qRoom q || (q = 3 && (s.tile k).held 6 3 ≠ 0) then retireG s d 1
      else if !mayInject s (myLease s) || !blocksMeet s (me s / 8) (tileStoker k) then s
      else
        let s1 := serve (countInj s (myLease s) (tileDie k)) (.inq k q) 8
        arriveQ (retireG s1 d 0) k q { kind := x.extractLsb' 32 4, pay := x.extractLsb' 0 32 }))

/-- The token that EXT takes: the first that no branch of a multicast has taken. -/
def Tile.extIdx (t : Tile) (q : Nat) : Nat :=
  if t.otaken.any (fun e => e.1 < 32 && e.1 % 4 == q && !e.2.isEmpty) then 1 else 0

/-- R182. Extracts the head token of a tile output queue, before the router takes one in the same fc. -/
def execExt (d a : BitVec 5) (s : State) : Out :=
  let v := s.cc.rg a
  let q := selSub v.toNat
  .next (if 3 < q then raiseOp s v
    else onSel s v false true false (fun k =>
      if lateFor s (.outq k q) 0 then s
      else overTree s k (fun s =>
        let i := (s.tile k).extIdx q
        match ((s.tile k).oq q)[i]? with
        | none => retireG s d (BitVec.ofNat 64 (2 ^ 63))
        | some x =>
          retireG (s.modTile k (fun t => (t.setOq q ((t.oq q).eraseIdx i)).note)) d
            (BitVec.ofNat 64 (x.kind.toNat * 2 ^ 32 + x.pay.toNat)))))

/-! ### The stall sweep (R186, R368) -/

/-- A tile's place in its lease's (rect, row, col) order. -/
def rectOrder (s : State) (l k : Nat) : Nat :=
  match tileRect s l k with
  | some (a, b, c) => a * 2 ^ 13 + b * 2 ^ 7 + c
  | none => 2 ^ 20

/-- The tiles of a lease in ascending (rect, row, col). -/
def sortedTiles (s : State) (l : Nat) : List Nat := sortBy (rectOrder s l) (leaseTiles s l)

/-- Four flags of queues 3 to 0. -/
def flags4 (f : Nat → Bool) : Nat := (List.range 4).foldl (fun a q => a + boolBit (f q) * 2 ^ q) 0

/-- R368: an actor's entry. -/
def actorEntry (s : State) (l k i : Nat) : Word :=
  let t := s.tile k
  let d := t.desc i
  BitVec.ofNat 64
    (logDie s 2 (s.lease l).part (tileDie k) + tileRow k * 2 ^ 3 + tileCol k * 2 ^ 8 + i * 2 ^ 13
      + flags4 (fun q => dInq d q != 0) * 2 ^ 16 + flags4 (fun q => dInq d q != 0 && t.holds i q) * 2 ^ 20
      + flags4 (fun q => t.room q < dOutq d q) * 2 ^ 24 + dTag d * 2 ^ 28)

/-- A join that holds some but not all of its inputs. -/
def Tile.stalledJoin (t : Tile) (i : Nat) : Bool :=
  let d := t.desc i
  let gated := (List.range 4).filter (fun q => dInq d q != 0)
  dValid d && gated.any (fun q => t.holds i q) && gated.any (fun q => !t.holds i q)

/-- An actor whose inputs are there and whose outputs lack room. -/
def Tile.stalledOut (t : Tile) (i : Nat) : Bool :=
  let d := t.desc i
  let gated := (List.range 4).filter (fun q => dInq d q != 0)
  dValid d && !gated.isEmpty && gated.all (fun q => t.holds i q) && (List.range 4).any (fun q => t.room q < dOutq d q)

/-- Entries of the tiles of a lease for the actors that satisfy `p`. -/
def sweepTiles (s : State) (l : Nat) (p : Tile → Nat → Bool) : List Word :=
  (sortedTiles s l).flatMap (fun k => ((List.range 8).filter (p (s.tile k))).map (actorEntry s l k))

/-- Stores words upward from a VA. -/
def storeWords (s : State) (k va : Nat) : List Word → Except (Nat × Nat) State
  | [] => .ok s
  | w :: r =>
    match writeVa s k (va % 2 ^ 80) 8 w.toNat with
    | .error c => .error (c, va % 2 ^ 80)
    | .ok s1 => storeWords s1 k (va + 8) r

/-- R186. Sweeps presence bits and stores a list of stalled joins. -/
def execSweep (d : BitVec 5) (a : BitVec 3) (b : BitVec 5) (s : State) : Out :=
  let v := s.cc.rg b
  let va := (s.cc.ra a).toNat
  let s0 := s
  .next (checked s v (zeroAbove v 16)
    (let es := sweepTiles s (myLease s) Tile.stalledJoin
     let out := es.take v.toNat
     if !out.isEmpty && va % 8 ≠ 0 then raiseVa s 0x03 va
     else overTrees s (leaseTiles s (myLease s)) (fun s =>
       match storeWords s (me s) va out with
       | .error (code, x) => if code = heldCode then s0 else accFault s (me s) code x
       | .ok s1 => retireG s1 d (BitVec.ofNat 64 es.length))))

/-! ### Route classes (R200 to R202) -/

/-- R200: whether the stoker's send buffer holds a packet. -/
def sendFull (s : State) : Bool := (List.range 8).any (fun i => !(s.ctx (me s / 8 * 8 + i)).sendBuf.isEmpty)

/-- R200. Sends a route-class packet from a source tile. In a drain the status is 5, with a full send buffer too (DESIGN CHOICE, log entry
28). -/
def execRcSend (d a : BitVec 5) (b : BitVec 3) (s : State) : Out :=
  let v := s.cc.rg a
  let rc := v.fld 0 5
  let n := v.fld 5 8 + 1
  let va := (s.cc.ra b).toNat
  .next (if rc = 0 then raiseOp s v
    else match selOf s (BitVec.ofNat 64 (v.fld 32 32)) false false false with
      | none => raiseOp s v
      | some k =>
        if (s.lease (myLease s)).st ≠ .running then retireG s d 5
        else if sendFull s then retireG s d 1
        else if va % 4 ≠ 0 then raiseVa s 0x03 va
        else match readVaWords s (me s) 4 va n with
          | .error (code, x) => formFault s (me s) code x
          | .ok (s1, ws) =>
            let head : Token := { kind := 6, pay := BitVec.ofNat 32 (rc * 2 ^ 27 + (n - 1) * 2 ^ 19 + v.fld 13 19) }
            retire s1 (fun c =>
              ({ c with sendBuf := head :: ws.map (fun w => dataTok (BitVec.ofNat 32 w)), sendTile := k, sendRc := rc } : Ctx).wg d 0))

/-- The tiles that an RC form names: one, or every tile of the lease in the issuing block. -/
def rcTiles (s : State) (v : Word) (k : Nat) : List Nat :=
  if selFlag v.toNat then (leaseTiles s (myLease s)).filter (fun x => tileStoker x == me s / 8) else [k]

/-- RC.MASK and RC.UNMASK, which take effect at the end of the fc (R201). -/
def rcMaskForm (s : State) (v : Word) (on : Bool) : State :=
  let rc := selIdx v.toNat
  if rc = 0 then raiseOp s v
  else onSel s v true false true (fun k => overTree s (if selFlag v.toNat then blockTile (me s / 8) else k) (fun s =>
    retire { s with dues := s.dues ++ (rcTiles s v k).map (fun x => .mask x rc on) } id))

/-- R201. Masks a route class at a tile. -/
def execRcMask (a : BitVec 5) (s : State) : Out :=
  .next (rcMaskForm s (s.cc.rg a) true)
/-- R201. Unmasks a route class at a tile. -/
def execRcUnmask (a : BitVec 5) (s : State) : Out :=
  .next (rcMaskForm s (s.cc.rg a) false)
/-- R202: a change of a class's handler does not reach a packet whose head stands at q3's head, unless it has none. -/
def Tile.bindRc (t : Tile) (rc h : Nat) : Tile :=
  let old := Tbl.get 8 t.rcHandler rc
  let here := match t.iq 3 with
    | x :: _ => x.kind == 6 && x.pay.fld 27 5 == rc
    | [] => false
  { t with rcHandler := Tbl.set 8 t.rcHandler rc h
           rcAt := if here && t.rcAt.isNone && old != 8 then some old else t.rcAt }

/-- R202. Binds or unbinds a handler actor for a class. -/
def execRcRoute (a b : BitVec 5) (s : State) : Out :=
  let v := s.cc.rg a
  let h := s.cc.rg b
  let rc := selIdx v.toNat
  .next (if rc = 0 then raiseOp s v
    else onSel s v false false true (fun k => checked s h (zeroAbove h 4) (overTree s k (fun s =>
      retire (s.modTile k (fun t =>
        (t.bindRc rc (if h.fld 3 1 = 1 then h.fld 0 3 else 8)).note)) id))))

/-! ### Events (R203 to R206) -/

/-- Records held for want of room enter the queue while there is room (R204). -/
def Ctx.flushHeld (c : Ctx) : Nat → Ctx
  | 0 => c
  | n + 1 =>
    match c.evheld with
    | [] => c
    | w :: r => if c.evFull then c else ({ c with evheld := r }.pushEvent w).flushHeld n

/-- The record at evhead leaves the queue. -/
def Ctx.popEvent (c : Ctx) : Ctx :=
  match c.evq with
  | [] => c
  | _ :: r =>
    ({ c with evq := r, evhead := BitVec.ofNat 64 ((c.evhead.toNat + 1) % 256) } : Ctx).flushHeld 1

/-- R205. Pops the event record at evhead. -/
def execEvPop (d : BitVec 5) (s : State) : Out :=
  let w := s.cc.evq.headD 0
  .next (retire s (fun c => c.popEvent.wg d w))
/-- R205. Reads the event record at evhead without popping. -/
def execEvPeek (d : BitVec 5) (s : State) : Out := .next (retireG s d (s.cc.evq.headD 0))

/-- The records on their way to a context's queue. -/
def evDue (s : State) (k : Nat) : Nat :=
  (s.dues.filter (fun d => match d with
    | .event c _ => c == k
    | _ => false)).length

/-- R206. Posts an event to another context of the lease. -/
def execEvPost (d a b : BitVec 5) (s : State) : Out :=
  let v := s.cc.rg a
  let l := myLease s
  let p := (s.lease l).part
  let k := me s
  let target : Option Nat :=
    if !zeroAbove v 9 then none
    else match physDie s p (v.fld 0 3) with
      | none => none
      | some die => (leaseCtxs s l).find? (fun x => x / 8 == (die * 8 + v.fld 3 3) * 8 + v.fld 6 3)
  .next (match target with
    | none => raiseOp s v
    | some t =>
      let c := s.ctx t
      if 255 ≤ c.evq.length + evDue s t || !c.evheld.isEmpty then retireG s d 1
      else if !blocksMeet s (k / 8) (t / 8) then s
      else
        let w := evWord 0x0C 0 (logDie s 2 p (ctxDie k)) (stokerBRow (k / 8) * 8 + stokerBCol (k / 8)) ((s.cc.rg b).fld 0 32)
        retireG (postEvent s t w) d 0)

/-! ### Press forms (R207, R208) -/

/-- A form on a press tile of the lease. -/
def onPress (s : State) (v : Word) (k : Nat → State) : State :=
  onSel s v false false false (fun t => if isPressTile s t then k t else raiseOp s v)

/-- R207. Queues a control token at a press tile. Tokens of one fc enter in context order (R288): a later context's has this one
issued again. -/
def execPrsIssue (d a b : BitVec 5) (xs : BitVec 3) (q r : BitVec 1) (s : State) : Out :=
  let v := s.cc.rg a
  let x := s.cc.rg b
  .next (onPress s v (fun k => checked s x (zeroAbove x 32)
    (if (s.lease (myLease s)).st ≠ .running then retireG s d 5
     else if ctlRoom s k && lateFor s (.ctl k) (me s + 1) then s
     else overTree s k (fun s =>
       if !ctlRoom s k then retireG s d 1
       else retireG (serve (ctlPush s k { word := x.extractLsb' 0 32, src := .issue (me s) (q == 1) (r == 1) xs.toNat })
         (.ctl k) (me s + 1)) d 0))))

/-- R208: the token of a PRS.READ enters the control queue, or waits in the stoker until it can. -/
def prsReadEnter (s : State) (k c : Nat) (w : Code) (d : BitVec 5) : State :=
  if ctlRoom s k && !lateFor s (.ctl k) (c + 1) then
    (serve (ctlPush s k { word := w, src := .read c }) (.ctl k) (c + 1)).modCtx c (fun x => { x with busy := some (.prsRead d) })
  else s.modCtx c (fun x => { x with busy := some (.prsWait k w d) })

/-- R208. Reads one press accumulator element. -/
def execPrsRead (d a b : BitVec 5) (s : State) : Out :=
  let v := s.cc.rg a
  let x := s.cc.rg b
  .next (onPress s v (fun k => checked s x (zeroAbove x 14)
    (overTree s k (fun s =>
       prsReadEnter s k (me s) (BitVec.ofNat 32 (2 ^ 29 + x.fld 0 2 * 2 ^ 26 + x.fld 2 6 * 2 ^ 20 + x.fld 8 6 * 2 ^ 14)) d))))

end Sys2Proof.Machine
end

