-- ==== Sys2Proof/Machine/Firing.lean ====
section
/-! DEFINITION. The start and the steps of a firing (01 R42 to R46, R52). -/

namespace Sys2Proof.Machine

/-- Whether a tile may start work: its lease's units run and no debugger halts it. -/
def tileRuns (s : State) (k : Nat) : Bool :=
  match (s.tile k).lease with
  | none => false
  | some l => leaseLive s l && !(s.tile k).halted

/-- R43, R46: the earliest-ready actor starts; its output room stays reserved because no other actor writes its queues. -/
def startFiring (s : State) (k : Nat) : State :=
  let t := (s.tile k).note
  match t.firing, t.readyQ with
  | none, i :: r =>
    let d := t.desc i
    s.setTile k { t with
      readyQ := r
      aged := t.aged - 1
      firing := some { actor := i, step := dEntry d, lane := dLane0 d } }
  | _, _ => s.setTile k t

/-- R46. The tile scheduler starts the earliest-ready actor. -/
def execActorFiringStart (tile : Nat) (s : State) : Out :=
  .next (if tileRuns s tile then startFiring s tile else s)

/-- R45, R275: a step that reads bank data in some lane waits until that lane's node has delivered it. -/
def Tile.stepWaits (t : Tile) (f : Firing) : Bool :=
  let d := t.desc f.actor
  (List.range (dLanes d)).any (fun j =>
    let l := dLane0 d + j
    let w := t.op f.step l
    Tbl.get 0 t.nodeOut l != 0 && !t.word1 (dEntry d) l (f.step - dEntry d)
      && (w.fld 22 3 == 7 || (twoSrc w && w.fld 19 3 == 7)))

/-- Whether a queue that a word reads n times can give them: it is closed, or it holds n tokens. -/
def Tile.canPop (t : Tile) (i code n : Nat) : Bool :=
  if 2 ≤ code && code ≤ 5 then (t.act i).closed.contains (code - 2) || n ≤ countToks (t.iq (code - 2)) else true

/-- Whether the lane's word finds its operands: by R13 and R44 it always does, but for words that an OPW wrote. -/
def Tile.laneFed (t : Tile) (f : Firing) : Bool :=
  let w := t.op f.step f.lane
  let a := w.fld 22 3
  let b := w.fld 19 3
  let i := f.actor
  let o := w.fld 25 7
  if o = 0x2C then
    let sq := dSelq (t.desc i)
    if (t.act i).closed.contains sq then true
    else match t.iq sq with
      | [] => false
      | x :: _ =>
        if x.kind = 2 || x.kind = 3 then true
        else
          let c := if x.pay.fld 0 1 = 0 then a else b
          t.canPop i c (if c = sq + 2 then 2 else 1)
  else if o = 0x3C then true
  else if twoSrc w then t.canPop i a 1 && t.canPop i b (if a = b then 2 else 1)
  else t.canPop i a 1

/-- Whether the lane that the firing has reached is word 1 of a memory node, which only passes the chain (R66). -/
def Tile.atWord1 (t : Tile) (f : Firing) : Bool :=
  let d := t.desc f.actor
  t.word1 (dEntry d) f.lane (f.step - dEntry d)

/-- Whether a tile is inside a step. -/
def Tile.midStep (t : Tile) : Bool :=
  match t.firing with
  | none => false
  | some f => f.lane != dLane0 (t.desc f.actor)

/-- R320: whether the next lane accesses a bank that has served a later unit in this fc. -/
def bankLate (s : State) (k : Nat) : Bool :=
  let t := s.tile k
  match t.firing with
  | none => false
  | some f =>
    let o := (t.op f.step f.lane).fld 25 7
    (o == 0x48 || o == 0x49) && !t.atWord1 f && lateFor s (.bank k) 0

/-- R281: whether a lane's RCSEND finds room for two tokens in the class-3 injection buffer. -/
def Tile.rcRoom (t : Tile) (f : Firing) : Bool :=
  (t.op f.step f.lane).fld 25 7 != 0x60 || (t.chan injKey).length + 2 ≤ chanCap

/-- Whether the next lane of a tile's firing has what it needs; no PHASEN waits (R282). -/
def Tile.laneCan (t : Tile) : Bool :=
  match t.firing with
  | none => false
  | some f => f.wait.isNone && !(!t.midStep && t.stepWaits f) && (t.atWord1 f || (t.laneFed f && t.rcRoom f))

/-- Whether the firing's next lane has its turn: its tile runs, or the step is under way (R52). -/
def laneDue (s : State) (k : Nat) : Bool := (s.tile k).laneCan && (tileRuns s k || (s.tile k).midStep)

/-- Whether the firing's next lane may run in this fc. -/
def laneMay (s : State) (k : Nat) : Bool := laneDue s k && !bankLate s k

/-- One lane of the firing of the step's tile. -/
def runLane (s : State) : State :=
  let t := s.ct
  let f := firingOf s
  let w := t.op f.step f.lane
  if t.atWord1 f then laneDone s f.chain
  else if isNodeWord w then nodeRun (NW.of w (t.op (f.step + 1) f.lane)) s
  else elemRun (EW.of w) s

/-- The lanes of a step, until the step ends or a lane waits. -/
def runLanes (step : Nat) (s : State) : Nat → State
  | 0 => s
  | n + 1 =>
    match s.ct.firing with
    | none => s
    | some f => if f.step = step && laneMay s s.cur.tile then runLanes step (runLane s) n else s

/-- R45. One step of a firing runs across the span's lanes. -/
def execFiringStep (tile : Nat) (s : State) : Out :=
  let s1 : State := { s with cur := { s.cur with tile } }
  .next (match (s.tile tile).firing with
    | none => s
    | some f => runLanes f.step s1 8)

/-- One lane of a tile as a step of its own: the state with the step's tile and word, and the instruction to run. There
is none when no lane may run, when the lane holds word 1 of a node, or when the word is no operation. A memory node's
two words are run from their fields, as its instruction's arm of exec runs them. -/
def laneTurn (s : State) (k : Nat) : State × Option Instr :=
  if !laneMay s k then (s, none)
  else
    let s1 : State := { s with cur := { s.cur with tile := k } }
    let t := s1.ct
    let f := firingOf s1
    let w := t.op f.step f.lane
    let s2 : State := { s1 with cur := { s1.cur with word := w } }
    if t.atWord1 f then (laneDone s2 f.chain, none)
    else if isNodeWord w then (nodeRun (NW.of w (t.op (f.step + 1) f.lane)) s2, none)
    else
      match decodeElement w with
      | .ok i => (s2, some i)
      | .error _ => (laneDone s2 none, none)

end Sys2Proof.Machine
end

