-- ==== Sys2Proof/Machine/Rings.lean ====
section
/-! DEFINITION. Draught rings (01 R18, 06 R187 to R199, 16 R461). -/

namespace Sys2Proof.Machine

/-! ### A ring and its stops (R18, R187) -/

def ringOf (s : State) (l r : Nat) : Ring := Tbl.get {} (s.lease l).rings r
def setRing (s : State) (l r : Nat) (g : Ring) : State :=
  s.modLease l (fun x => { x with rings := Tbl.set {} x.rings r g })

/-- The image's record of a ring (R191). -/
def ringRec (s : State) (l r : Nat) : Option RingRec := (s.lease l).image.rings[r]?

/-- The tile of stop i; a record that names a position outside rectangle 0 has none there (log entry 10). -/
def stopTile (s : State) (l : Nat) (rr : RingRec) (i : Nat) : Option Nat :=
  match rr.stops[i]? with
  | none => none
  | some p => rectTile s l 0 p.1 p.2

/-- The tiles of a ring's stops. -/
def stopTiles (s : State) (l : Nat) (rr : RingRec) : List Nat := (List.range rr.stops.length).filterMap (stopTile s l rr)

/-- The bank of stop i. -/
def stopBank (s : State) (l : Nat) (rr : RingRec) (i : Nat) : Memory :=
  match stopTile s l rr i with
  | none => []
  | some k => (s.tile k).bank

def modBank (s : State) (l : Nat) (rr : RingRec) (i : Nat) (f : Memory → Memory) : State :=
  match stopTile s l rr i with
  | none => s
  | some k => s.modTile k (fun t => { t with bank := f t.bank })

/-- Bytes of a slot or of a kindle buffer, and where they and the match table stand in a stop's region (R187). -/
def slotBytes : Nat := 1040
def slotAt (rr : RingRec) (fam : Nat) : Nat := rr.off + slotBytes * fam
def kbufAt (rr : RingRec) (k : Nat) : Nat := rr.off + 2080 + slotBytes * k
def matchTab (rr : RingRec) (e : Nat) : Nat := rr.off + 6240 + 8 * e

/-- A memory with n bytes from a made 0. -/
def Memory.clear (m : Memory) (a n : Nat) : Memory := m.filter (fun e => !(a ≤ e.1 && e.1 < a + n))

/-- The home stop of the tile in a slot. -/
def RStop.slot (x : RStop) (fam : Nat) : Option Nat := if fam = 0 then x.cw else x.ccw
def RStop.setSlot (x : RStop) (fam : Nat) (v : Option Nat) : RStop :=
  if fam = 0 then { x with cw := v } else { x with ccw := v }

def Ring.stop (g : Ring) (i : Nat) : RStop := g.stops.getD i {}
def Ring.setStop (g : Ring) (i : Nat) (x : RStop) : Ring := { g with stops := g.stops.set i x }

/-- R195: the A tile at a stop is held while the stop's kindle queue holds an entry. -/
def RStop.heldA (x : RStop) : Bool := x.cw.isSome && !x.kq.isEmpty

/-- Fields of a tile image in a bank (R69, R189). -/
def imgHead (m : Memory) (a : Nat) : Nat := m.readN a 4
def imgTag (m : Memory) (a : Nat) : Nat := bits (imgHead m a) 0 16
def imgLap (m : Memory) (a : Nat) : Nat := bits (imgHead m a) 16 8
def imgPc (m : Memory) (a : Nat) : Nat := bits (imgHead m a) 24 7
def imgMet (m : Memory) (a : Nat) : Nat := m.readN (a + 4) 8

/-- A tile image: its bytes and its value. -/
def imgOf (m : Memory) (a : Nat) : Nat × Nat :=
  let n := 16 + 4 * min (bits (m.readN (a + 12) 4) 0 9) 256
  (n, m.readN a n)

def popcount (w : Nat) (n : Nat) : Nat := ((List.range n).filter (fun i => w.testBit i)).length

/-- The tiles in slots: stop and family. -/
def Ring.tiles (g : Ring) : List (Nat × Nat) :=
  (List.range g.stops.length).flatMap (fun i =>
    [0, 1].filterMap (fun fam => ((g.stop i).slot fam).map (fun _ => (i, fam))))

/-! ### Matching and meeting (R188, R191, R194) -/

/-- Entry e of a stop's table: its index and word. -/
def entryAt (m : Memory) (rr : RingRec) (e : Nat) : Nat := m.readN (matchTab rr e) 8

/-- The lowest valid entry for a pair of tags. -/
def findEntry (m : Memory) (rr : RingRec) (cap ta tb : Nat) : Option Nat :=
  ((List.range cap).map (entryAt m rr)).find? (fun w => bits w 63 1 == 1 && bits w 0 16 == ta && bits w 16 16 == tb)

/-- The lowest free kindle buffer (R461). -/
def freeBuf (kq : List Kindle) : Nat := ((List.range 4).find? (fun k => kq.all (fun x => x.buf != k))).getD 0

/-- R194: the meeting of a stop. -/
def meet (s : State) (l : Nat) (rr : RingRec) (g : Ring) (i : Nat) : State × Ring :=
  let x := g.stop i
  let m := stopBank s l rr i
  let a := slotAt rr 0
  let b := slotAt rr 1
  if x.cw.isNone || x.ccw.isNone then (s, g)
  else match findEntry m rr g.cap (imgTag m a) (imgTag m b) with
    | none => (s, g)
    | some w =>
      let ia := bits w 32 6
      let ib := bits w 40 6
      if (imgMet m a).testBit ia || (imgMet m b).testBit ib then (s, g)
      else if 4 ≤ x.kq.length then (s, g.setStop i { x with missed := x.missed + 1 })
      else
        let k := freeBuf x.kq
        let c := imgOf m b
        let s1 := modBank s l rr i (fun m =>
          let m1 := m.writeN (kbufAt rr k) c.1 c.2
          let m2 := m1.writeN (a + 4) 8 (imgMet m a ||| 2 ^ ia)
          m2.writeN (b + 4) 8 (imgMet m b ||| 2 ^ ib))
        (s1, g.setStop i { x with kq := x.kq ++ [{ buf := k, actor := bits w 48 3 }] })

def meetAll (l : Nat) (rr : RingRec) (p : State × Ring) (is : List Nat) : State × Ring :=
  is.foldl (fun p i => meet p.1 l rr p.2 i) p

/-! ### Moving (R193) -/

/-- A tile that moves: its home stop, where it stands, where it goes, and its image. -/
structure Mover where
  home : Nat
  src : Nat
  dest : Nat
  n : Nat
  val : Nat

/-- The tiles of a family with their next stops; a lap is counted on arrival at the home stop. -/
def movers (s : State) (l : Nat) (rr : RingRec) (g : Ring) (fam : Nat) : List Mover :=
  let n := g.stops.length
  (List.range n).filterMap (fun i =>
    ((g.stop i).slot fam).map (fun home =>
      let dest := (if fam = 0 then i + 1 else i + n - 1) % n
      let c := imgOf (stopBank s l rr i) (slotAt rr fam)
      let lap := bits c.2 16 8
      { home, src := i, dest, n := c.1
        val := if dest = home then c.2 - lap * 2 ^ 16 + (lap + 1) % 256 * 2 ^ 16 else c.2 }))

/-- R193: a family moves as a whole. -/
def moveFam (s : State) (l : Nat) (rr : RingRec) (g : Ring) (fam : Nat) (ms : List Mover) : State × Ring :=
  let s1 := ms.foldl (fun s m => modBank s l rr m.dest (fun b => b.writeN (slotAt rr fam) m.n m.val)) s
  (s1, { g with stops := g.stops.mapIdx (fun i x =>
    x.setSlot fam ((ms.find? (fun m => m.dest == i)).map (fun m => m.home))) })

/-! ### Retirement (R195, R338) -/

/-- n bytes written upward from a VA by aligned 8-byte units, within a number of units; a fault carries its VA. -/
def agentWriteRun (tr : State → Nat → Except Nat (State × TlbEnt)) (s : State) (w : Who) (va n val : Nat) :
    Nat → Except (Nat × Nat) State
  | 0 => .ok s
  | f + 1 =>
    if n = 0 then .ok s
    else
      let m := min n (8 - va % 8)
      match agentWrite tr s w va m (fullMask m) (val % 2 ^ (8 * m)) false with
      | .error c => .error (c, va)
      | .ok g => agentWriteRun tr (g.counted w.lease) w ((va + m) % 2 ^ 80) (n - m) (val / 2 ^ (8 * m)) f

/-- The retire write of a tile, as a write of the ring's owner. -/
def retireWrite (s : State) (l : Nat) (g : Ring) (fam n val : Nat) : Except (Nat × Nat) State :=
  let va := ((if fam = 0 then g.retA else g.retB) + slotBytes * (if fam = 0 then g.cntA else g.cntB)) % 2 ^ 80
  agentWriteRun (fun s va => translateCtx s g.owner va) s { lease := l, agent := .ctx g.owner } va n val (n / 8 + 2)

/-- R195: whether every partner of the tile in a slot has met it. -/
def metAll (s : State) (l : Nat) (rr : RingRec) (x : Nat × Nat) : Bool :=
  let m := stopBank s l rr x.1
  popcount (imgMet m (slotAt rr x.2)) 64 == imgPc m (slotAt rr x.2)

/-- R195: a tile retires at the end of a beat if all its partners have met it and it is not held. A write that faults
freezes the region and leaves the tile where it is, to retire at a later beat (log entry 18); there is none while a write has to wait. -/
def retireOne (l : Nat) (rr : RingRec) (p : Option (State × Ring)) (x : Nat × Nat) : Option (State × Ring) :=
  p.bind (fun p =>
    let s := p.1
    let g := p.2
    let st := g.stop x.1
    if (x.2 = 0 && st.heldA) || !metAll s l rr x then some p
    else
      let c := imgOf (stopBank s l rr x.1) (slotAt rr x.2)
      match retireWrite s l g x.2 c.1 c.2 with
      | .ok s1 =>
        let g1 := g.setStop x.1 (st.setSlot x.2 none)
        some (s1, if x.2 = 0 then { g1 with cntA := g1.cntA + 1 } else { g1 with cntB := g1.cntB + 1 })
      | .error (code, va) =>
        if code = heldCode then none
        else
          let s1 := if code = 0x08 then ctxTagAlarm s g.owner va else s
          some (lateFault s1 (ctxRec s1 g.owner code (codeLevel code) va), g))

/-! ### The lap limit (R196) -/

/-- An entry of the list of unmet pairs. -/
structure Unmet where
  ta : Nat
  tb : Nat
  w : Word
deriving DecidableEq, Repr

/-- The pairs of live tiles of a family's tag. -/
def liveOf (s : State) (l : Nat) (rr : RingRec) (g : Ring) (fam tag : Nat) : List (Nat × Nat) :=
  (g.tiles.filter (fun x => x.2 == fam && imgTag (stopBank s l rr x.1) (slotAt rr fam) == tag)).map (fun x =>
    (imgMet (stopBank s l rr x.1) (slotAt rr fam), imgLap (stopBank s l rr x.1) (slotAt rr fam)))

/-- The unmet pair of a valid entry at a stop, if both tiles are live with their bits clear. -/
def unmetOf (s : State) (l : Nat) (rr : RingRec) (g : Ring) (i w : Nat) : Option Unmet :=
  let ta := bits w 0 16
  let tb := bits w 16 16
  let as := (liveOf s l rr g 0 ta).filter (fun x => !x.1.testBit (bits w 32 6))
  let bs := (liveOf s l rr g 1 tb).filter (fun x => !x.1.testBit (bits w 40 6))
  if bits w 63 1 = 0 then none
  else match as, bs with
    | a :: _, b :: _ =>
      some { ta, tb, w := BitVec.ofNat 64 (ta + tb * 2 ^ 16 + i % 64 * 2 ^ 32 + a.2 * 2 ^ 40 + b.2 * 2 ^ 48) }
    | _, _ => none

/-- Inserts a pair in ascending (taga, tagb), once: the one of the lower stop stays. -/
def insertUnmet (x : Unmet) : List Unmet → List Unmet
  | [] => [x]
  | y :: r =>
    if x.ta = y.ta && x.tb = y.tb then y :: r
    else if x.ta < y.ta || (x.ta = y.ta && x.tb < y.tb) then x :: y :: r
    else y :: insertUnmet x r

/-- R196: the unmet pairs of a ring. -/
def unmetPairs (s : State) (l : Nat) (rr : RingRec) (g : Ring) : List Word :=
  let all := (List.range g.stops.length).flatMap (fun i =>
    (List.range g.cap).filterMap (fun e => unmetOf s l rr g i (entryAt (stopBank s l rr i) rr e)))
  (all.foldl (fun acc x => insertUnmet x acc) []).map (fun x => x.w)

/-- R196: the fault of a tile that is still live after the beat in which it arrived home at the lap limit. -/
def ringFault (s : State) (l r : Nat) (rr : RingRec) (g : Ring) (fam i : Nat) : State :=
  let k := (stopTile s l rr i).getD 0
  let s1 := setRing s l r { g with st := .faulted, ending := none }
  lateFault s1
    { tileRec s1 k 0x11 with lease := l, index := g.beat - 1, opa := imgTag (stopBank s1 l rr i) (slotAt rr fam)
                             list := unmetPairs s1 l rr g }

/-! ### A beat (R193 to R198) -/

/-- R198: the events of n RING.STOPs, each with the number of the last beat run. -/
def postStops (s : State) (owner r last : Nat) : Nat → State
  | 0 => s
  | n + 1 => postStops (postEvent s owner (evWord 0x05 0 r 0 last)) owner r last n

/-- R198: the end of a mode-1 stop: once no kindle is queued the tiles are discarded and the ring is undefined; the
context that waits for it completes, in a region that has stopped too (R124). -/
def ringRelease (s : State) (l r k : Nat) (d : BitVec 5) : Option State :=
  let g := ringOf s l r
  if g.st = .running || g.stops.any (fun x => !x.kq.isEmpty) then none
  else
    let last := g.beat - 1
    some (complete (postStops (setRing s l r {}) g.owner r last 1) k (fun c => (c.wg d (BitVec.ofNat 64 last)).past))

/-- The context of a lease that waits in a RING.STOP of a ring. -/
def ringWaiter (s : State) (l r : Nat) : Option (Nat × BitVec 5) :=
  s.ctxs.findSome? (fun e =>
    if e.2.lease = l then (match e.2.busy with
      | some (.ringStop q d) => if q = r then some (e.1, d) else none
      | _ => none)
    else none)

/-- The end of a beat: a ring without tiles is done, and a stop asked for takes effect (R196, R198). Where both meet, the ring is done and a
mode-0 stop posts nothing (DESIGN CHOICE, log entry 18). -/
def ringSettle (s : State) (l r : Nat) (g : Ring) : State :=
  if g.tiles.isEmpty then
    postEvent (setRing s l r { g with st := .done, ending := none, asked := 0 }) g.owner (evWord 0x04 0 r 0 (g.cntA + g.cntB))
  else match g.ending with
    | none => setRing s l r g
    | some 2 => setRing s l r { g with ending := some 3 }
    | some _ => postStops (setRing s l r { g with st := .stopped, ending := none, asked := 0 }) g.owner r (g.beat - 1) g.asked

/-- R193, R195: whether a family stays where it is in a beat: in beat 0; on an A beat while an A tile is held; and while a tile of it is to
retire, which it does in place of any later move. -/
def famStays (s : State) (l : Nat) (rr : RingRec) (g : Ring) (fam : Nat) : Bool :=
  g.beat == 0 || (fam == 0 && g.stops.any RStop.heldA) || g.tiles.any (fun x => x.2 == fam && metAll s l rr x)

/-- Whether the tiles of a beat can pass between their stops now: the way between two dies is not cut (R2, R399). -/
def ringOpen (s : State) (l : Nat) (rr : RingRec) (ms : List Mover) : Bool :=
  ms.all (fun m => linkOpen s ((stopTile s l rr m.src).getD 0) ((stopTile s l rr m.dest).getD 0))

/-- The tiles that move in the beat in progress. -/
def beatMoves (s : State) (l : Nat) (rr : RingRec) (g : Ring) : List Mover :=
  if famStays s l rr g (g.beat % 2) then [] else movers s l rr g (g.beat % 2)

/-- The beat in progress with its moves and meetings made. -/
def beatMet (s : State) (l : Nat) (rr : RingRec) (g : Ring) : State × Ring :=
  let ms := beatMoves s l rr g
  meetAll l rr (if famStays s l rr g (g.beat % 2) then (s, g) else moveFam s l rr g (g.beat % 2) ms)
    (if g.beat = 0 then List.range g.stops.length else ms.map (fun m => m.dest))

/-- The beat in progress with its retirements made; none while a transfer or a retire write has to wait. -/
def beatRetired (s : State) (l : Nat) (rr : RingRec) (g : Ring) : Option (State × Ring) :=
  let p := beatMet s l rr g
  if ringOpen s l rr (beatMoves s l rr g) then p.2.tiles.foldl (retireOne l rr) (some p) else none

/-- R193 to R196: the beat in progress ends, unless it waits. -/
def ringBeat (s : State) (l r : Nat) (rr : RingRec) (g : Ring) : State :=
  let b := g.beat
  let fam := b % 2
  let ms := beatMoves s l rr g
  match beatRetired s l rr g with
  | none => s
  | some p4 =>
  let g1 := { p4.2 with beat := b + 1 }
  let s1 := progress p4.1 l
  let late := ms.find? (fun m => m.dest == m.home && ((g1.stop m.dest).slot fam).isSome
    && imgLap (stopBank s1 l rr m.dest) (slotAt rr fam) == g1.lapLim)
  match late with
  | some m => ringFault s1 l r rr g1 fam m.dest
  | none => ringSettle s1 l r g1

/-- R193. A ring runs one beat moving one family. Its transfers wait for the next fc where a bank has served a press or copy (R320). -/
def execRingBeat (lease ring : Nat) (s : State) : Out :=
  let g := ringOf s lease ring
  .next (match ringRec s lease ring with
    | none => s
    | some rr =>
      if g.st = .running && g.ending != some 3 && (edgeLive s lease || ((leaseLive s lease || (s.lease lease).stopping) && g.ending.isSome)) then
        if (stopTiles s lease rr).any (fun k => lateFor s (.bank k) bankRing) then s
        else
        let s1 := ringBeat ((stopTiles s lease rr).foldl (fun s k => serve s (.bank k) bankRing) s) lease ring rr g
        match ringWaiter s1 lease ring with
        | none => s1
        | some (k, d) => (ringRelease s1 lease ring k d).getD s1
      else s)

/-- R194: the kindle queue of a stop hands its oldest entry to its actor. -/
def kindleHand (s : State) (l r i : Nat) (rr : RingRec) : State :=
  let g := ringOf s l r
  let x := g.stop i
  match x.kq, stopTile s l rr i with
  | e :: q, some k =>
    if e.handed || !(s.tile k).qRoom 0 then s
    else
      let s1 := setRing s l r (g.setStop i { x with kq := { e with handed := true } :: q })
      arriveQ s1 k 0 (dataTok (BitVec.ofNat 32 ((slotAt rr 0 + 16) % 65536 + (kbufAt rr e.buf + 16) * 65536)))
  | _, _ => s

/-- R194. The kindle queue pushes its oldest entry's token into q0. -/
def execKindleHandoff (lease ring stop : Nat) (s : State) : Out :=
  .next (match ringRec s lease ring with
    | none => s
    | some rr => if leaseLive s lease then kindleHand s lease ring stop rr else s)

/-! ### The forms (R190 to R198) -/

/-- R199: the forms that act on one ring are served one at a time; one that meets another context's RING.STOP waits. -/
def ringServe (s : State) (r : Nat) (k : State) : State :=
  match ringWaiter s (myLease s) r with
  | some _ => s
  | none => k

/-- A form that names ring v; an undeclared one gives `no`. -/
def onRing (s : State) (v : Word) (d : BitVec 5) (no : Nat) (k : Nat → RingRec → Ring → State) : State :=
  checked s v (zeroAbove v 4)
    (match ringRec s (myLease s) v.toNat with
     | none => retireG s d (BitVec.ofNat 64 no)
     | some rr => ringServe s v.toNat (k v.toNat rr (ringOf s (myLease s) v.toNat)))

/-- A form with a ring locator (R191). -/
def onLocator (s : State) (v : Word) (d : BitVec 5) (all entry : Bool) (k : Nat → RingRec → Ring → Nat → State) : State :=
  let stop := v.fld 4 6
  checked s v (zeroAbove v 23 && (all || v.fld 22 1 == 0) && (entry || v.fld 10 12 == 0) && (v.fld 22 1 == 0 || stop == 0))
    (match ringRec s (myLease s) (v.fld 0 4) with
     | none => retireG s d 3
     | some rr =>
       if rr.stops.length ≤ stop then raiseOp s v
       else ringServe s (v.fld 0 4) (k (v.fld 0 4) rr (ringOf s (myLease s) (v.fld 0 4)) stop))

def Ring.ready (g : Ring) : Bool := g.st == .defined || g.st == .stopped

/-- The entries that the image supplies for stop i of ring r (R81, R190). -/
def suppliedAt (im : Image) (r i : Nat) : List Word :=
  (im.matches_.filter (fun m => m.ring == r && (m.stop == i || m.stop == 0xFFFF))).flatMap (fun m => m.entries)

/-- R190: the bank of a stop when its ring is defined. -/
def definedBank (rr : RingRec) (cap : Nat) (es : List Word) (m : Memory) : Memory :=
  ((m.clear (kbufAt rr 0) (4 * slotBytes)).clear (matchTab rr 0) (8 * cap)).setWords (matchTab rr 0) es

/-- R190: the ring that a descriptor defines; none for status 4, which the bits of words 2 and 4 above a VA's give too (DESIGN CHOICE, log
entry 18). -/
def ringDefine (s : State) (l r : Nat) (rr : RingRec) (ws : List Nat) : Option State :=
  let w (i : Nat) : Nat := ws.getD i 0
  let cap := bits (w 0) 8 13
  let is := List.range rr.stops.length
  let im := (s.lease l).image
  if bits (w 0) 21 43 ≠ 0 || bits (w 2) 16 48 ≠ 0 || bits (w 4) 16 48 ≠ 0 || 4096 < cap || 65536 < rr.off + 6240 + 8 * cap
      || is.any (fun i => cap < (suppliedAt im r i).length || (stopTile s l rr i).isNone) then none
  else
    let s1 := is.foldl (fun s i => modBank s l rr i (definedBank rr cap (suppliedAt im r i))) s
    let lap := bits (w 0) 0 8
    some (setRing s1 l r
      { st := .defined, owner := me s, lapLim := if lap = 0 then rr.laps else lap, cap
        retA := w 1 + bits (w 2) 0 16 * 2 ^ 64, retB := w 3 + bits (w 4) 0 16 * 2 ^ 64
        stops := rr.stops.map (fun _ => {}) })

/-- R190. Defines a draught ring from a descriptor. -/
def execRingDef (d : BitVec 5) (a : BitVec 3) (b : BitVec 5) (s : State) : Out :=
  let va := (s.cc.ra a).toNat
  .next (onRing s (s.cc.rg b) d 3 (fun r rr g =>
    if g.st ≠ .undefined && g.st ≠ .done then retireG s d 1
    else if va % 8 ≠ 0 then raiseVa s 0x03 va
    else match readVaWords s (me s) 8 va 5 with
      | .error (code, x) => formFault s (me s) code x
      | .ok (s1, ws) =>
        match ringDefine s1 (myLease s) r rr ws with
        | none => retireG s1 d 4
        | some _ => overTrees s1 (stopTiles s1 (myLease s) rr) (fun s1 => match ringDefine s1 (myLease s) r rr ws with
          | none => s1
          | some s2 => retireG s2 d 0)))

/-- R192. Places a ring tile image into a stop's slot. -/
def execRingInj (d : BitVec 5) (a : BitVec 3) (b : BitVec 5) (s : State) : Out :=
  let va := (s.cc.ra a).toNat
  let l := myLease s
  .next (onLocator s (s.cc.rg b) d false false (fun r rr g i =>
    if !g.ready then retireG s d 2
    else if va % 8 ≠ 0 then raiseVa s 0x03 va
    else match readVaWords s (me s) 8 va 2 with
      | .error (code, x) => formFault s (me s) code x
      | .ok (s1, h) =>
        let w0 := bits (h.getD 0 0) 0 32
        let fam := bits w0 31 1
        let w3 := bits (h.getD 1 0) 32 32
        let n := bits w3 0 9
        if ((g.stop i).slot fam).isSome then retireG s1 d 1
        else if 64 < bits w0 24 7 || 256 < n || bits w3 9 23 ≠ 0 then retireG s1 d 4
        else match readVaWords s1 (me s) 8 (va + 16) ((n + 1) / 2) with
          | .error (code, x) => if code = heldCode then s else formFault s1 (me s) code x
          | .ok (s2, ws) =>
            overTree s2 ((stopTile s2 l rr i).getD 0) (fun s2 =>
              let v := (h ++ ws).foldr (fun w acc => w + acc * 2 ^ 64) 0
              let img := v % 2 ^ (128 + 32 * n) - bits w0 16 8 * 2 ^ 16
              let s3 := modBank s2 l rr i (fun m => m.writeN (slotAt rr fam) (16 + 4 * n) img)
              retireG (setRing s3 l r (g.setStop i ((g.stop i).setSlot fam (some i)))) d 0)))

/-- R191: the words of every match entry of some stops made invalid: the whole entry is zero (DESIGN CHOICE, log entry 18). -/
def clearTables (s : State) (l : Nat) (rr : RingRec) (cap : Nat) (is : List Nat) : State :=
  is.foldl (fun s i => modBank s l rr i (fun m => m.clear (matchTab rr 0) (8 * cap))) s

/-- R191. Writes one match-table entry at a stop. -/
def execMtWrite (d a b : BitVec 5) (s : State) : Out :=
  let v := s.cc.rg a
  let x := s.cc.rg b
  let l := myLease s
  .next (onLocator s v d false true (fun _ rr g i =>
    if !g.ready then retireG s d 2
    else if g.cap ≤ v.fld 10 12 || x.fld 51 12 ≠ 0 || x.fld 46 2 ≠ 0 || x.fld 38 2 ≠ 0 then retireG s d 4
    else overTree s ((stopTile s l rr i).getD 0) (fun s =>
      retireG (modBank s l rr i (fun m => m.setWord (matchTab rr (v.fld 10 12)) x)) d 0)))

/-- R191. Invalidates the match entries of a stop or all stops. -/
def execMtClear (d a : BitVec 5) (s : State) : Out :=
  let v := s.cc.rg a
  let l := myLease s
  .next (onLocator s v d true false (fun _ rr g i =>
    if !g.ready then retireG s d 2
    else
      let is := if v.fld 22 1 = 1 then List.range rr.stops.length else [i]
      overTrees s (is.filterMap (stopTile s l rr)) (fun s => retireG (clearTables s l rr g.cap is) d 0)))

/-- R193. Starts or continues a ring's beats; in a drain its first is run once the lease goes on (R199). -/
def execRingGo (d a : BitVec 5) (s : State) : Out :=
  .next (onRing s (s.cc.rg a) d 3 (fun r _ g =>
    if !g.ready then retireG s d 2
    else retireG (setRing s (myLease s) r { g with
      st := .running, owner := me s, ending := if (s.lease (myLease s)).st = .running then none else some 3 }) d 0))

/-- The state code of R197. -/
def RingSt.code : RingSt → Nat
  | .undefined => 0
  | .defined => 1
  | .running => 2
  | .stopped => 3
  | .done => 4
  | .faulted => 5

/-- R197: the state word. -/
def ringWord (s : State) (l : Nat) (rr : RingRec) (g : Ring) : Word :=
  let laps := g.tiles.map (fun x => imgLap (stopBank s l rr x.1) (slotAt rr x.2))
  let missed := g.stops.foldl (fun a x => a + x.missed) 0
  BitVec.ofNat 64
    (g.st.code * 2 ^ 60 + laps.foldl max 0 * 2 ^ 40 + min missed 255 * 2 ^ 32 + g.tiles.length % 65536 * 2 ^ 16
      + (g.cntA + g.cntB) % 65536)

/-- R197. Returns a ring's state word. -/
def execRingStat (d a : BitVec 5) (s : State) : Out :=
  .next (onRing s (s.cc.rg a) d 0 (fun _ rr g => retireG s d (ringWord s (myLease s) rr g)))

/-- R198: a RING.STOP of mode 1 ends its ring now, or waits. -/
def ringEnd (s : State) (r : Nat) (d : BitVec 5) : State :=
  match ringRelease s (myLease s) r (me s) d with
  | some s1 => s1
  | none => s.modC (fun c => { c with busy := some (.ringStop r d) })

/-- R198. Stops or ends a ring by mode. -/
def execRingStop (d a b : BitVec 5) (s : State) : Out :=
  let x := s.cc.rg b
  let l := myLease s
  .next (checked s (s.cc.rg a) (zeroAbove (s.cc.rg a) 4) (checked s x (zeroAbove x 1)
    (onRing s (s.cc.rg a) d 0 (fun r _ g =>
      match g.st with
      | .undefined => retireG s d 0
      | .running =>
        if g.ending = some 3 then
          let s1 := setRing s l r { g with st := .stopped, ending := none }
          if x = 0 then retireG (postStops s1 g.owner r (g.beat - 1) 1) d (BitVec.ofNat 64 (g.beat - 1)) else ringEnd s1 r d
        else if x = 0 then
          retireG (setRing s l r { g with ending := some 0, asked := g.asked + 1 }) d (BitVec.ofNat 64 g.beat)
        else (setRing s l r { g with ending := some 1 }).modC (fun c => { c with busy := some (.ringStop r d) })
      | .stopped =>
        if x = 0 then retireG (postStops s g.owner r (g.beat - 1) 1) d (BitVec.ofNat 64 (g.beat - 1)) else ringEnd s r d
      | _ => if x = 0 then retireG s d 0 else ringEnd s r d))))

end Sys2Proof.Machine
end

