-- ==== Sys2Proof/Machine/Press.lean ====
section
/-! DEFINITION. The press tile: control tokens, matrix products, DRAIN and LOADW (03 R101 to R105, 09 R286 to R305). -/

namespace Sys2Proof.Machine

/-! ### Tokens (R291, R293, R299 to R301) -/

def pOp (w : Code) : Nat := w.fld 28 4
def pAcc (w : Code) : Nat := w.fld 26 2

/-- MMA fields (R293). -/
def mmaM (w : Code) : Nat := w.fld 15 6 + 1
def mmaK (w : Code) : Nat := w.fld 7 8 + 1
def mmaKb (w : Code) : Nat := 16 * w.fld 0 7
def mmaFtz (w : Code) : Bool := w.fld 24 1 == 1

/-- Weight descriptor fields (R294). -/
def wN (d : Word) : Nat := d.fld 40 6 + 1
def wBl (d : Word) : Nat := 32 * 2 ^ d.fld 38 2
def wComp (d : Word) : Nat := d.fld 36 2
def wFmt (d : Word) : Nat := d.fld 32 4
def wSoff (d : Word) : Nat := d.fld 16 16
def wDoff (d : Word) : Nat := d.fld 0 16

/-- The elements of a beat of an operand format (R290). -/
def pressP (fmt : Nat) : Nat := if fmt = 4 then 32 else 64

/-- The chunks of a token (R296). -/
def mmaChunks (w : Code) (d : Word) : Nat := (mmaK w + pressP (wFmt d) - 1) / pressP (wFmt d)

/-! ### Weights (R295) -/

/-- The bytes of a unit, and the rows it holds. -/
def unitBytes (d : Word) : Nat :=
  let wb := tyWidth (wFmt d)
  match wComp d with
  | 0 => 8 * wb
  | 1 => 16 * wb + 32
  | _ => 544
def unitRows (d : Word) : Nat :=
  match wComp d with
  | 0 => 1
  | 1 => 4
  | _ => 16

/-- The code of column n in row r of a unit whose bytes are u. -/
def unitCode (d : Word) (u r n : Nat) : Nat :=
  let wb := tyWidth (wFmt d)
  match wComp d with
  | 0 => bits u (wb * n) wb
  | 1 =>
    let x := bits u (128 * wb + 4 * n) 4
    if r = x / 4 then bits u (wb * (2 * n + 1)) wb
    else if r = x % 4 then bits u (wb * (2 * n)) wb
    else (zeroCode (wFmt d)).toNat
  | _ => bits u (wb * bits u (256 + 4 * (64 * r + n)) 4) wb

/-- Weight row r: code and scale of each column. -/
def weightRow (m : Memory) (d : Word) (r : Nat) : List (Code × Nat) :=
  let u := m.readN (wDoff d + r / unitRows d * unitBytes d) (unitBytes d)
  (List.range 64).map (fun n =>
    (BitVec.ofNat 32 (unitCode d u (r % unitRows d) n),
     if scaledFmt (wFmt d) then (m.read (wSoff d + 64 * (r / wBl d) + n)).toNat else 127))

/-- The panel of a chunk: the rows that the token uses (R296). -/
def loadPanel (m : Memory) (w : Code) (d : Word) (chunk : Nat) : List (Code × Nat) :=
  let p := pressP (wFmt d)
  (List.range (min p (mmaK w - chunk * p))).flatMap (fun j => weightRow m d (mmaKb w + chunk * p + j))

/-- R303: whether a token of an MMA, with its descriptor, is malformed. -/
def mmaBad (w : Code) (d : Word) : Bool :=
  let f := wFmt d
  let last := mmaKb w + mmaChunks w d * pressP f - 1
  d.fld 46 18 != 0 || wComp d == 3 || !([4, 6, 7, 8, 0].contains f)
    || (!scaledFmt f && wSoff d != 0) || (mmaFtz w && (f == 8 || f == 0))
    || 0xFFC0 < wDoff d + (last / unitRows d + 1) * unitBytes d
    || (scaledFmt f && 0xFFC0 < wSoff d + 64 * (last / wBl d + 1))

/-- R297: the pairs of A and B formats that the press accepts. -/
def pairOk (a b : Nat) : Bool :=
  (a == 8 && b == 8) || ((a == 6 || a == 7) && (b == 6 || b == 7)) || (a == 0 && b == 0) || (a == 4 && b == 4)

/-! ### Products (R101 to R105, R297) -/

/-- A product's operands: codes and scales of A and B. -/
structure Pair where
  a : Nat
  sa : Nat
  b : Nat
  sb : Nat
deriving DecidableEq, Repr, Inhabited

/-- A scaled operand, its subnormals flushed with ftz (R89, R94). -/
def pressVal (fmt scale : Nat) (ftz : Bool) (c : Nat) : FV :=
  if scale = 0xFF then .nan
  else match tyFmt fmt with
    | some f => (f.inp ftz (c % 2 ^ f.width)).1.scale ((scale : Int) - 127)
    | none => .nan

/-- R103: a group's exact sum, rounded once. -/
def groupFp (fa fb : Nat) (ftz : Bool) (ps : List Pair) : Nat :=
  let vs := ps.map (fun p => (FV.mul (pressVal fa p.sa ftz p.a) (pressVal fb p.sb ftz p.b)).1)
  let v := vs.tail.foldl (fun a x => (FV.add .rne a x).1) (vs.headD (.num false 0 0))
  (Fmt.fp32.enc .rne ftz v).1

/-- R104: a group's exact sum of I8 products. -/
def groupInt (ps : List Pair) : Int := ps.foldl (fun a p => a + signed 8 p.a * signed 8 p.b) 0

/-- A K-sum in progress (R297): the scales it runs over, the sum, and whether it met a NaR. -/
structure KRun where
  key : Option (Nat × Nat) := none
  sum : Int := 0
  nar : Bool := false
  acc : Nat := 0

/-- R102: the end of a K-sum: its FP32 value is added to the accumulator. -/
def KRun.flush (k : KRun) : KRun :=
  match k.key with
  | none => k
  | some (sa, sb) =>
    let v := if k.nar || sa = 0xFF || sb = 0xFF then Fmt.fp32.canonNaN else l6BlockFp32 k.sum ((sa + sb : Nat) : Int)
    { acc := (Fmt.fp32.add .rne false k.acc v).1 }

def KRun.step (k : KRun) (p : Pair) : KRun :=
  let k1 := if k.key = some (p.sa, p.sb) then k else { k.flush with key := some (p.sa, p.sb) }
  if p.a % 64 = l6NaR || p.b % 64 = l6NaR then { k1 with nar := true }
  else { k1 with sum := k1.sum + l6Contribution p.a p.b }

/-- The k-th group of four. -/
def fours (ps : List Pair) (k : Nat) : List Pair := (ps.drop (4 * k)).take 4

/-- R297: one accumulator element after the products of a beat. -/
def accUpdate (fa fb : Nat) (ftz : Bool) (acc : Nat) (ps : List Pair) : Nat :=
  let gs := List.range ((ps.length + 3) / 4)
  if fa = 8 then (ps.foldl KRun.step { acc }).flush.acc
  else if fa = 0 then wrapNat 32 (gs.foldl (fun (a : Int) k => a + groupInt (fours ps k)) (acc : Int))
  else gs.foldl (fun a k => Fmt.fp32.accum ftz a (groupFp fa fb ftz (fours ps k))) acc

/-- Key of an accumulator element. -/
def accKey (acc row col : Nat) : Nat := acc * 4096 + row * 64 + col

/-- The products of row elements of a beat with a column of the panel. -/
def beatPairs (b : Beat) (panel : List (Code × Nat)) (n : Nat) : List Pair :=
  let p := pressP b.fmt
  (List.range (panel.length / 64)).map (fun j =>
    let w := panel.getD (64 * j + n) (0, 127)
    { a := (b.slots.getD j 0).toNat, sa := if j < p / 2 then b.s0 else b.s1, b := w.1.toNat, sb := w.2 })

/-- R296: a beat's products applied to row m of an accumulator. -/
def applyBeat (acc : Tbl Code) (w : Code) (d : Word) (panel : List (Code × Nat)) (row : Nat) (b : Beat) : Tbl Code :=
  (List.range (wN d)).foldl (fun t n =>
    let key := accKey (pAcc w) row n
    Tbl.set 0 t key (BitVec.ofNat 32 (accUpdate b.fmt (wFmt d) (mmaFtz w) (Tbl.get 0 t key).toNat (beatPairs b panel n)))) acc

/-- R297: the region of a token at +0.0. -/
def clearRegion (acc : Tbl Code) (w : Code) (d : Word) : Tbl Code :=
  acc.filter (fun e => !(e.1 / 4096 == pAcc w && e.1 / 64 % 64 < mmaM w && e.1 % 64 < wN d))

/-! ### The control queue (R288, R292, R303) -/

/-- Changes the press of a tile. -/
def modPress (s : State) (k : Nat) (f : Press → Press) : State := s.modTile k (fun t => { t with press := f t.press })

/-- R300, R303: the fields of a DRAIN. -/
def drainOk (w : Code) : Bool :=
  w.fld 0 9 == 0 && w.fld 20 6 + w.fld 14 6 + 1 ≤ 64 && [2, 4, 5].contains (w.fld 9 4)

/-- R301: the fields of a LOADW. -/
def loadwOk (w : Code) : Bool :=
  w.fld 27 1 == 0 && w.fld 0 6 == 0 && 32 * w.fld 16 11 + 64 * (w.fld 6 10 + 1) ≤ 65536

/-- R294: weight descriptor i in a bank. -/
def weightDesc (m : Memory) (i : Nat) : Word := m.word (0xFFC0 + 8 * i)

/-- R303: whether a token is malformed as the press takes it. -/
def tokBad (m : Memory) (w : Code) : Bool :=
  match pOp w with
  | 1 => mmaBad w (weightDesc m (w.fld 21 3))
  | 2 => w.fld 0 14 != 0
  | 3 => !drainOk w
  | 4 => w.fld 0 26 != 0
  | 5 => !loadwOk w
  | _ => true

/-- R292, R300: a DRAIN has not finished while it reads, or while a beat of it waits for the write port. -/
def Press.drains (p : Press) : Bool := p.drain.isSome || !p.wout.isEmpty

/-- R292, R299, R303: the token that the press of a tile may take now. Beside a DRAIN it takes an MMA, a ZERO or a LOADW that does
not name the DRAIN's accumulator; a READ, a further DRAIN and a malformed token wait for its end. -/
def nextTok (t : Tile) : Option PTok :=
  let p := t.press
  match p.ctl, p.run with
  | x :: _, none =>
    let op := pOp x.word
    let same := match p.drain with
      | some dr => (op = 1 || op = 4) && pAcc x.word = pAcc dr.tok.word
      | none => false
    if same || (p.drains && (op = 2 || op = 3 || tokBad t.bank x.word)) then none else some x
  | _, _ => none

/-- The control queue without its head. -/
def popCtl (s : State) (k : Nat) : State := modPress s k (fun p => { p with ctl := p.ctl.drop 1 })

/-- R303: a malformed token is dropped, and the region freezes with 0x02. -/
def pressBad (s : State) (k : Nat) (w : Code) (d : Word) : State :=
  lateFault (modPress s k (fun p => { p with run := none })) { tileRec s k 0x02 with opa := w.toNat, opb := d.toNat }

/-- R124: the press of a tile still owes a value to a PRS.READ that has issued. -/
def pressOwes (s : State) (l k : Nat) : Bool :=
  (s.tile k).press.ctl.any (fun x => match x.src with
    | .read _ => true
    | _ => false)
  || (leaseCtxs s l).any (fun c => match (s.ctx c).busy with
    | some (.prsWait j _ _) => j == k
    | _ => false)

/-- The event of a press at tile k, when it is a press tile and its lease's units run, or it goes on in a region that has
stopped until every PRS.READ that has issued can complete (R124, R365). -/
def onPressTile (s : State) (k : Nat) (f : Nat → Press → State) : State :=
  match (s.tile k).lease with
  | none => s
  | some l =>
    if (leaseLive s l || ((s.lease l).stopping && pressOwes s l k)) && isPressTile s k && !(s.tile k).halted
    then f l (s.tile k).press else s

/-- Whether the press of a tile has something that it can do without its engines. -/
def pressMoves (t : Tile) : Bool :=
  let p := t.press
  (match p.run, p.wbuf with
    | some r, b :: _ => pOp r.tok.word == 5 || pairOk b.fmt (wFmt r.desc) || !p.drains
    | _, _ => false)
  || (p.drain.isSome && p.wout.isEmpty)
  || (match nextTok t with
    | some x => pOp x.word != 2 || t.room 2 != 0 || (match x.src with
      | .read _ => true
      | _ => false)
    | none => false)

/-- Takes the next token when it is of an operation; one that fails `ok` is dropped. -/
def takeTok (s : State) (k op : Nat) (ok : Code → Bool) (f : Nat → Press → PTok → State → State) : State :=
  onPressTile s k (fun l p =>
    match nextTok (s.tile k) with
    | none => s
    | some x =>
      if pOp x.word ≠ op then s
      else if !ok x.word then pressBad (popCtl s k) k x.word 0
      else f l p x (progress (popCtl s k) l))

/-- R302: the acquire of an MMA or LOADW from PRS.ISSUE: the buffered beats are dropped, to be fetched again behind it. It is
performed for the issuing context and for the tile, whose agent the read engine is (R327, log entry 19). -/
def pressAcquire (s : State) (l k : Nat) (src : PSrc) : State :=
  match src with
  | .issue c true _ scope =>
    let s1 := modPress s k (fun p => { p with wbuf := [] })
    acquireBy (acquireBy s1 { lease := l, agent := .ctx c } scope 0) { lease := l, agent := .tile k } scope 0
  | _ => s

/-- R293, R294, R303: an MMA is taken and checked. -/
def takeMma (s : State) (k : Nat) : State :=
  takeTok s k 1 (fun _ => true) (fun l _ x s1 =>
    let d := weightDesc (s.tile k).bank (x.word.fld 21 3)
    if lateFor s (.bank k) bankPress then s
    else if mmaBad x.word d then pressBad s1 k x.word d
    else modPress (pressAcquire (serve s1 (.bank k) bankPress) l k x.src) k (fun p => { p with run := some { tok := x, desc := d } }))

/-- R291, R303: a token of a reserved operation is dropped when its turn comes. -/
def dropReserved (s : State) (k : Nat) : State :=
  onPressTile s k (fun _ _ =>
    match nextTok (s.tile k) with
    | none => s
    | some x => if pOp x.word = 0 || 6 ≤ pOp x.word then pressBad (popCtl s k) k x.word 0 else s)

/-- R296. The press takes an MMA token and its descriptor. A token of a reserved operation at the head of the queue
is dropped here (R303). -/
def execPressMma (tile : Nat) (s : State) : Out := .next (takeMma (dropReserved s tile) tile)

/-! ### Beats (R290, R296, R463) -/

/-- The wide port of a tile in a direction. -/
def widePort (s : State) (l k : Nat) (dir : Bool) : Option Nat :=
  ((s.lease l).engines.find? (fun e => e.2.side == 8 && e.2.tile == k && e.2.dir == dir && e.2.bound)).map (fun e => e.1)

/-- The press consumes the beat at the head of its buffer: its elements count as delivered. -/
def consumeBeat (s : State) (l k : Nat) (b : Beat) : State :=
  let s1 := progress (modPress s k (fun p => { p with wbuf := p.wbuf.drop 1 })) l
  match widePort s1 l k false with
  | none => s1
  | some p =>
    let e := eng s1 l p
    let n := e.committed + b.n
    let s2 := setEng s1 l p { e with committed := n, pos := posOf e.ext n }
    if e.total ≤ n && e.st == .running then engFinish s2 l p else s2

/-- R287, R296, R304: the panels that a beat needs: its chunk's, and from the chunk's first beat on the next chunk's, in the
second panel. When within a chunk the second panel reads the bank is not stated: at the chunk's first beat (DESIGN CHOICE, log
entry 28). -/
def PressRun.loaded (r : PressRun) (m : Memory) : PressRun :=
  let w := r.tok.word
  { r with
    panel := if r.panel.isEmpty then loadPanel m w r.desc r.chunk else r.panel
    panel2 := if r.panel2.isEmpty && r.chunk + 1 < mmaChunks w r.desc then loadPanel m w r.desc (r.chunk + 1) else r.panel2 }

/-- Whether a beat's row reads a panel from the bank. -/
def PressRun.loads (r : PressRun) : Bool :=
  r.panel.isEmpty || (r.panel2.isEmpty && r.chunk + 1 < mmaChunks r.tok.word r.desc)

/-- The run after a row: the next row, the next chunk with the panel that has been loaded for it, or the end. -/
def PressRun.next (r : PressRun) : Option PressRun :=
  if r.row + 1 < mmaM r.tok.word then some { r with row := r.row + 1 }
  else if r.chunk + 1 < mmaChunks r.tok.word r.desc then some { r with chunk := r.chunk + 1, row := 0, panel := r.panel2, panel2 := [] }
  else none

/-- R296: one beat of an MMA. The A format is checked at the first beat, which a token that fails leaves in the buffer; a DRAIN
ahead of the token finishes first (R303). -/
def mmaBeat (s : State) (l k : Nat) (r : PressRun) (b : Beat) : State :=
  let w := r.tok.word
  if !pairOk b.fmt (wFmt r.desc) then (if (s.tile k).press.drains then s else pressBad s k w r.desc)
  else if r.loads && lateFor s (.bank k) bankPress then s
  else
    let q := r.loaded (s.tile k).bank
    let s1 := modPress (if r.loads then serve s (.bank k) bankPress else s) k (fun p =>
      let acc := if r.chunk = 0 && r.row = 0 && w.fld 25 1 = 0 then clearRegion p.acc w r.desc else p.acc
      { p with acc := applyBeat acc w r.desc q.panel r.row b, run := q.next })
    consumeBeat s1 l k b

/-- R296. The press consumes one A beat and updates an accumulator row. -/
def execPressMmaBeat (tile : Nat) (s : State) : Out :=
  .next (onPressTile s tile (fun l p =>
    match p.run, p.wbuf with
    | some r, b :: _ => if pOp r.tok.word = 1 then mmaBeat s l tile r b else s
    | _, _ => s))

/-! ### READ, DRAIN, ZERO and LOADW (R299 to R302) -/

/-- R299: a READ completes, when its o2 has room or its context waits. -/
def readTok (s : State) (k : Nat) (x : PTok) (p : Press) (s1 : State) : State :=
  let v := Tbl.get 0 p.acc (accKey (pAcc x.word) (x.word.fld 20 6) (x.word.fld 14 6))
  match x.src with
  | .read c =>
    match (s1.ctx c).busy with
    | some (.prsRead d) => complete s1 c (fun y => (y.wg d (v.setWidth 64)).past)
    | _ => s1
  | _ =>
    if (s.tile k).room 2 = 0 then s
    else s1.modTile k (fun t => t.setOq 2 (t.oq 2 ++ [dataTok v]))

/-- R299. The press returns one accumulator element. -/
def execPressRead (tile : Nat) (s : State) : Out :=
  .next (takeTok s tile 2 (fun w => w.fld 0 14 == 0) (fun _ p x s1 => readTok s tile x p s1))

/-- R300. The press starts reading accumulator rows out. -/
def execPressDrain (tile : Nat) (s : State) : Out :=
  .next (takeTok s tile 3 drainOk (fun _ _ x s1 => modPress s1 tile (fun p => { p with drain := some { tok := x } })))

/-- R300: a value of a DRAIN: the 32 bits, or rounded to BF16. -/
def drainVal (fmt : Nat) (v : Code) : Code :=
  if fmt = 4 then BitVec.ofNat 32 (Fmt.bf16.enc .rne false (Fmt.fp32.dec v.toNat)).1 else v

/-- R300: one beat of a DRAIN, behind the one that the write port has still to take. -/
def drainBeat (s : State) (l k : Nat) (p : Press) (dr : PressDrainRun) : State :=
  let w := dr.tok.word
  let fmt := w.fld 9 4
  let n := if fmt = 4 then 32 else 16
  let total := 64 * (w.fld 14 6 + 1)
  let keys := (List.range n).map (fun i => pAcc w * 4096 + w.fld 20 6 * 64 + dr.pos + i)
  let last := total ≤ dr.pos + n
  let ord : Option Nat × Option Nat := match dr.tok.src with
    | .issue c _ rel scope => (some c, if rel && last then some scope else none)
    | _ => (none, none)
  let b : Beat :=
    { fmt, slots := keys.map (fun j => drainVal fmt (Tbl.get 0 p.acc j)), n, who := ord.1, rel := ord.2, first := dr.pos == 0 }
  progress (modPress s k (fun p =>
    { p with
      acc := if w.fld 13 1 = 1 then p.acc.filter (fun e => !keys.contains e.1) else p.acc
      wout := p.wout ++ [b]
      drain := if last then none else some { dr with pos := dr.pos + n } })) l

/-- R300. One DRAIN beat goes to the write port. -/
def execPressDrainBeat (tile : Nat) (s : State) : Out :=
  .next (onPressTile s tile (fun l p =>
    match p.drain, p.wout with
    | some dr, [] => drainBeat s l tile p dr
    | _, _ => s))

/-- R301. The press clears an accumulator. -/
def execPressZero (tile : Nat) (s : State) : Out :=
  .next (takeTok s tile 4 (fun w => w.fld 0 26 == 0) (fun _ _ x s1 =>
    modPress s1 tile (fun p => { p with acc := p.acc.filter (fun e => e.1 / 4096 != pAcc x.word) })))

/-- R290, R301: the 64 bytes of a beat: the codes from the low bits up; `high` fills what an L6 beat leaves of them. -/
def beatBytes (b : Beat) (high : Nat) : Nat :=
  let w := tyWidth b.fmt
  let v := (b.slots.take (512 / w)).foldr (fun c a => c.toNat % 2 ^ w + a * 2 ^ w) 0
  if b.fmt = 8 then v % 2 ^ 384 + high * 2 ^ 384 else v

/-- R301: one beat of a LOADW. The upper 128 bits of an L6 beat are open (log entry 8). -/
def loadwBeat (s : State) (l k : Nat) (r : PressRun) (b : Beat) : State :=
  let w := r.tok.word
  let n := s.freeN
  let high := (Config.freeWord n).toNat + (Config.freeWord (n + 1)).toNat * 2 ^ 64
  let s0 : State := serve (if b.fmt = 8 then { s with freeN := n + 2 } else s) (.bank k) bankPress
  let s1 := s0.modTile k (fun t => { t with bank := t.bank.writeN (32 * w.fld 16 11 + 64 * r.row) 64 (beatBytes b high) })
  consumeBeat (modPress s1 k (fun p =>
    { p with run := if r.row = w.fld 6 10 then none else some { r with row := r.row + 1 } })) l k b

/-- A LOADW in progress takes its next beat; else the press takes a LOADW from its queue. -/
def loadwStep (s : State) (k : Nat) : State :=
  onPressTile s k (fun l p =>
    match p.run, p.wbuf with
    | some r, b :: _ => if pOp r.tok.word = 5 && !lateFor s (.bank k) bankPress then loadwBeat s l k r b else s
    | some _, [] => s
    | none, _ =>
      takeTok s k 5 loadwOk (fun l _ x s1 =>
        modPress (pressAcquire s1 l k x.src) k (fun p => { p with run := some { tok := x } })))

/-- R301. The press writes read-port beats raw into the bank. -/
def execPressLoadw (tile : Nat) (s : State) : Out := .next (loadwStep s tile)

end Sys2Proof.Machine
end

