-- ==== Sys2Proof/Machine/Flue.lean ====
section
/-! DEFINITION. The flues: correctly rounded functions, requests of stokers and tiles, replies (03 R107, 06 R209, 09 R306 to R313). -/

namespace Sys2Proof.Machine

/-! ### Fixed-point series: numbers in units of 2^−192 (R107, log entry 20) -/

namespace FlueFn

def F : Nat := 192
def unit : Nat := 2 ^ F
/-- π and ln 2, cut off at 192 fractional bits. -/
def piF : Nat := 0x3243f6a8885a308d313198a2e03707344a4093822299f31d0
def ln2F : Nat := 0xb17217f7d1cf79abc9e3b39803f2f6af40f343267298b62d

/-- Σ t^i / i! from i = n, `term` being the first. -/
def expSer (t n term : Nat) : Nat → Nat
  | 0 => 0
  | k + 1 => term + expSer t (n + 1) (term * t / unit / (n + 1)) k

/-- e^t for 0 ≤ t < 1. -/
def expF (t : Nat) : Nat := expSer t 0 unit 60

/-- (e^y − 1) / y for 0 ≤ y ≤ 1: Σ y^i / (i + 1)!. -/
def expm1F (y : Nat) : Nat := expSer y 1 unit 60

/-- e^(−v) as U × 2^(−192 − k). -/
def expNeg (v : Nat) : Nat × Nat :=
  let k := v / ln2F
  (unit * unit / expF (v - k * ln2F), k)

/-- Σ z^(2i + 1) / (2i + 1), `p` being the power at hand. -/
def atanhSer (z2 n p : Nat) : Nat → Nat
  | 0 => 0
  | k + 1 => p / (2 * n + 1) + atanhSer z2 (n + 1) (p * z2 / unit) k

/-- The binary logarithm of m × 2^−b, a number from 1 up to 2. -/
def log2F (m b : Nat) : Nat :=
  let z := (m - 2 ^ b) * unit / (m + 2 ^ b)
  2 * atanhSer (z * z / unit) 0 z 70 * unit / ln2F

/-- Σ (−1)^i z2^i / (2i + 1)!, `term` being the magnitude at hand. -/
def sinSer (z2 n term : Nat) (neg : Bool) : Nat → Int
  | 0 => 0
  | k + 1 =>
    (if neg then -(term : Int) else (term : Int)) + sinSer z2 (n + 1) (term * z2 / unit / ((2 * n + 2) * (2 * n + 3))) (!neg) k

/-- sin(πt) for 0 < t ≤ 1/2, t in units: a magnitude in units of 2^−576. -/
def sinF (t : Nat) : Nat :=
  let z := piF * t / unit
  t * piF * (sinSer (z * z / unit) 0 unit false 40).toNat

/-! ### The functions (R107, R308, R311) -/

/-- The nearest code to a value that is not exact. -/
def near (f : Fmt) (neg : Bool) (m : Nat) (e : Int) : Nat := (f.encS .rne false (.num neg m e) true).1

def oneV : FV := .num false 1 0
def exact (f : Fmt) (v : FV) : Nat := (f.enc .rne false v).1

def exp2 (f : Fmt) : FV → Nat
  | .nan => f.canonNaN
  | .inf neg => if neg then 0 else f.topCode
  | .num neg m e =>
    let x : Nat := m * 2 ^ (e + F).toNat
    if !neg && 128 * unit ≤ x then f.topCode
    else if neg && 160 * unit ≤ x then 0
    else
      let z : Int := if neg then -(x : Int) else (x : Int)
      let fr := (z % (unit : Int)).toNat
      let k := z / (unit : Int)
      if fr = 0 then exact f (.num false 1 k) else near f false (expF (fr * ln2F / unit)) (k - F)

def log2 (f : Fmt) : FV → Nat
  | .nan => f.canonNaN
  | .inf neg => if neg then f.canonNaN else f.topCode
  | .num neg m e =>
    if m = 0 then f.withSign true f.topCode
    else if neg then f.canonNaN
    else
      let b := Nat.log2 m
      let k : Int := e + b
      if m = 2 ^ b then exact f (.ofInt k)
      else
        let v : Int := k * (unit : Int) + (log2F m b : Int)
        near f (decide (v < 0)) v.natAbs (-(F : Int))

def rsqrt (f : Fmt) : FV → Nat
  | .nan => f.canonNaN
  | .inf neg => if neg then f.canonNaN else 0
  | .num neg m e =>
    if m = 0 then f.withSign neg f.topCode
    else if neg then f.canonNaN
    else
      let odd := e % 2 != 0
      let p := if odd then 2 * m else m
      let h := (if odd then e - 1 else e) / 2
      let r := isqrt (4 ^ 64 / p)
      (f.encS .rne false (.num false r (-64 - h)) (decide (r * r * p ≠ 4 ^ 64))).1

/-- sin(πx), or cos(πx) = sin(π(|x| + 1/2)). -/
def sinCos (f : Fmt) (cos : Bool) : FV → Nat
  | .nan => f.canonNaN
  | .inf _ => f.canonNaN
  | .num neg m e =>
    let x : Nat := (m * 2 ^ (e + F).toNat + (if cos then unit / 2 else 0)) % (2 * unit)
    let flip := decide (unit ≤ x)
    let r := if flip then x - unit else x
    let t := if unit / 2 < r then unit - r else r
    let sgn := if cos then flip else flip != neg
    if t = 0 then f.withSign (!cos && neg) 0
    else if t = unit / 2 then exact f (.num sgn 1 0)
    else near f sgn (sinF t) (-(3 * F : Int))

def tanh (f : Fmt) : FV → Nat
  | .nan => f.canonNaN
  | .inf neg => exact f (.num neg 1 0)
  | .num neg m e =>
    let x : Nat := m * 2 ^ (e + F).toNat
    if m = 0 then f.withSign neg 0
    else if 64 * unit ≤ x then exact f (.num neg 1 0)
    else if unit ≤ 2 * x then
      let u := expNeg (2 * x)
      let w := u.1 / 2 ^ u.2
      near f neg ((unit - w) * unit / (unit + w)) (-(F : Int))
    else
      let n := m * expm1F (2 * x)
      let sh := F + (-e).toNat
      near f neg (n * 2 ^ sh / (n + 2 ^ sh)) (-(sh : Int))

def sigm (f : Fmt) : FV → Nat
  | .nan => f.canonNaN
  | .inf neg => if neg then 0 else exact f oneV
  | .num neg m e =>
    let x : Nat := m * 2 ^ (e + F).toNat
    if m = 0 then exact f (.num false 1 (-1))
    else if !neg && 64 * unit ≤ x then exact f oneV
    else if neg && 200 * unit ≤ x then 0
    else
      let u := expNeg x
      let d := unit + u.1 / 2 ^ u.2
      if neg then near f false (u.1 * unit / d) (-(F : Int) - u.2) else near f false (unit * unit / d) (-(F : Int))

end FlueFn

/-- R311: a flue function on a code. -/
def flueEval (fn : Nat) (f : Fmt) (c : Nat) : Nat :=
  let x := f.dec c
  match fn with
  | 0 => FlueFn.exp2 f x
  | 1 => FlueFn.log2 f x
  | 2 => (f.div .rne false (FlueFn.exact f FlueFn.oneV) c).1
  | 3 => FlueFn.rsqrt f x
  | 4 => (f.sqrt .rne false c).1
  | 5 => FlueFn.sinCos f false x
  | 6 => FlueFn.sinCos f true x
  | 7 => FlueFn.tanh f x
  | _ => FlueFn.sigm f x

/-! ### Requests of tiles (R307 to R312) -/

/-- The tile in row r of a flue's column. -/
def flueTile (f r : Nat) : Nat := tileKey (f / 32) r (f % 32)

/-- The values of a burst of n, up to an EOS, and what follows it; none until it is there. -/
def takeBurst (n : Nat) (vs : List Token) : List Token → Option (List Token × List Token)
  | [] => if n = 0 then some (vs, []) else none
  | x :: r =>
    if n = 0 then some (vs, x :: r)
    else if x.kind = 2 then some (vs ++ [x], r)
    else takeBurst (n - 1) (vs ++ [x]) r

/-- A whole request at a flue: its requester's number, its control token, its values, and for a tile the rest of its stream, for
a stoker the context and the register that waits for the result. -/
structure FReq where
  at_ : Nat
  tile : Nat
  ctl : Code
  vals : List Token
  rest : List Token := []
  who : Option (Nat × BitVec 5) := none

/-- The request at the head of a tile's stream, if it is whole and its lease's units run. -/
def tileReq (s : State) (k : Nat) : Option FReq :=
  match (s.tile k).lease, (s.tile k).fstream with
  | some l, x :: r =>
    if x.kind = 5 && leaseLive s l then
      (takeBurst (fluCnt x.pay) [] r).map (fun b => { at_ := tileRow k, tile := k, ctl := x.pay, vals := b.1, rest := b.2 })
    else none
  | _, _ => none

/-- The FLUE form that a context waits in, with the ordinal at which it set out. -/
def flueOfCtx (s : State) (k b : Nat) : Option (Nat × FReq) :=
  match (s.ctx k).busy with
  | some (.flue fn d v n) =>
    some (n, { at_ := 32 + b, tile := 0, ctl := BitVec.ofNat 32 (fn * 2 ^ 28 + 5 * 2 ^ 24), vals := [dataTok v], who := some (k, d) })
  | _ => none

/-- R209, R306: the request of the stoker in block row b of a flue's block column: of its two contexts that the flue serves the one
whose form set out first (R54). An issued form completes in a frozen region too (R124). -/
def stokerReq (s : State) (f b : Nat) : Option FReq :=
  let st := (f / 32 * 8 + b) * 8 + f % 32 / 4
  match flueOfCtx s (st * 8 + f % 4) b, flueOfCtx s (st * 8 + f % 4 + 4) b with
  | some x, some y => some (if x.1 ≤ y.1 then x.2 else y.2)
  | some x, none => some x.2
  | none, y => y.map (fun y => y.2)

/-- R306: the next ready request in the round robin: rows 0 to 31, then stokers by block row. -/
def nextReq (s : State) (f : Nat) : Option FReq :=
  let rr := (s.flue f).rr
  ((List.range 40).map (fun i => (rr + i) % 40)).findSome? (fun r =>
    if r < 32 then tileReq s (flueTile f r) else stokerReq s f (r - 32))

/-- R310: results that the flue's reply buffer holds. -/
def flueHeld (s : State) (f : Nat) : Nat :=
  (List.range 32).foldl (fun a r => a + ((s.tile (flueTile f r)).freply.foldl (fun a l => a + l.length) 0)) 0

/-- R308, R309: the reply to one value. -/
def flueResult (fn fmt : Nat) (x : Token) : Token :=
  if x.kind = 2 || x.kind = 3 then x
  else
    let f : Fmt := if fmt = 4 then .bf16 else .fp32
    dataTok (BitVec.ofNat 32 (flueEval fn f (x.pay.toNat % 2 ^ f.width)))

/-- The flue serves a request, and the round robin goes on behind it. A tile's request leaves its stream; a stoker's ends its
FLUE form with the result, boxed (R209). -/
def flueServe (s : State) (f : Nat) (q : FReq) (reply : List (List Token)) : State :=
  let s1 := s.setFlue f { rr := (q.at_ + 1) % 40 }
  match q.who with
  | some (c, d) => complete s1 c (fun x => (x.wf d (boxFmt .fp32 ((reply.headD []).headD {}).pay.toNat)).past)
  | none =>
    progress (s1.modTile q.tile (fun t => { t with fstream := q.rest, fbad := false, freply := t.freply ++ reply }))
      ((s.tile q.tile).lease.getD 0)

/-- R309, R310: the grant of a request of a function, when it is the next and its results have room. -/
def flueGrant (s : State) (f fn : Nat) : State :=
  match nextReq s f with
  | none => s
  | some q =>
    if flueBad q.ctl || fluFn q.ctl ≠ fn || 256 < flueHeld s f + fluCnt q.ctl then s
    else flueServe s f q [q.vals.map (flueResult fn (fluFmt q.ctl))]

/-! ### FLUE.fn of a stoker (R209) -/

/-- The flue of a context. -/
def ctxFlue (k : Nat) : Nat := flueKey (ctxDie k) (4 * stokerBCol (k / 8) + k % 4)

/-- R209, R306: the request goes to the flue of the context's column, which serves it at once where it is the next of the round
robin and its result has room, and else in its turn. -/
def flueForm (s : State) (fn : Nat) (d a : BitVec 5) : State :=
  let k := me s
  let v := BitVec.ofNat 32 (readFmt .fp32 (s.cc.rf a))
  if !mayInject s (myLease s) then s
  else
    let s1 := (countInj s (myLease s) (ctxDie k)).modC (fun c => { c with busy := some (.flue fn d v s.ordn) })
    match nextReq s1 (ctxFlue k) with
    | some q => if q.who == some (k, d) then flueGrant s1 (ctxFlue k) fn else s1
    | none => s1

/-- R209. Evaluates 2^x on the column's flue. -/
def execFlueExp2 (d a : BitVec 5) (s : State) : Out := .next (flueForm s 0 d a)
/-- R209. Evaluates log2 x on the flue. -/
def execFlueLog2 (d a : BitVec 5) (s : State) : Out := .next (flueForm s 1 d a)
/-- R209. Evaluates 1/x on the flue. -/
def execFlueRcp (d a : BitVec 5) (s : State) : Out := .next (flueForm s 2 d a)
/-- R209. Evaluates 1/sqrt x on the flue. -/
def execFlueRsqrt (d a : BitVec 5) (s : State) : Out := .next (flueForm s 3 d a)
/-- R209. Evaluates sqrt x on the flue. -/
def execFlueSqrt (d a : BitVec 5) (s : State) : Out := .next (flueForm s 4 d a)
/-- R209. Evaluates sin(pi x) on the flue. -/
def execFlueSinpi (d a : BitVec 5) (s : State) : Out := .next (flueForm s 5 d a)
/-- R209. Evaluates cos(pi x) on the flue. -/
def execFlueCospi (d a : BitVec 5) (s : State) : Out := .next (flueForm s 6 d a)
/-- R209. Evaluates tanh x on the flue. -/
def execFlueTanh (d a : BitVec 5) (s : State) : Out := .next (flueForm s 7 d a)
/-- R209. Evaluates the logistic sigmoid on the flue. -/
def execFlueSigm (d a : BitVec 5) (s : State) : Out := .next (flueForm s 8 d a)

/-! ### The events of a flue -/

/-- R308. The flue grants an EXP2 request burst. -/
def execFlueTokenExp2 (flue : Nat) (s : State) : Out := .next (flueGrant s flue 0)
/-- R308. The flue grants a LOG2 request burst. -/
def execFlueTokenLog2 (flue : Nat) (s : State) : Out := .next (flueGrant s flue 1)
/-- R308. The flue grants an RCP request burst. -/
def execFlueTokenRcp (flue : Nat) (s : State) : Out := .next (flueGrant s flue 2)
/-- R308. The flue grants an RSQRT request burst. -/
def execFlueTokenRsqrt (flue : Nat) (s : State) : Out := .next (flueGrant s flue 3)
/-- R308. The flue grants a SQRT request burst. -/
def execFlueTokenSqrt (flue : Nat) (s : State) : Out := .next (flueGrant s flue 4)
/-- R308. The flue grants a SINPI request burst. -/
def execFlueTokenSinpi (flue : Nat) (s : State) : Out := .next (flueGrant s flue 5)
/-- R308. The flue grants a COSPI request burst. -/
def execFlueTokenCospi (flue : Nat) (s : State) : Out := .next (flueGrant s flue 6)
/-- R308. The flue grants a TANH request burst. -/
def execFlueTokenTanh (flue : Nat) (s : State) : Out := .next (flueGrant s flue 7)
/-- R308. The flue grants a SIGM request burst. -/
def execFlueTokenSigm (flue : Nat) (s : State) : Out := .next (flueGrant s flue 8)

/-- R307: the tokens of a stream that does not begin with a control token, up to and with the next EOS, or up to the next
control token; the mark says that the end has not come yet. -/
def dropStray : List Token → List Token × Bool
  | [] => ([], true)
  | x :: r => if x.kind = 5 then (x :: r, false) else if x.kind = 2 then (r, false) else dropStray r

/-- A tile of a column whose stream stands at such tokens. -/
def strayTile (s : State) (f : Nat) : Option (Nat × Token) :=
  ((List.range 32).map (flueTile f)).findSome? (fun k =>
    match (s.tile k).lease, (s.tile k).fstream with
    | some l, x :: _ => if (x.kind ≠ 5 || (s.tile k).fbad) && leaseLive s l then some (k, x) else none
    | _, _ => none)

/-- R307, R312: stray tokens of a stream are dropped, with one fault; else a malformed control token in its turn is absorbed
with its burst. -/
def flueMalformed (s : State) (f : Nat) : State :=
  match strayTile s f with
  | some (k, x) =>
    let t := s.tile k
    let r := dropStray t.fstream
    let s1 := s.setTile k { t with fstream := r.1, fbad := r.2 }
    if t.fbad then s1 else fabricFault s1 { tileRec s1 k 0x02 with opa := x.pay.toNat }
  | none =>
    match nextReq s f with
    | none => s
    | some q =>
      if flueBad q.ctl then
        fabricFault (flueServe s f q []) { tileRec s q.tile 0x02 with opa := q.ctl.toNat }
      else s

/-- R312. A malformed flue token is absorbed with fault 0x02. -/
def execFlueTokenMalformed (flue : Nat) (s : State) : Out := .next (flueMalformed s flue)

/-- Where the next token of a tile's replies stands and goes: from the checkpoint buffer or the flue, to q3, to the checkpoint
buffer in a drain that finds q3 full (R313), or nowhere where the tile has no word for it (R307). -/
inductive ReplyMove where
  | land (saved : Bool)
  | keep
  | drop (saved : Bool)
deriving DecidableEq, Repr

/-- The next token of a tile's replies and its move, if it can move now. Of one fc's tokens to q3 it enters behind those of lower in
ports (R443). -/
def replyDue (s : State) (k : Nat) : Option (Token × ReplyMove) :=
  let t := s.tile k
  let room := t.qRoom 3 && t.held 6 3 = 0 && !lateFor s (.inq k 3) 7
  let saved := (t.ckpt.find? (fun e => e.1 == replyKey)).map (fun e => e.2.tok)
  match t.lease, saved, t.freply.flatten with
  | some l, none, x :: _ =>
    if !leaseLive s l then none
    else if !(t.routes 7 4 0 0).any (fun r => r.1 == 6) then some (x, .drop false)
    else if room then some (x, .land false)
    else if draining s l && t.ckpt.length < 64 then some (x, .keep) else none
  | some l, some y, fs =>
    if !leaseLive s l then none
    else if draining s l then (match fs with
      | [] => none
      | x :: _ => if t.ckpt.length < 64 then some (x, .keep) else none)
    else if !(t.routes 7 4 0 0).any (fun r => r.1 == 6) then some (y, .drop true)
    else if room then some (y, .land true) else none
  | _, _, _ => none

/-- The replies of a tile without their next token. -/
def Tile.cutReply (t : Tile) : Tile :=
  match t.freply with
  | [] => t
  | x :: r => { t with freply := if x.length ≤ 1 then r else x.drop 1 :: r }

/-- A checkpoint buffer without the first reply that it holds. -/
def cutSaved : List (Nat × ChTok) → List (Nat × ChTok)
  | [] => []
  | e :: r => if e.1 != replyKey then e :: cutSaved r else if e.2.rc = 1 then r else cutSaved r

/-- The replies of a tile without the first. -/
def Tile.cutFirst (t : Tile) (saved : Bool) : Tile :=
  if saved then { t with ckpt := cutSaved t.ckpt } else { t with freply := t.freply.drop 1 }

/-- R309, R313: the next token of a tile's replies moves; a reply for which the tile has no word is dropped whole, with one fault. -/
def flueReply (s : State) (f : Nat) : State :=
  match ((List.range 32).map (flueTile f)).findSome? (fun k => (replyDue s k).map (fun r => (k, r))) with
  | none => s
  | some (k, x, .land false) => serve (arriveQ (s.modTile k Tile.cutReply) k 3 x) (.inq k 3) 7
  | some (k, x, .land true) =>
    serve (arriveQ (s.modTile k (fun t => { t with ckpt := t.ckpt.eraseIdx (t.ckpt.findIdx (fun e => e.1 == replyKey)) })) k 3 x) (.inq k 3) 7
  | some (k, _, .keep) =>
    s.modTile k (fun t => { t.cutReply with ckpt := t.ckpt ++ (landReply (t.lease.getD 0) (t.freply.headD [])).take 1 })
  | some (k, x, .drop saved) =>
    fabricFault (s.modTile k (fun t => t.cutFirst saved)) { tileRec s k 0x02 with opa := x.pay.toNat }

/-- R309. The flue returns correctly rounded results to the requester. -/
def execFlueReply (flue : Nat) (s : State) : Out := .next (flueReply s flue)

end Sys2Proof.Machine
end

