-- ==== Sys2Proof/Machine/Place.lean ====
section
/-! DEFINITION. Placements: where a lease fits (11 R350, R351), the tiles and contexts it takes (01 R19, R32, 11 R346), the save image and the restore (11 R371, R374, R376), and quiescence (11 R359). -/

namespace Sys2Proof.Machine

/-! ### Positions of an image (R78, R350) -/

/-- Every rectangle position of an image, in ascending (rect, row, col). -/
def imagePos (im : Image) : List (Nat × Nat × Nat) :=
  (im.rects.mapIdx (fun i r => (i, r))).flatMap (fun e =>
    (List.range e.2.rows).flatMap (fun r => (List.range e.2.cols).map (fun c => (e.1, r, c))))

/-- The tile of a rectangle position with rectangle 0's north-west corner at a tile. -/
def posTile (im : Image) (corner : Nat) (x : Nat × Nat × Nat) : Option Nat :=
  match im.rects[x.1]? with
  | none => none
  | some r => tileAt (tilePRow corner + r.row0 + x.2.1) (tilePCol corner + r.col0 + x.2.2)

/-- The tiles of a placement; none if a position lies outside the package. -/
def placedTiles (im : Image) (corner : Nat) : Option (List Nat) :=
  let ts := (imagePos im).map (posTile im corner)
  if ts.all Option.isSome then some (ts.filterMap id) else none

/-- Whether an image declares a press tile. -/
def Image.hasPress (im : Image) : Bool := !(pressAt im).isEmpty

/-- R286: whether every rectangle that holds press tiles has its corner at an even row and an even column. -/
def pressEven (im : Image) (corner : Nat) : Bool :=
  (pressAt im).all (fun p => match im.rects[p.1]? with
    | none => true
    | some r => (tileRow corner + r.row0) % 2 == 0 && (tileCol corner + r.col0) % 2 == 0)

/-- The list with each element once. -/
def once (l : List Nat) : List Nat := l.foldl (fun acc x => if acc.contains x then acc else acc ++ [x]) []

/-- The stokers of a list of tiles, ascending. -/
def stokersOf (ts : List Nat) : List Nat := sortBy id (once (ts.map tileStoker))

/-- The code of a rectangle position, and back (R376). -/
def posCode (x : Nat × Nat × Nat) : Nat := x.1 * 2 ^ 13 + x.2.1 * 2 ^ 7 + x.2.2
def posOfCode (c : Nat) : Nat × Nat × Nat := (c / 2 ^ 13, c / 2 ^ 7 % 64, c % 128)

/-! ### Fits (R349, R350, R351) -/

/-- The quad of a tile in its die (R420). -/
def quadOf (k : Nat) : Nat := tileRow k / 2 * 16 + tileCol k / 2

/-- Whether a partition's allotment holds a tile's quad, less the quads that a resize removes (R349, R379). -/
def mayHold (s : State) (p k : Nat) : Bool :=
  match (List.range 8).find? (fun d => physDie s p d == some (tileDie k)) with
  | none => false
  | some d =>
    let i := 4 * d + quadOf k / 64
    ((Tbl.get (0 : Word) (s.part p).allot i).fld (quadOf k % 64) 1 == 1)
      && ((Tbl.get (0 : Word) (s.part p).resize i).fld (quadOf k % 64) 1 == 0)

/-- What is taken: tiles, and one stoker number for each context in use. -/
structure Taken where
  tiles : List Nat := []
  blocks : List Nat := []
deriving Inhabited

/-- What a placement takes. -/
def takenBy (im : Image) (corner : Nat) : Taken :=
  let ts := (placedTiles im corner).getD []
  { tiles := ts, blocks := stokersOf ts }

def Taken.add (a b : Taken) : Taken := { tiles := a.tiles ++ b.tiles, blocks := a.blocks ++ b.blocks }

/-- What a lease will take at a corner, beside the contexts that it has there already. -/
def takenTo (s : State) (l corner : Nat) : Taken :=
  let t := takenBy (s.lease l).image corner
  { t with blocks := t.blocks.filter (fun b => !(leaseCtxs s l).any (fun k => k / 8 == b)) }

/-- What a plan of the placer will take: its launch's place and those of the leases still to be moved (R352). -/
def planTaken (s : State) (pl : Plan) : Taken :=
  let w := s.waitL.find? (fun w => w.part == pl.part && w.queue == pl.queue)
  (pl.moves ++ pl.parked).foldl (fun a e => a.add (takenTo s e.1 e.2))
    ((w.map (fun w => takenBy w.image pl.dest)).getD {})

/-- What is reserved: the destinations of leases in a move or resuming, and of the placer's plans (R352, R375, R376). -/
def reserved (s : State) (skip : List Nat) : Taken :=
  let a := s.leases.foldl (fun a e =>
    let going := e.2.st == .moving || e.2.st == .copying || e.2.st == .resuming
    if going && !skip.contains e.1 then a.add (takenTo s e.1 ((e.2.work.map (fun w => w.dest)).getD 0)) else a) {}
  s.plans.foldl (fun a pl => a.add (planTaken s pl)) a

/-- What is taken in the package, with the leases of `out` counted as gone; `own` keeps its tiles but not its contexts. -/
def takenNow (s : State) (out : List Nat) (own : Option Nat) : Taken :=
  let tiles := s.tiles.filterMap (fun e => match e.2.lease with
    | some l => if out.contains l then none else some e.1
    | none => none)
  let blocks := s.ctxs.filterMap (fun e =>
    if e.2.st = .free || out.contains e.2.lease || own == some e.2.lease then none else some (e.1 / 8))
  ({ tiles, blocks } : Taken).add (reserved s (out ++ own.toList))

/-- R350: whether a position fits; `homes` are the home tiles of contexts that the lease holds already. -/
def fitsAt (s : State) (p : Nat) (im : Image) (t : Taken) (homes : List Nat) (corner : Nat) : Bool :=
  match placedTiles im corner with
  | none => false
  | some ks =>
    let hs := (homes.filterMap (fun h => posTile im corner (posOfCode h))).map tileStoker
    ks.all (fun k => mayHold s p k && !t.tiles.contains k)
      && (!im.hasPress || (tileRow corner % 2 == 0 && tileCol corner % 2 == 0)) && pressEven im corner
      && (stokersOf ks).all (fun b => countOf b t.blocks < 8)
      && (once hs).length == hs.length

/-- R351: the corner positions that first fit tries, in order. -/
def corners (s : State) (p : Nat) (im : Image) : List Nat :=
  let step := if im.hasPress then 2 else 1
  let line := (List.range (32 / step)).map (fun i => i * step)
  ((List.range 8).filterMap (fun d => physDie s p d)).flatMap (fun die =>
    line.flatMap (fun r => line.map (fun c => tileKey die r c)))

/-- R351: first fit. -/
def firstFit (s : State) (p : Nat) (im : Image) (t : Taken) (homes : List Nat) : Option Nat :=
  (corners s p im).find? (fitsAt s p im t homes)

/-! ### Contexts (R31, R32) -/

/-- R31: the lease register. -/
def leaseReg (l : Nat) (le : Lease) : Word :=
  BitVec.ofNat 64 (mkTag le.part le.slot * 2 ^ 16 + le.cls * 2 ^ 12 + l)

/-- R31: the ctx register, with the customer's number of the die. -/
def ctxReg (s : State) (p k : Nat) : Word :=
  BitVec.ofNat 64 (k % 8 + stokerBRow (k / 8) * 2 ^ 3 + stokerBCol (k / 8) * 2 ^ 6 + logDie s 2 p (ctxDie k) * 2 ^ 9)

/-- R32: the entry address of a block: that of the first context record in the block, else of the first record. pc holds 64 bits, of
which [1:0] are zero (R24): of an entry that is not so, the other bits are dropped (DESIGN CHOICE, log entry 28). -/
def entryOf (im : Image) (corner st : Nat) : Nat :=
  let inBlock (r : CtxRec) : Bool :=
    match tileAt (tilePRow corner + r.row) (tilePCol corner + r.col) with
    | some k => tileStoker k == st
    | none => false
  let off := match im.ctxs.find? inBlock with
    | some r => r.entry
    | none => (im.ctxs.head?.map (fun r => r.entry)).getD 0
  (im.va + im.codeOff + off) % 2 ^ 64 / 4 * 4

/-! ### Halts (R55, R369, R378) -/

/-- Whether a debugger halts a lease, or a tile or context of it. -/
def dbgStopped (s : State) (l : Nat) : Bool :=
  (s.lease l).dbgHalt || (leaseTiles s l).any (fun k => (s.tile k).halted) || (leaseCtxs s l).any (fun k => (s.ctx k).dbgHalt)

/-- R32: the lowest free context of a stoker. -/
def freeCtx (s : State) (st : Nat) : Option Nat :=
  (List.range 8).findSome? (fun i => if (s.ctx (st * 8 + i)).st = .free then some (st * 8 + i) else none)

/-- The rectangle position of the lowest tile of a placement in a stoker's block (R376). -/
def homeIn (im : Image) (corner st : Nat) : Nat :=
  match (imagePos im).find? (fun x => (posTile im corner x).map tileStoker == some st) with
  | some x => posCode x
  | none => 0

/-- R32: assigns a context of a stoker to a lease placed at a corner; it is held until the lease runs. -/
def assignCtx (s : State) (l corner st : Nat) : State :=
  let le := s.lease l
  match freeCtx s st with
  | none => s
  | some k =>
    s.setCtx k
      { st := .frozen, thaw := .ready, lease := l, pc := BitVec.ofNat 64 (entryOf le.image corner st)
        leaseR := leaseReg l le, ctxR := ctxReg s le.part k, home := homeIn le.image corner st }

/-- R19, R346: the tiles of a placement, cleared and given to a lease, and a context in each block that has none. -/
def takePlace (s : State) (l corner : Nat) : State :=
  let le := s.lease l
  let ks := (placedTiles le.image corner).getD []
  let s1 := ks.foldl (fun s k => s.setTile k { lease := some l }) s
  let s2 := s1.modLease l (fun x => { x with die := tileDie corner, row := tileRow corner, col := tileCol corner })
  (stokersOf ks).foldl (fun s st =>
    if (leaseCtxs s l).any (fun k => k / 8 == st) then s else assignCtx s l corner st) s2

/-! ### Quiescence (R359) and boundaries (R124, R370) -/

/-- The tokens of a lease on seam links that no receiver has accepted. -/
def onLinks (s : State) (l : Nat) : List FTok :=
  s.fab.mods.flatMap (fun e => (e.2.d0.undelivered ++ e.2.d1.undelivered).filter (fun x => x.tok.lease == l))

/-- Whether an output queue waits for its router: it holds tokens and a switch word takes them. In a drain, requests for
the flue stay in o3 (R370, R313). -/
def queueWaits (s : State) (k : Nat) (drain : Bool) : Bool :=
  let t := s.tile k
  (List.range 4).any (fun q => !(t.oq q).isEmpty && (List.range 5).any (fun c =>
    c != 3 && !(drain && c == 4) && !(t.routes 6 c q 0).isEmpty))

/-- A tile without work in progress: no actor ready, no firing but one that waits at a phase boundary, no token in its
router, and no flue request or reply. -/
def tileQuiet (s : State) (k : Nat) (drain : Bool) : Bool :=
  let t := s.tile k
  t.note.readyQ.isEmpty
    && (match t.firing with
      | none => true
      | some f => f.wait.isSome)
    && t.chans.all (fun e => e.2.isEmpty) && !queueWaits s k drain && t.fstream.isEmpty && t.freply.isEmpty
    && (t.chan injKey).isEmpty

/-- A press without a token or beat in progress; at a drain a token between two beats is state (R304). -/
def pressQuiet (t : Tile) (drain : Bool) : Bool :=
  t.press.wout.isEmpty && (drain || (t.press.ctl.isEmpty && t.press.run.isNone && t.press.drain.isNone))

/-- An engine without an access in progress. A read engine that may still deliver an element or its EOS is at work but for a
drain, which stops it. -/
def engineQuiet (e : Engine) (drain : Bool) : Bool :=
  (drain || !e.eosDue) && (!e.bound || e.st == .faulted || e.st == .finished || (if e.dir then e.inbuf.isEmpty else drain))

/-- R359: the fabric of a lease is quiescent. A node's access that a fault holds, or that waits for its turn behind one, is not in progress;
a drain waits until every access has been performed (R284, R370). -/
def quiescent (s : State) (l : Nat) (drain : Bool) : Bool :=
  let le := s.lease l
  let cs := leaseCtxs s l
  (leaseTiles s l).all (fun k => tileQuiet s k drain && pressQuiet (s.tile k) drain)
    && (onLinks s l).isEmpty
    && cs.all (fun k => (s.ctx k).sendBuf.isEmpty || (drain && ((s.ctx k).sendBuf.headD {}).kind == 6))
    && !s.reqs.any (fun r => cs.contains r.ctx) && !s.fab.greqs.any (fun r => cs.contains r.ctx)
    && le.nodes.all (fun q => !drain && !nodeSent s l q)
    && le.engines.all (fun e => engineQuiet e.2 drain)
    && !s.copies.any (fun c => c.lease == l)
    && le.rings.all (fun e => e.2.st != .running || (drain && e.2.ending == some 3))

/-- R124, R213: a context at an instruction boundary, or in a form that waits with pc at itself. -/
def Ctx.atBoundary (c : Ctx) : Bool :=
  match c.busy with
  | none => true
  | some (.phase _) => true
  | some (.unbind _ _) => true
  | _ => false

/-- The loads of a lease that have not ended. -/
def loadsOpen (s : State) (l : Nat) : Bool := s.loads.any (fun x => x.lease == l && x.open_)

/-- R370: a drain may complete. A load in progress may take 4,096 fc to finish (R175), counted from the beginning of the pre-emption
(DESIGN CHOICE, log entry 11). -/
def drained (s : State) (l : Nat) : Bool :=
  let began := ((s.lease l).work.map (fun w => w.began)).getD 0
  quiescent s l true && (leaseCtxs s l).all (fun k => (s.ctx k).atBoundary)
    && (!loadsOpen s l || began + 4096 ≤ s.fc)

/-- R124: whether an issued form of a context waits for what can still happen in a region that has stopped. -/
def formMoves (s : State) (l : Nat) : Busy → Bool
  | .flue _ _ _ _ => true
  | .prsWait k _ _ => ctlRoom s k
  | .ringStop r _ => (ringOf s l r).st != .running && !(ringOf s l r).stops.any (fun x => !x.kq.isEmpty)
  | _ => false

/-- R52, R124, R365: every unit of a region that stops has come to its stop: no step, ring beat or issued form goes on, nor a press
that owes a value. A PRS.READ behind a token that gets no more beats is captured as it waits (DESIGN CHOICE, log entry 28). -/
def unitsStopped (s : State) (l : Nat) : Bool :=
  (leaseTiles s l).all (fun k => !laneDue s k && !(pressOwes s l k && pressMoves (s.tile k) && !(s.tile k).halted))
    && (s.lease l).rings.all (fun e => e.2.st != .running || e.2.ending == some 3)
    && (leaseCtxs s l).all (fun k => !((s.ctx k).busy.map (formMoves s l)).getD false)

/-- R365, R372: every unit has stopped, and accesses of the lease's contexts already sent have completed. -/
def sentDone (s : State) (l : Nat) : Bool :=
  let cs := leaseCtxs s l
  unitsStopped s l && !s.reqs.any (fun r => cs.contains r.ctx) && !s.fab.greqs.any (fun r => cs.contains r.ctx)

/-! ### The size of a save image (R371) -/

/-- R371: the bytes of the save image, with the freeze items at their maxima: contexts, copies and dies spanned as many as
any placement of the rectangles can touch (log entry 22). -/
def saveSize (im : Image) : Nat :=
  let tiles := im.rects.foldl (fun a r => a + r.rows * r.cols) 0
  let blocks := im.rects.foldl (fun a r => a + (r.rows + 6) / 4 * ((r.cols + 6) / 4)) 0
  let dies := im.rects.foldl (fun a r => a + min 2 ((r.rows + 62) / 32) * min 4 ((r.cols + 62) / 32)) 0
  let press := (im.tiles.filter (fun c => c.press)).length
    + ((im.confs.flatMap (fun c => c.tiles)).filter (fun c => c.press
      && !(im.tiles.any (fun d => d.press && d.rect == c.rect && d.row == c.row && d.col == c.col)))).length
  tiles * (4096 + 68096) + press * 65792 + blocks * (1024 + 16 * 128) + im.ports.length * 256 + min 8 dies * 4096 + 4096

/-! ### Keys that follow a lease (R374, R376) -/

/-- Where the tiles and contexts of a lease stood and where they stand now. -/
structure Rekey where
  tiles : List (Nat × Nat) := []
  ctxs : List (Nat × Nat) := []
deriving Inhabited

def lookup (l : List (Nat × Nat)) (k : Nat) : Nat := ((l.find? (fun e => e.1 == k)).map (fun e => e.2)).getD k

def Rekey.tile (r : Rekey) (k : Nat) : Nat := lookup r.tiles k
def Rekey.ctx (r : Rekey) (k : Nat) : Nat := lookup r.ctxs k
def Rekey.agent (r : Rekey) : Agent → Agent
  | .ctx k => .ctx (r.ctx k)
  | .tile k => .tile (r.tile k)

/-- The members of the lease that a unit held, where they are now. -/
def Rekey.members (r : Rekey) (u : SUnit) : List Agent :=
  (r.ctxs.filter (fun e => u.has (.ctx e.1))).map (fun e => .ctx e.2)
    ++ (r.tiles.filter (fun e => u.has (.tile e.1))).map (fun e => .tile e.2)

/-- The narrowest unit, from a scope up, that holds every agent of a list. -/
def unitOf (a : Agent) (rest : List Agent) (sc : Nat) : Nat → SUnit
  | 0 => { scope := 6 }
  | n + 1 => let u := agentUnit a sc; if rest.all u.has then u else unitOf a rest (sc + 1) n

/-- A unit follows its members: it becomes the narrowest unit that holds them all (R235; log entry 21). -/
def Rekey.unit (r : Rekey) (u : SUnit) : SUnit :=
  match r.members u with
  | [] => u
  | a :: rest => unitOf a rest u.scope (7 - u.scope)

def Rekey.vtag (r : Rekey) (l : Nat) (v : VTag) : VTag :=
  if v.lease = l then
    { v with unit := r.unit v.unit, hist := v.hist.map (fun h => (h.1, r.unit h.2)), writers := v.writers.map r.agent }
  else v

def Rekey.shadow (r : Rekey) (l : Nat) (x : Shadow) : Shadow :=
  { x with tag := x.tag.map (r.vtag l)
           proof := x.proof.map (fun h => if h.1 = l then (h.1, r.unit h.2.1, h.2.2) else h) }

def Rekey.psrc (r : Rekey) : PSrc → PSrc
  | .router => .router
  | .issue k a b sc => .issue (r.ctx k) a b sc
  | .read k => .read (r.ctx k)

def Rekey.ptok (r : Rekey) (x : PTok) : PTok := { x with src := r.psrc x.src }

def Rekey.press (r : Rekey) (p : Press) : Press :=
  { p with ctl := p.ctl.map r.ptok
           run := p.run.map (fun x => { x with tok := r.ptok x.tok })
           drain := p.drain.map (fun x => { x with tok := r.ptok x.tok })
           wout := p.wout.map (fun b => { b with who := b.who.map r.ctx }) }

/-- The tile that a PRS.READ waits for follows the lease. -/
def Rekey.busy (r : Rekey) : Busy → Busy
  | .prsWait k w d => .prsWait (r.tile k) w d
  | b => b

def Rekey.tileState (r : Rekey) (t : Tile) : Tile :=
  { t with press := r.press t.press, waves := t.waves.map (fun w => { w with ctx := if w.ticket = 0 then w.ctx else r.ctx w.ctx }) }

def Rekey.engine (r : Rekey) (e : Engine) : Engine :=
  { e with ctx := r.ctx e.ctx, tile := r.tile e.tile, who := e.who.map r.ctx }.resumed

def Rekey.load (r : Rekey) (x : Load) : Load :=
  { x with ctx := if x.ticket = 0 then x.ctx else r.ctx x.ctx, names := x.names.map r.tile, left := x.left.map r.tile
           send := x.send.map (fun e => (r.tile e.1, e.2)) }

def Rekey.lease (r : Rekey) (le : Lease) : Lease :=
  { le with
    engines := le.engines.map (fun e => (e.1, r.engine e.2))
    rings := le.rings.map (fun e => (e.1, { e.2 with owner := r.ctx e.2.owner }))
    snaps := le.snaps.map (fun g => { g with unit := r.unit g.unit })
    arr := le.arr.map (fun a => { a with unit := agentUnit (r.agent a.agent) a.unit.scope, agent := r.agent a.agent })
    nodes := le.nodes.map (fun q => { q with tile := r.tile q.tile })
    faults := le.faults.map (fun f => match f.what with
      | .copy k t => { f with what := .copy (r.ctx k) t }
      | .node k i j => { f with what := .node (r.tile k) i j }
      | _ => f) }

/-- Changes the issuers that LEASE works name. -/
def mapIssuers (s : State) (f : Nat → Nat) : State :=
  { s with leases := s.leases.map (fun e => (e.1, { e.2 with work := e.2.work.map (fun w => { w with issuer := f w.issuer }) })) }

/-! ### The save image (R370 to R372) -/

/-- R372: tokens on links are captured in the channels they were going to. -/
def captureLinks (s : State) (l : Nat) : State :=
  keepToks (landTokens s (onLinks s l)) (fun y => y.tok.lease != l)

/-- R17, R370: the diversion into the checkpoint buffer ends, and the markers have served. -/
def Tile.endCut (t : Tile) : Tile :=
  let real (x : ChTok) : Bool := x.tok.kind != 7
  { t with divert := [], ckpt := t.ckpt.filter (fun e => real e.2)
           chans := t.chans.filterMap (fun e => let l := e.2.filter real; if l.isEmpty then none else some (e.1, l)) }

/-- R304: buffered beats are dropped and panels are not saved. -/
def Tile.forSave (t : Tile) : Tile :=
  { t.endCut.landReplies with press := { t.press with wbuf := [], run := t.press.run.map (fun x => { x with panel := [], panel2 := [] }) } }

/-- R124, R213: a context for the image: WAITING forms are examined again on resume. -/
def Ctx.forSave (c : Ctx) : Ctx :=
  let d := c.freeze
  if d.thaw = .waiting then { d with thaw := .ready, wait := none } else d

/-- R175: an interrupted load restarts from its first tile: it is read again, and its waves that wait at tiles are dropped. -/
def Load.forSave (x : Load) : Load :=
  if x.open_ then
    { x with st := .reading, send := [], names := [], left := [], ports := [], loaded := x.names.length - x.left.length }
  else x

/-- A tile that an interrupted load has reached: its restart loads the tile again as the same load. -/
def Tile.unload (k : Nat) (t : Tile) (x : Load) : Tile :=
  if x.open_ && x.names.contains k && !x.left.contains k then
    { t with loaded := t.loaded.map (fun e => if e.1 == x.image && e.2.1 == x.conf then (e.1, e.2.1, e.2.2 - 1) else e) }
  else t

/-- Whether a wave belongs to an interrupted load. -/
def waveOpen (s : State) (w : Wave) : Bool := s.loads.any (fun x => isLoad w.ctx w.ticket x && x.open_)

/-- The image of a lease as it stands, and the array without it (R371): its tiles go back to the allotment and its contexts
are free. -/
def saveLease (s : State) (l : Nat) : State :=
  let s0 := recallNodes (captureLinks (endFcOf (writeLate s l) l) l) l
  let ks := sortedTiles s0 l
  let cs := leaseCtxs s0 l
  let tiles := ks.map (fun k =>
    let p := (tileRect s0 l k).getD (0, 0, 0)
    let t := (s0.loads.filter (fun x => x.lease == l)).foldl (Tile.unload k) (s0.tile k).forSave
    ({ rect := p.1, row := p.2.1, col := p.2.2, key := k
       tile := { t with waves := t.waves.filter (fun w => !waveOpen s0 w) } } : SavedTile))
  let ctxs := cs.map (fun k =>
    let p := posOfCode (s0.ctx k).home
    ({ rect := p.1, row := p.2.1, col := p.2.2, key := k, ctx := (s0.ctx k).forSave } : SavedCtx))
  let sv : Saved :=
    { tiles, ctxs, copies := s0.copies.filter (fun c => c.lease == l)
      loads := (s0.loads.filter (fun x => x.lease == l)).map Load.forSave, time := timeNs s0 }
  let s1 := ks.foldl (fun s k => s.setTile k {}) s0
  let s2 := cs.foldl (fun s k => s.setCtx k {}) s1
  let s3 : State :=
    { s2 with copies := s2.copies.filter (fun c => c.lease != l), loads := s2.loads.filter (fun x => x.lease != l)
              stokers := s2.stokers.map (fun e => (e.1, { e.2 with tlb := e.2.tlb.filter (fun x => x.lease != l) })) }
  mapIssuers (ks.foldl sancAround (s3.modLease l (fun x => { x with st := .saved, saved := some sv, savedAt := timeNs s0 })))
    (fun i => if i ≠ 0 && i ≤ 4096 && cs.contains (i - 1) then savedIssuer l (i - 1) else i)

/-! ### The restore (R374, R376) -/

/-- R374, R376: puts a saved context on the stoker of its home tile's block. -/
def restoreCtx (l : Nat) (im : Image) (corner : Nat) (time : Nat) (a : State × List (Nat × Nat)) (c : SavedCtx) :
    State × List (Nat × Nat) :=
  let s := a.1
  match posTile im corner (c.rect, c.row, c.col) with
  | none => a
  | some t =>
    match freeCtx s (tileStoker t) with
    | none => a
    | some k =>
      let x := { c.ctx with ctxR := ctxReg s (s.lease l).part k, tsfloor := BitVec.ofNat 64 (max c.ctx.tsfloor.toNat time) }
      (s.setCtx k x, a.2 ++ [(c.key, k)])

/-- R362, R374: the faults outstanding are reported again, but for the time. -/
def reportAgain (s : State) (l : Nat) : State :=
  let le := s.lease l
  le.faults.foldl (fun s f =>
    postRecord s f.level le.part (f.words.set 7 (BitVec.ofNat 64 (timeNs s)))) s

/-- Whether a fault of the lease holds its region frozen (R362). -/
def Lease.regionFault (le : Lease) : Bool := le.faults.any (fun f => f.what == .region)

/-- The contexts of a lease go on from before a freeze, but those of a launch that has not started. -/
def thawAll (s : State) (l : Nat) : State :=
  if (s.lease l).starting then s else modLeaseCtxs s l Ctx.thawed

/-- Rings go on at their next beat. -/
def Ring.goOn (g : Ring) : Ring := if g.ending == some 2 || g.ending == some 3 then { g with ending := none } else g

/-- A stopped region goes on (R366): each unit from where it stopped. -/
def thawLease (s : State) (l : Nat) : State :=
  thawAll (modLeaseTiles (s.modLease l (fun x =>
    { x with st := .running, rings := x.rings.map (fun e => (e.1, e.2.goOn)), engines := x.engines.map (fun e => (e.1, e.2.resumed)) })) l
    Tile.endCut) l

/-- R435: a tile's resume; operation words that the debugger wrote are checked as OPW (R176), and one that fails is a fabric
fault 0x02 of the tile. -/
def tileGo (s : State) (k : Nat) : State :=
  let t := s.tile k
  let second (key : Nat) : Bool := t.allSeconds.contains key
  let bad := t.dbgOps.find? (fun key => opwBad s k key (second key) (t.op (key / 8) (key % 8)))
  let s1 := s.setTile k ({ t with halted := false, dbgOps := [] } : Tile).note
  match bad with
  | none => s1
  | some key =>
    fabricFault s1 { tileRec s1 k 0x02 with opa := (t.op (key / 8) (key % 8)).toNat, lane := key % 8, step := key / 8 }

/-- R435: the operation words that a debugger wrote into tiles that have been resumed since, while their lease was saved. -/
def checkDbg (s : State) (l : Nat) : State :=
  if (s.lease l).dbgHalt then s
  else (leaseTiles s l).foldl (fun s k => if (s.tile k).halted || (s.tile k).dbgOps.isEmpty then s else tileGo s k) s

/-- R374, R376: a saved lease at a corner: tiles, contexts, engines, copies and loads, with every key following. It is
frozen again if a fault still holds its region, or a quarantine its partition (R440). -/
def restoreLease (s : State) (l corner : Nat) : State :=
  let le := s.lease l
  match le.saved with
  | none => s
  | some sv =>
    let im := le.image
    let s1 := s.modLease l (fun x =>
      { x with die := tileDie corner, row := tileRow corner, col := tileCol corner, saved := none, st := .frozen })
    let tm := sv.tiles.filterMap (fun t => (posTile im corner (t.rect, t.row, t.col)).map (fun k => (t.key, k)))
    let cr := sv.ctxs.foldl (restoreCtx l im corner sv.time) (s1, [])
    let r : Rekey := { tiles := tm, ctxs := cr.2 }
    let s2 := sv.tiles.foldl (fun s t =>
      match posTile im corner (t.rect, t.row, t.col) with
      | none => s
      | some k => s.setTile k { r.tileState t.tile with lease := some l }) cr.1
    let s3 := (cr.2.map (fun e => e.2)).foldl (fun s k => s.modCtx k (fun c => { c with sendTile := r.tile c.sendTile, busy := c.busy.map r.busy })) s2
    let s4 : State :=
      { s3 with
        copies := s3.copies ++ sv.copies.map (fun c => { c with ctx := r.ctx c.ctx })
        loads := s3.loads ++ sv.loads.map r.load
        lines := s3.lines.map (fun e => (e.1, { cur := e.2.cur.map (r.vtag l), older := e.2.older.map (r.shadow l) }))
        pubs := s3.pubs.map (fun p => if p.lease = l then { p with unit := r.unit p.unit } else p) }
    let s5 := (stokersOf ((placedTiles im corner).getD [])).foldl (fun s st =>
      if (leaseCtxs s l).any (fun k => k / 8 == st) then s else assignCtx s l corner st) (s4.modLease l r.lease)
    let s6 := mapIssuers s5 (fun i =>
      if savedIssuer l 0 ≤ i && i < savedIssuer l 0 + 4096 then r.ctx (i - savedIssuer l 0) + 1 else i)
    let s7 := (leaseTiles s6 l).foldl sancAround s6
    if le.regionFault || quarantined s le.part then s7 else checkDbg (thawLease s7 l) l

end Sys2Proof.Machine
end

