-- ==== Sys2Proof/Machine/Preempt.lean ====
section
/-! DEFINITION. Pre-emption and relocation: drain, freeze, move and resume (06 R183 to R185, 11 R370 to R377), the end of a lease (11 R348) and the watchdog (11 R367 to R369). -/

namespace Sys2Proof.Machine

/-! ### Beginning a drain, a freeze, a move, a resume -/

/-- R444: the number of a cut point: that of the switch word at its place in the configuration that the tile runs, and for a word that
SWW put where that configuration has no cut, the number after the last of the lease's image (DESIGN CHOICE, log entry 10). -/
def cutNumber (s : State) (l k i : Nat) : Nat :=
  match (s.tile k).cuts.find? (fun e => e.1 == i) with
  | some e => e.2
  | none =>
    let im := (s.lease l).image
    ((im.tiles ++ im.confs.flatMap (fun c => c.tiles)).map TileCfg.cuts).sum

/-- The links of a tile whose switch words have cut set: the cut's number, the receiving tile and its port (R370). Only words of class 0
have it set (R120). -/
def cutLinks (s : State) (l k : Nat) : List (Nat × Nat × Nat) :=
  (s.tile k).sw.filterMap (fun e =>
    let o := swOut e.2
    let n := cutNumber s l k e.1
    if !swCut e.2 then none
    else if o < 4 then (match sidePort s l k o with
      | some _ => none
      | none => (stepOut k o).map (fun j => (n, j, farPort o)))
    else if o < 6 then (ringStep s l k o).map (fun j => (n, j, 9 - o))
    else none)

/-- R370: a checkpoint marker goes over a link from tile k to tile j behind every token on it. -/
def sendMarker (s : State) (l k n j port : Nat) : State :=
  let x : ChTok := { tok := { kind := 7, pay := BitVec.ofNat 32 (n * 2 ^ 16) }, lease := l }
  let land (s : State) : State := s.modTile j (fun t => t.setChan (chanKey port 0 0) (t.chan (chanKey port 0 0) ++ [x]))
  if tileDie k = tileDie j then land s
  else match seamOf (tileDie k) (tileDie j) with
    | none => land s
    | some (sm, up) =>
      let m := rowModule sm k
      let dir := if up then 0 else 1
      let y : FTok := { tile := j, port, link := rowLink sm k, tok := x }
      let d := (seamMod s m).dir dir
      if d.onTheWay y.channel = 0 then land s else setSeamMod s m ((seamMod s m).setDir dir (d.take y))

/-- R370: one checkpoint marker on each cut link of the lease, with the cut's number. -/
def sendMarkers (s : State) (l : Nat) : State :=
  (sortedTiles s l).foldl (fun s k =>
    (cutLinks s l k).foldl (fun s e => if (s.tile e.2.1).lease = some l then sendMarker s l k e.1 e.2.1 e.2.2 else s) s) s

/-- R199, R370: the lease starts to drain; a ring's beat in progress is its last. -/
def beginDrain (s : State) (l : Nat) (st : LeaseSt) (w : Work) : State :=
  sendMarkers (s.modLease l (fun x =>
    { x with st := st, work := some { w with began := s.fc }, rings := x.rings.map (fun e => (e.1, e.2.lastBeat)) })) l

/-- R363: a lease with a faulted engine may be drained by the placer, or saved, only once its fabric is quiescent. -/
def engineHolds (s : State) (l : Nat) : Bool :=
  (s.lease l).live && (s.lease l).engines.any (fun e => e.2.bound && e.2.st == .faulted) && !quiescent s l true

/-- R372, R373: the lease starts to be saved by freeze. A load in progress may finish first (R175), and the fabric of a lease with a
faulted engine comes to rest first (R363). -/
def beginFreeze (s : State) (l issuer : Nat) : State :=
  let s1 := s.modLease l (fun x => { x with work := some { issuer, began := s.fc } })
  if (s.lease l).live && (loadsOpen s l || engineHolds s l) then s1 else stopUnits s1 l .freezing

/-! ### The save area (R371) -/

/-- R371: the pages of the save area that the image takes. -/
def savePages (le : Lease) (n : Nat) : List Nat :=
  if n = 0 then [] else (List.range ((le.saveVa % 65536 + n - 1) / 65536 + 1)).map (fun i => (le.saveVa / 65536 + i) * 65536)

/-- R371: whether the write of a lease's image faults: a page of it does not translate. It carries the owner's tag, 0x0000, which every
frame admits (R436). -/
def saveFaults (s : State) (l n : Nat) : Bool :=
  (savePages (s.lease l) n).any (fun va => match translate s (s.lease l).part l va with
    | .error _ => true
    | .ok _ => false)

/-- R371: n bytes of image are written into the frames of the save area. Their layout is the part's own: the model keeps the image itself
as data with the lease, and the bytes are a free value (log entry 11). -/
def writeImage (s : State) (l n : Nat) : State :=
  let lo := (s.lease l).saveVa
  ((savePages (s.lease l) n).foldl (fun s va => match translate s (s.lease l).part l va with
    | .error _ => s
    | .ok e =>
      let a := max va lo
      { s with mem := s.mem.writeN (e.pa + (a - e.va)) (min (va + 65536) (lo + n) - a) (Config.imageBits s.freeN (a - lo)) }) s).drawn

/-- R185, R376: the notice to every context, then the drain in place. -/
def beginMove (s : State) (l issuer dest : Nat) : State :=
  beginDrain (postAll s l (evWord 0x0A 0 0 0 l)) l .moving { issuer, dest }

/-- R374: the lease starts to be written back at a corner. -/
def beginResume (s : State) (l issuer dest : Nat) (reloc : Bool) : State :=
  s.modLease l (fun x => { x with st := .resuming, waiting := false, work := some { issuer, dest, reloc, began := s.fc } })

/-- The homes of a lease's contexts, in the array or saved. -/
def leaseHomes (s : State) (l : Nat) : List Nat :=
  match (s.lease l).saved with
  | some sv => sv.ctxs.map (fun c => posCode (c.rect, c.row, c.col))
  | none => (leaseCtxs s l).map (fun k => (s.ctx k).home)

/-- Where an agent of a placed lease would be with the lease at a corner: a tile, or any context of a stoker. -/
def movedAgent (s : State) (l corner : Nat) (a : Agent) : Agent :=
  let im := (s.lease l).image
  match a with
  | .ctx k => match posTile im corner (posOfCode (s.ctx k).home) with
    | some t => .ctx (tileStoker t * 8)
    | none => a
  | .tile k => match (tileRect s l k).bind (posTile im corner) with
    | some t => .tile t
    | none => a

/-- R235, R375: whether a move would split or merge the members of a group that holds an open level. -/
def splitsGroup (s : State) (l corner : Nat) : Bool :=
  let as := (leaseCtxs s l).map Agent.ctx ++ (leaseTiles s l).map Agent.tile
  (s.lease l).snaps.any (fun g =>
    let ins := as.filter g.unit.has
    let outs := as.filter (fun a => !g.unit.has a)
    match ins with
    | [] => false
    | a :: _ =>
      let u := agentUnit (movedAgent s l corner a) g.unit.scope
      g.unit.self = 0 && (!ins.all (fun b => u.has (movedAgent s l corner b)) || outs.any (fun b => u.has (movedAgent s l corner b))))

/-! ### LEASE forms (R183 to R185) -/

/-- R184: whether the issuing context's level holds a right. -/
def myRight (s : State) (bit : Nat) : Bool := (s.part (s.lease (myLease s)).part).rights.fld bit 1 == 1

/-- R183, R184: a LEASE form on the lease that g[a] names, when the issuing level sees it and may act on it. -/
def leaseForm (s : State) (v : Word) (right : Nat) (own : Bool) (k : Nat → State) : State :=
  let l := v.toNat
  if !zeroAbove v 12 || (s.lease l).st == .none || (s.lease l).part != (s.lease (myLease s)).part
      || !(myRight s right || (own && l == myLease s)) then raiseOp s v
  else k l

/-- R183: 5 while another form's work is in progress, else 2 for a lease in no state for the form. -/
def leaseStatus (le : Lease) : Word :=
  if le.work.isSome then 5 else 2

/-- R183. Starts drain pre-emption of a lease. -/
def execLeaseDrain (d a : BitVec 5) (s : State) : Out :=
  .next (leaseForm s (s.cc.rg a) 0 true (fun l =>
    let le := s.lease l
    if le.st = .running && le.work.isNone && !le.starting then
      beginDrain (retireG s d 0) l .draining { issuer := me s + 1 }
    else retireG s d (if le.st = .draining then 2 else leaseStatus le)))

/-- R183. Starts freeze pre-emption of a lease. -/
def execLeaseFreeze (d a : BitVec 5) (s : State) : Out :=
  .next (leaseForm s (s.cc.rg a) 0 false (fun l =>
    let le := s.lease l
    if (le.st = .running || le.st = .frozen) && le.work.isNone then beginFreeze (retireG s d 0) l (me s + 1)
    else retireG s d (leaseStatus le)))

/-- R183: ends HALTED in a context: one that a debugger halted goes on from what it was, and one that HALT stopped is READY. -/
def Ctx.endHalted (c : Ctx) : Ctx :=
  if c.st = .halted then (let x := c.dbgGo; if x.st = .halted then { x with st := .ready } else x) else c
def endHalted (s : State) (l : Nat) : State := modLeaseCtxs s l Ctx.endHalted

/-- R183. Resumes a saved lease or ends HALTED in its contexts. -/
def execLeaseResume (d a b : BitVec 5) (s : State) : Out :=
  let x := s.cc.rg b
  .next (checked s x (zeroAbove x 1)
    (if x = 1 then
      leaseForm s (s.cc.rg a) 4 true (fun l =>
        if (s.lease l).st = .running && (s.lease l).work.isNone then endHalted (retireG s d 0) l else retireG s d (leaseStatus (s.lease l)))
     else
      leaseForm s (s.cc.rg a) 0 false (fun l =>
        let le := s.lease l
        if le.st ≠ .saved then retireG s d (leaseStatus le)
        else
          let s1 := retireG s d 0
          match firstFit s le.part le.image (takenNow s [] none) (leaseHomes s l) with
          | none => postEvent s1 (me s) (evWord 0x09 0x15 0 0 l)
          | some c => beginResume s1 l (me s + 1) c false)))

/-- R350, R375: whether a lease may move to a corner. -/
def mayMove (s : State) (l corner : Nat) : Bool :=
  let le := s.lease l
  fitsAt s le.part le.image (takenNow s [] (some l)) (leaseHomes s l) corner && !splitsGroup s l corner

/-- R183. Relocates a running lease to given coordinates. -/
def execLeaseMove (d a b : BitVec 5) (s : State) : Out :=
  let x := s.cc.rg b
  .next (checked s x (zeroAbove x 13)
    (leaseForm s (s.cc.rg a) 0 false (fun l =>
      let le := s.lease l
      if le.st ≠ .running || le.work.isSome || le.starting then retireG s d (leaseStatus le)
      else
        let s1 := retireG s d 0
        match (physDie s le.part (x.fld 0 3)).map (fun die => tileKey die (x.fld 3 5) (x.fld 8 5)) with
        | none => postEvent s1 (me s) (evWord 0x08 0x15 0 0 l)
        | some c =>
          if mayMove s l c then beginMove s1 l (me s + 1) c else postEvent s1 (me s) (evWord 0x08 0x15 0 0 l))))

/-! ### Their ends (R370 to R377) -/

def workOf (s : State) (l : Nat) : Work := (s.lease l).work.getD {}

/-- The completion event of a drain, freeze or resume that a context asked for; the placer's own and a reply's have none. -/
def postSaved (s : State) (l : Nat) (ev : Word) : State :=
  if (workOf s l).issuer = 0 then s else postWork s l (workOf s l) ev

/-- R371: the bytes that a lease's image takes, which its save area bounds. -/
def imageBytes (s : State) (l : Nat) : Nat := min (s.lease l).saveBytes (saveSize (s.lease l).image)

/-- R371: a fault in the write of the image is an owner-stage fault, and the lease stays frozen in place. -/
def saveFault (s : State) (l : Nat) : State :=
  let s1 := clearWork (stopUnits s l .frozen) l
  openFault s1 { code := 0x06, level := 0, lease := l, va := (s.lease l).saveVa } .region

/-- R185: the completion event of a lease that drained itself is the first record that its context gets after resume; that of another
issuer goes to its queue. -/
def postCaptured (s : State) (l : Nat) (ev : Word) : State :=
  let i := (workOf s l).issuer
  if savedIssuer l 0 ≤ i && i < savedIssuer l 0 + 4096 then
    s.modLease l (fun x => { x with saved := x.saved.map (fun sv =>
      { sv with ctxs := sv.ctxs.map (fun c => if savedIssuer l c.key = i then { c with ctx := c.ctx.postFirst ev } else c) }) })
  else postSaved s l ev

/-- R371, R372: the state of a lease goes to its save area, and the event of its work follows. A lease that a compaction parks, and that
has since opened a level whose group the move would split or merge, is refused and runs on where it stands (R235, R375). -/
def capture (s : State) (l : Nat) (ev : Word) : State :=
  let n := imageBytes s l
  if (workOf s l).reloc && splitsGroup s l (workOf s l).dest then stopMove (thawLease s l) l
  else if saveFaults s l n then saveFault s l
  else clearWork (postCaptured (saveLease (writeImage (reportOwed s l) l n) l) l ev) l

/-- R370. A draining lease is quiescent and its state is saved. -/
def execDrainComplete (lease : Nat) (s : State) : Out :=
  .next (if !drained s lease then s
    else match (s.lease lease).st with
      | .draining => capture s lease (evWord 0x06 0 0 0 lease)
      | .moving => stopUnits s lease .copying
      | _ => s)

/-- R370. A drain unfinished after 50 µs becomes a freeze, once R363 lets the lease be saved. -/
def execDrainEscalation (lease : Nat) (s : State) : Out :=
  let s1 := s.modLease lease (fun x => { x with work := x.work.map (fun w => { w with frozen := true }) })
  .next (if s.fc < (workOf s lease).began + 105000 || engineHolds s lease then s
    else match (s.lease lease).st with
      | .draining => stopUnits s1 lease .freezing
      | .moving => stopUnits s1 lease .copying
      | _ => s)

/-- R175, R363: a freeze that was put off is due. -/
def freezeDue (s : State) (l : Nat) : Bool :=
  (s.lease l).st == .running && (s.lease l).work.isSome
    && (!loadsOpen s l || (workOf s l).began + 4096 ≤ s.fc) && !engineHolds s l

/-- R372. The freeze readout finishes and posts its event. -/
def execFreezeReadoutComplete (lease : Nat) (s : State) : Out :=
  let s1 := if freezeDue s lease then stopUnits s lease .freezing else s
  let w := workOf s1 lease
  .next (if (s1.lease lease).st ≠ .freezing || !sentDone s1 lease || owedWaits s1 lease then s1
    else capture s1 lease (if w.frozen then evWord 0x06 1 0 0 lease else evWord 0x07 0 0 0 lease))

/-- R376. Tile state copied, the lease resumes at its destination. One that has since opened a proof level whose group the move would
split or merge is refused, and runs on where it stands (R235, R375). -/
def execRelocationComplete (lease : Nat) (s : State) : Out :=
  let w := workOf s lease
  .next (if (s.lease lease).st ≠ .copying || !sentDone s lease || owedWaits s lease then s
    else if splitsGroup s lease w.dest then stopMove (thawLease s lease) lease
    else
      let s1 := restoreLease (saveLease (reportOwed s lease) lease) lease w.dest
      clearWork (postWork s1 lease (workOf s1 lease) (evWord 0x08 0 0 0 lease)) lease)

/-- R374. A saved lease finishes being written back into its tiles, contexts and engines, resumes, and posts event 0x09 to
the context that asked for it (R183; a resume of the placer has none, log entry 25). A lease that a compaction parked posts
the 0x08 of its move. -/
def execResumeDone (lease : Nat) (s : State) : Out :=
  let w := workOf s lease
  .next (if (s.lease lease).st ≠ .resuming then s
    else
      let s1 := reportAgain (restoreLease s lease w.dest) lease
      clearWork (if w.reloc then postAll s1 lease (evWord 0x08 0 0 0 lease) else postSaved s1 lease (evWord 0x09 0 0 0 lease)) lease)

/-! ### The end of a lease (R348) -/

/-- R348: the newest version of a line that belongs to the lease becomes the base; what lies behind it is freed, but for
proof shadows of other groups. -/
def endLine (l : Nat) (s : State) (ln : Nat) : State :=
  let r := lineRec s ln
  let mine (t : Option VTag) : Bool := match t with
    | some v => v.lease == l
    | none => false
  if mine r.cur then
    let kept := r.older.filter (fun x => x.proof.isSome)
    let s1 := freeShadows s (r.older.filter (fun x => x.proof.isNone))
    if kept.isEmpty then setLineRec s1 ln {}
    else setLineRec s1 ln { cur := r.cur.map (fun v => { v with unit := { scope := 6 }, hist := [], writers := [] }), older := kept }
  else match r.older.findIdx? (fun x => mine x.tag) with
    | none => s
    | some i =>
      let x := (r.older[i]?).getD {}
      let behind := r.older.drop (i + 1)
      setLineRec (freeShadows s (behind.filter (fun y => y.proof.isNone))) ln
        { r with older := r.older.take i ++ [{ x with tag := none }] ++ behind.filter (fun y => y.proof.isSome) }

/-- R348: closes the open levels of a group by SNAP.DROP, innermost first. -/
def dropLevels (l : Nat) (u : SUnit) (s : State) : Nat → State
  | 0 => s
  | n + 1 =>
    let s1 := setSnapLevels s l u ((snapLevels s l u).drop 1)
    dropLevels l u ((linesOf s1 (l, u, n + 1)).foldl (fun s ln => dropLevelLine s (l, u, n + 1) ln) s1) n

/-- R180, R348: every write engine commits the elements that it has accepted. -/
def commitAll (s : State) (l : Nat) : State :=
  ((s.lease l).engines.map (fun e => e.1)).foldl (fun s p =>
    if writeLive s l p then edgeCommitAll s l p (eng s l p).inbuf.length else s) s

/-- R348: the writes of a lease's units that are on their way are made, and none of them waits: the elements that its write engines have
accepted, its nodes' accesses, and the reports of the units that its copies have written (R245). -/
def lastWrites (s : State) (l : Nat) : State :=
  let s1 := s.modLease l (fun x => { x with st := .ending, dbgHalt := false })
  reportOwed (performNodes (commitAll s1 l) l (fun _ => true) (s.lease l).nodes.length) l

/-- Accesses of the lease's contexts that are on their way are performed (R348). -/
def performSent (s : State) (l : Nat) : State :=
  let cs := leaseCtxs s l
  let mine := s.reqs.filter (fun r => cs.contains r.ctx)
  let s1 := mine.foldl (fun s r => if r.res.isSome then s else (performAcc s r.ctx r.op r.va r.pa r.attr).1) s
  let s2 := stripReqs s1 cs
  { s2 with reqs := s2.reqs.filter (fun r => !cs.contains r.ctx)
            fab := { s2.fab with greqs := s2.fab.greqs.filter (fun r => !cs.contains r.ctx) } }

/-- R348: the lease ends, and its LAUNCH completes with a code. -/
def endLease (s : State) (l code : Nat) : State :=
  let le := s.lease l
  if le.st = .none then s
  else
    let s1 := le.snaps.foldl (fun s g => dropLevels l g.unit s g.levels.length) (endFcOf (writeLate s l) l)
    let s2 := endFcOf (performSent (lastWrites s1 l) l) l
    let s3 := recallNodes (captureLinks s2 l) l
    let s4 := (s3.lines.map (fun e => e.1)).foldl (endLine l) s3
    let cs := leaseCtxs s4 l
    let s5 := (leaseTiles s4 l).foldl (fun s k => s.setTile k {}) s4
    let s6 := cs.foldl (fun s k => s.setCtx k {}) ((leaseTiles s4 l).foldl sancAround s5)
    let s7 : State :=
      { s6 with copies := s6.copies.filter (fun c => c.lease != l), loads := s6.loads.filter (fun x => x.lease != l)
                pubs := s6.pubs.filter (fun p => p.lease != l), pkg := { s6.pkg with alarms := s6.pkg.alarms.filter (fun x => x != l) }
                stokers := s6.stokers.map (fun e => (e.1, { e.2 with tlb := e.2.tlb.filter (fun x => x.lease != l) })) }
    let s8 := mapIssuers (s7.setLease l {}) (fun i =>
      if (i ≠ 0 && i ≤ 4096 && cs.contains (i - 1)) || (savedIssuer l 0 ≤ i && i < savedIssuer l 0 + 4096) then noIssuer else i)
    if le.starting && launching s8 le.part le.queue le.seq then packetEnd s8 le.part le.queue code l
    else launchEnd s8 le.part le.queue le.seq le.cmp code l

/-- R348. A lease ends, drops proof levels, publishes and frees its tiles. -/
def execLeaseEnd (lease : Nat) (s : State) : Out :=
  let cs := leaseCtxs s lease
  .next (if (s.lease lease).st = .running && !(s.lease lease).starting && !cs.isEmpty
      && cs.all (fun k => (s.ctx k).st == .halted) && quiescent s lease false then endLease s lease 0
    else s)

/-! ### The watchdog (R367 to R369) -/

/-- The leases that the sanctioned words of a tile lead into. -/
def sanctionedInto (s : State) (k : Nat) : List Nat :=
  (s.tile k).sw.filterMap (fun e =>
    if swSanc e.2 && swOut e.2 < 4 then (stepOut k (swOut e.2)).bind (fun j => (s.tile j).lease) else none)

/-- The leases joined to one by sanctioned streams, in either direction. -/
def joined (s : State) (l : Nat) : List Nat :=
  (once (s.tiles.flatMap (fun e => (sanctionedInto s e.1).flatMap (fun n =>
    if e.2.lease = some l then [n] else if n = l then e.2.lease.toList else [])))).filter (fun m => m != l)

/-- Whether a lease, or a unit of it, is halted by a debugger, or it is frozen (R369). -/
def peerStopped (s : State) (l : Nat) : Bool := dbgStopped s l || (s.lease l).st == .frozen || (s.lease l).st == .freezing

/-- R367: a context waiting in PHASE, BAR.WAIT or CPY.WAIT. -/
def Ctx.onSink (c : Ctx) : Bool :=
  (match c.busy with
    | some (.phase _) => true
    | _ => false)
  || (c.st == .waiting && (match c.wait with
    | some (.bar _ _ _ _ _) => true
    | some (.cpy _ _) => true
    | _ => false))

/-- R367: whether a tile has a SINK word that has not consumed an EOS since its load. -/
def openSink (s : State) (k : Nat) : Bool :=
  let t := s.tile k
  let sec := t.allSeconds
  t.ops.any (fun e => !sec.contains e.1 && e.2.fld 25 7 == 0x5A && !Tbl.get false t.sinkEos e.1)

/-- R367: at least one sink of the lease is open. -/
def sinkOpen (s : State) (l : Nat) : Bool :=
  (leaseTiles s l).any (openSink s)
    || (s.lease l).engines.any (fun e => e.2.bound && e.2.dir && e.2.st != .finished)
    || (leaseCtxs s l).any (fun k => (s.ctx k).onSink)

/-- R368: a context's entry. -/
def ctxEntry (s : State) (l k : Nat) : Word :=
  let t := blockTile (k / 8)
  BitVec.ofNat 64 (logDie s 2 (s.lease l).part (tileDie t) + tileRow t * 2 ^ 3 + tileCol t * 2 ^ 8 + k % 8 * 2 ^ 13 + 2 ^ 36)

/-- R368: the stall list. -/
def stallList (s : State) (l : Nat) : List Word :=
  sweepTiles s l (fun t i => t.stalledJoin i || t.stalledOut i)
    ++ ((leaseCtxs s l).filter (fun k => (s.ctx k).onSink)).map (ctxEntry s l)

/-- A record of a lease that names no unit: its fields are zero in the customer's numbering (R71). -/
def leaseRec (s : State) (l code : Nat) : FRec := { code, lease := l, die := (physDie s (s.lease l).part 0).getD 0 }

/-- R367, R368: the stall fault. -/
def stallFault (s : State) (l : Nat) : State :=
  let es := stallList s l
  fabricFault s { leaseRec s l 0x10 with list := es.take 1024, opa := if 1024 < es.length then es.length else 0 }

/-- R359: whether a lease is throttled by its budgets. -/
def throttled (le : Lease) : Bool := hbmSpent le || injSpent le

/-- R369: the peers of a lease that have stopped, each with the step at which it last was. -/
def stoppedPeers (s : State) (l : Nat) : List (Nat × Nat) :=
  ((joined s l).filter (peerStopped s)).map (fun m => (m, (s.lease m).haltAt))

/-- R369: one record of code 0x1A for each halt of a peer that has none. -/
def notePeers (s : State) (l : Nat) : State :=
  let new := (stoppedPeers s l).filter (fun e => !(s.lease l).peers.contains e)
  (new.foldl (fun s e => writeFRec s { leaseRec s l 0x1A with opa := e.1 }) s).modLease l (fun x =>
    { x with prog := 0, peers := stoppedPeers s l })

/-- R367. 2^24 fc without progress with an open sink raises 0x10. -/
def execWatchdogExpiry (lease : Nat) (s : State) : Out :=
  let le := s.lease lease
  .next (if le.st ≠ .running || dbgStopped s lease || throttled le || le.prog < 2 ^ 24 then s
    else if !(stoppedPeers s lease).isEmpty then notePeers s lease
    else
      let s1 := s.modLease lease (fun x => { x with prog := 0, peers := [] })
      if sinkOpen s lease then stallFault s1 lease else s1)

end Sys2Proof.Machine
end

