-- ==== Sys2Proof/Machine/Events.lean ====
section
/-! DEFINITION. What happens to contexts and their accesses after issue (01 R33, 05 R123, R154, 07 R222, 10 R331, R342), and threads with their block scheduler (01 R49, R50, 11 R356). -/

namespace Sys2Proof.Machine

/-! ### Accesses on their way (R123, R222, R331) -/

/-- The first request of a list that satisfies a condition, with its place. -/
def findReq (p : Req → Bool) (rs : List Req) : Option (Nat × Req) :=
  match rs.findIdx? p with
  | none => none
  | some i => rs[i]?.map (fun r => (i, r))

/-- Whether a request may be performed now: it has reached its home, no migration holds its frame (R343), its lease's budget of HBM
transfers does not hold it (R359), and its barrier has served none that comes after it in this fc (R225). -/
def reqFree (s : State) (r : Req) : Bool :=
  r.res.isNone && !r.held && r.way.isEmpty && !r.attr.sysw && frameTurn s r && !hbmHeld s (s.ctx r.ctx).lease r.attr
    && !barLate s r.ctx r.pa r.op

/-- Performs request i of those in flight; its reply sets out. -/
def performReq (s : State) (i : Nat) (r : Req) : State :=
  let q := performAcc s r.ctx r.op r.va r.pa r.attr
  let r1 := Req.setOut q.1 { r with res := some q.2, seen := seenAt q.1 r.op r.pa }
  sendReq { q.1 with reqs := q.1.reqs.set i r1 } r1

/-- Whether an operation is a store. -/
def AccOp.isStore : AccOp → Bool
  | .store _ _ => true
  | _ => false

/-- R222. The base die applies an access to a memory-side line in arrival order. -/
def execMemorySideApply (stack : Nat) (s : State) : Out :=
  .next (match findReq (fun r => r.attr.ms && r.pa / 2 ^ 36 == stack && reqFree s r) s.reqs with
    | none => s
    | some (i, r) => performReq s i r)

/-- R331. A phased write reaches its home and updates the line's versions. -/
def execPhasedWriteAtHome (stack : Nat) (s : State) : Out :=
  .next (match findReq (fun r => !r.attr.ms && r.op.isStore && r.pa / 2 ^ 36 == stack && reqFree s r) s.reqs with
    | none => s
    | some (i, r) => performReq s i r)

/-- The end of an access of a context that may have been stopped meanwhile: a fault or a wait then leaves the instruction to
be examined again (R33, R124). -/
def endAcc (s : State) (k : Nat) (r : Req) (v : AccRes) : State :=
  let go := (s.ctx k).st == .ready
  match v with
  | .val _ => finishAcc s k r.op r.va r.pa r.seen v
  | _ => if go then finishAcc s k r.op r.va r.pa r.seen v else s.modCtx k (fun c => { c with busy := none })

/-- R403: the packet of request i goes over its circuit, if that is its next crossing. -/
def overCircuit (s : State) (i : Nat) : State :=
  match (s.reqs[i]?).bind (fun r => r.way.head?) with
  | some h => if 320 ≤ h then pumpReqs (crossReq s i) else pumpReqs s
  | none => pumpReqs s

/-- R123. A stoker memory round trip returns and the instruction completes. A request or reply on a circuit arrives here, and a load of a phased page is read; a PORT.UNBIND
or RING.STOP that had to wait ends here, and the token of a PRS.READ that had to wait enters its queue. -/
def execStokerAccessComplete (ctx : Nat) (s : State) : Out :=
  let c := s.ctx ctx
  .next (match c.busy with
    | some .access =>
      match findReq (fun r => r.ctx == ctx) s.reqs with
      | none => s
      | some (i, r) =>
        if r.held || !r.way.isEmpty then overCircuit s i
        else
        let s1 := if r.res.isNone && !r.attr.ms && !r.op.isStore && reqFree s r then performReq s i r else s
        match (s1.reqs[i]?).bind (fun q => if q.way.isEmpty && !q.held then q.res.map (fun v => (q, v)) else none) with
        | none => s1
        | some (q, v) => endAcc { s1 with reqs := s1.reqs.eraseIdx i } ctx q v
    | some (.unbind p d) =>
      match unbindNow s c.lease p with
      | none => s
      | some (s1, n) => complete s1 ctx (fun x => (x.wg d (BitVec.ofNat 64 n)).past)
    | some (.ringStop r d) => (ringRelease s c.lease r ctx d).getD s
    | some (.prsWait k w d) => prsReadEnter s k ctx w d
    | _ => s)

/-! ### Waits and event traps (R33, R154) -/

/-- Completes a wait with a value for its register. -/
def endWait (s : State) (k : Nat) (f : Ctx → Ctx) : State := complete s k (fun c => (f c).past)

/-- R33. A WAITING context's condition is met and its instruction completes. -/
def execContextWake (ctx : Nat) (s : State) : Out :=
  let c := s.ctx ctx
  .next (if c.st ≠ .waiting || (s.lease c.lease).dbgHalt then s
    else match c.wait with
      | none => s
      | some .wfe =>
        if c.evq.isEmpty then s
        else if c.asyncDue then s.setCtx ctx c.asyncTrap
        else endWait s ctx id
      | some (.bar acq va pa p met) =>
        let seen := if (barRead s.mem pa).par != boolBit p then met.orElse (fun _ => some (seenAt s (.barWait acq p) pa)) else met
        (match seen with
        | some x => finishAcc s ctx (.barWait acq p) va pa x (.val 1)
        | none => s)
      | some (.cfg d ts) =>
        (match cfgWaitVal s ctx ts with
        | none => s
        | some none => endWait s ctx (fun x => x.wg d 0)
        | some (some x) => cfgTrap s ctx x)
      | some (.cpy d ts) =>
        (match copyWaitVal s ctx ts with
        | none => s
        | some v => endWait s ctx (fun x => x.wg d v)))

/-- R154. A pending event with ie set traps the context. -/
def execAsyncEventTrap (ctx : Nat) (s : State) : Out :=
  let c := s.ctx ctx
  .next (if c.asyncDue && leaseLive s c.lease then s.setCtx ctx c.asyncTrap else s)

/-- R342. The sweeper returns one freed shadow line to its segment. -/
def execSweeperReturn (die part : Nat) (s : State) : Out :=
  let q := s.part part
  let n := Tbl.get 0 q.await die
  .next (if n = 0 then s
    else s.setPart part
      { q with await := Tbl.set 0 q.await die (n - 1), inUse := Tbl.set 0 q.inUse die (Tbl.get 0 q.inUse die - 1) })

/-! ### Threads (R49, R50, R356; log entry 14) -/

/-- The record of a basic-block configuration. -/
def confRec (s : State) (l i : Nat) : Option ConfRec := (s.lease l).image.confs.find? (fun c => c.idx == i)

def entryQ (s : State) (l i : Nat) : List Thread := Tbl.get [] (s.lease l).entryq i
def setEntryQ (s : State) (l i : Nat) (ts : List Thread) : State :=
  s.modLease l (fun x => { x with entryq := Tbl.set [] x.entryq i ts })

/-- Where threads enter a configuration: a tile and an input queue (log entry 14). -/
def threadEntry (s : State) (l i : Nat) : Option (Nat × Nat) :=
  match confRec s l i with
  | none => none
  | some c =>
    let n := Config.threadEntry (s.lease l).image.va i
    match c.tiles[n / 4 % c.tiles.length]? with
    | none => none
    | some t => (rectTile s l t.rect t.row t.col).map (fun k => (k, n % 4))

/-- The live values that a thread's token announces (R37). -/
def liveCount (x : Token) : Nat := x.pay.fld 21 5

/-- A whole thread at the head of a list of tokens, and the rest (R49). -/
def takeThread (ts : List Token) : Option (List Token × List Token) :=
  match ts with
  | [] => none
  | x :: r =>
    let n := liveCount x
    if x.kind = 4 && n ≤ r.length && (r.take n).all (fun y => y.kind == 0) then some (x :: r.take n, r.drop n) else none

/-- The tokens of a thread that fit into input queue q enter it, and the rest of them follow as it empties (R49). -/
def enterThread (s : State) (k q : Nat) (ts : List Token) : State :=
  let n := queueCap - ((s.tile k).iq q).length
  let s1 := (ts.take n).foldl (fun s x => arriveQ s k q x) s
  s1.modTile k (fun t => { t with threadIn := Tbl.set [] t.threadIn q (ts.drop n) })

/-- Injects a thread into the loaded configuration, if the queue that it enters can accept it: one that has room for it or, for a
thread longer than a queue, an empty one. -/
def injectThread (s : State) (l i : Nat) (t : Thread) : Option State :=
  match threadEntry s l i with
  | none => none
  | some (k, q) =>
    let ts := t.tok :: t.live
    if (s.tile k).qRoom q && (((s.tile k).iq q).length + ts.length ≤ queueCap || ((s.tile k).iq q).isEmpty) then
      some (enterThread s k q ts)
    else none

/-- The rest of a long thread: what of it fits enters its queue. -/
def pumpThread (s : State) (k q : Nat) : State :=
  match Tbl.get [] (s.tile k).threadIn q with
  | [] => s
  | ts => if queueCap ≤ ((s.tile k).iq q).length then s else enterThread s k q ts

/-- As pumpThread, for the queue where threads enter the loaded configuration of a lease. -/
def pumpEntry (s : State) (l : Nat) : State :=
  match threadEntry s l (s.lease l).conf with
  | some (k, q) => pumpThread s k q
  | none => s

/-- Whether a configuration of a lease is being loaded: none is then the loaded one. -/
def confLoading (s : State) (l : Nat) : Bool := s.loads.any (fun x => x.lease == l && x.open_)

/-- R49. A thread leaving a configuration joins its target entry queue. It leaves from an output queue that no switch word
routes; one whose configuration is loaded enters it at once if that can accept it, and one that finds its entry queue full
stays in the tile (R356). A thread longer than an output queue leaves it in parts. -/
def execThreadEnqueue (tile queue : Nat) (s0 : State) : Out :=
  let s := match (s0.tile tile).lease with
    | some l => if leaseLive s0 l then pumpThread s0 tile queue else s0
    | none => s0
  let t := s.tile tile
  let out := Tbl.get [] t.threadOut queue
  let leave (rest more : List Token) : State :=
    s.modTile tile (fun t => { t.setOq queue rest with threadOut := Tbl.set [] t.threadOut queue more }.note)
  .next (match t.lease with
    | none => s
    | some l =>
      if 4 ≤ queue || !leaseLive s l || !(t.routes 6 0 queue 0).isEmpty then s
      else match out ++ t.oq queue with
        | [] => s
        | x :: r =>
          let i := x.pay.fld 26 6
          let now := (s.lease l).conf == i && !confLoading s l && (entryQ s l i).isEmpty
          let room := ((confRec s l i).map (fun c => decide ((entryQ s l i).length < c.cap))).getD false
          match takeThread (x :: r) with
          | some (_ :: live, rest) =>
            let th : Thread := { tok := x, live, at_ := s.fc }
            let s1 := leave rest []
            (match (if now then injectThread s1 l i th else none) with
            | some s2 => s2
            | none => if room then setEntryQ s1 l i (entryQ s l i ++ [th]) else s)
          | _ =>
            if x.kind = 4 && queueCap ≤ liveCount x && queueCap ≤ (t.oq queue).length && r.all (fun y => y.kind == 0)
                && (!out.isEmpty || now || room) then leave [] (x :: r)
            else s)

/-- The context that runs the block scheduler (R32): that of the block of the record that schedctx names, else that of the
block of the lease's lowest tile. -/
def schedCtx (s : State) (l : Nat) : Option Nat :=
  let le := s.lease l
  let at_ (st : Nat) : Option Nat := (leaseCtxs s l).find? (fun k => k / 8 == st)
  let corner := tileKey le.die le.row le.col
  match (le.image.ctxs[le.image.sched]?).bind (fun r =>
      (tileAt (tilePRow corner + r.row) (tilePCol corner + r.col)).bind (fun k => at_ (tileStoker k))) with
  | some k => some k
  | none => ((sortedTiles s l).head?).bind (fun k => at_ (tileStoker k))

/-- Whether a tile may hold a thread: in a queue, on a channel, on its way in or out, or in a firing. -/
def Tile.mayHoldThread (t : Tile) : Bool :=
  t.firing.isSome || (t.inq ++ t.outq ++ t.threadIn ++ t.threadOut).any (fun e => e.2.any (fun x => x.kind == 4))
    || t.threadIn.any (fun e => !e.2.isEmpty) || t.ckpt.any (fun e => e.2.tok.kind == 4)
    || t.chans.any (fun e => e.2.any (fun x => x.tok.kind == 4))

/-- Whether no thread is inside a configuration. The spec does not say when that is so: the model asks that no tile of the
configuration may hold one and no link of the lease carries one, and that the tiles of a basic-block configuration are quiet; those of
the main one, 0x7F, may go on with other streams (DESIGN CHOICE, log entry 14). -/
def confIdle (s : State) (l i : Nat) : Bool :=
  (onLinks s l).all (fun x => x.tok.tok.kind != 4)
    && (namedTiles s l ((confTiles (s.lease l).image i).getD [])).all (fun e =>
      (i == 0x7F || tileQuiet s e.1 false) && !(s.tile e.1).mayHoldThread)

/-- R50: the next configuration: the one whose oldest thread has waited longest, if that is more than 2^16 fc; else the one
with the most threads, the lowest index among equals. -/
def nextConf (s : State) (l : Nat) : Option Nat :=
  let qs := (s.lease l).entryq.filter (fun e => !e.2.isEmpty)
  let age (e : Nat × List Thread) : Nat := s.fc - (e.2.headD {}).at_
  let best (f : Nat × List Thread → Nat) (es : List (Nat × List Thread)) : Option Nat :=
    (es.foldl (fun (m : Option (Nat × List Thread)) e => match m with
      | none => some e
      | some b => if f b < f e then some e else m) none).map (fun e => e.1)
  if qs.any (fun e => 2 ^ 16 < age e) then best age (qs.filter (fun e => 2 ^ 16 < age e))
  else best (fun e => e.2.length) qs

/-- R50. The block scheduler chooses and loads the next configuration. It first injects the waiting threads of the loaded
one, in arrival order. No CFG.LOAD starts this load, so the rounding mode that it latches is not stated: RNE, as for the main
configuration (R346; DESIGN CHOICE, log entry 28). -/
def execBlockSchedulerSelect (lease : Nat) (s0 : State) : Out :=
  let s := if leaseLive s0 lease then pumpEntry s0 lease else s0
  let le := s.lease lease
  let runs := match schedCtx s lease with
    | none => false
    | some k => ((s.ctx k).st == .ready || (s.ctx k).st == .waiting) && (s.ctx k).status.fld 2 1 == 0
  .next (if le.st ≠ .running || le.dbgHalt || le.starting || !runs || confLoading s lease then s
    else match entryQ s lease le.conf with
      | t :: r =>
        (match injectThread s lease le.conf t with
        | some s1 => setEntryQ s1 lease le.conf r
        | none => s)
      | [] =>
        if !confIdle s lease le.conf then s
        else match nextConf s lease with
          | none => s
          | some i =>
            { s with loads := s.loads ++ [{ ctx := lease, lease, conf := i, all := true, image := le.image.va }] })

end Sys2Proof.Machine
end

