-- ==== Sys2Proof/Machine/Fpu.lean ====
section
/-! DEFINITION. Float forms: major 0x25 (05 R143 to R151). -/

namespace Sys2Proof.Machine

/-- A float result with its flags: f[d] written, the flags ORed into fcr (R145, R151). -/
def retireF (s : State) (f : Fmt) (d : BitVec 5) (r : Nat × FFlags) : State :=
  retire s (fun c => (c.wf d (boxFmt f r.1)).orFlags r.2)

/-- A two-operand arithmetic form. -/
def fpu2 (s : State) (t : BitVec 1) (op : Fmt → Rm → Bool → Nat → Nat → Nat × FFlags) (d a b : BitVec 5) : State :=
  let f := fmtOf t
  retireF s f d (op f s.cc.rm s.cc.ftz (s.cc.rfmt f a) (s.cc.rfmt f b))

/-- FFMA and FFMS: the addend is f[d] (R145). -/
def fpuMa (s : State) (t : BitVec 1) (subc : Bool) (d a b : BitVec 5) : State :=
  let f := fmtOf t
  retireF s f d (f.fma s.cc.rm s.cc.ftz subc (s.cc.rfmt f a) (s.cc.rfmt f b) (s.cc.rfmt f d))

/-- FMIN and FMAX (R146). -/
def fpuMm (s : State) (t : BitVec 1) (mx : Bool) (d a b : BitVec 5) : State :=
  let f := fmtOf t
  retireF s f d (f.minmax s.cc.ftz mx (s.cc.rfmt f a) (s.cc.rfmt f b))

/-- R147: a sign move; a NaN in f[a] gives the canonical NaN. -/
def fpuSign (s : State) (t : BitVec 1) (neg : Fmt → Nat → Bool) (d a : BitVec 5) : State :=
  let f := fmtOf t
  let x := s.cc.rfmt f a
  retireF s f d (if f.isNaN x then f.canonNaN else f.withSign (neg f x) x, {})

/-- The compares (R148). -/
def fpuCmp (s : State) (t : BitVec 1) (r : Rel) (d a b : BitVec 5) : State :=
  let f := fmtOf t
  let v := f.compare s.cc.ftz r (s.cc.rfmt f a) (s.cc.rfmt f b)
  retire s (fun c => (c.wg d (if v.1 then 1 else 0)).orFlags v.2)

/-- R145. Float sum rounded once in the fcr mode. -/
def execFadd (d a b : BitVec 5) (t : BitVec 1) (s : State) : Out := .next (fpu2 s t Fmt.add d a b)
/-- R145. Float difference. -/
def execFsub (d a b : BitVec 5) (t : BitVec 1) (s : State) : Out := .next (fpu2 s t Fmt.sub d a b)
/-- R145. Float product. -/
def execFmul (d a b : BitVec 5) (t : BitVec 1) (s : State) : Out := .next (fpu2 s t Fmt.mul d a b)
/-- R145. Float quotient. -/
def execFdiv (d a b : BitVec 5) (t : BitVec 1) (s : State) : Out := .next (fpu2 s t Fmt.div d a b)
/-- R145. Float square root with the mode from b or fcr. -/
def execFsqrt (d a m : BitVec 5) (t : BitVec 1) (s : State) : Out :=
  let f := fmtOf t
  .next (retireF s f d (f.sqrt (s.cc.mode m) s.cc.ftz (s.cc.rfmt f a)))
/-- R146. Float minimum with NaN-avoiding rules. -/
def execFmin (d a b : BitVec 5) (t : BitVec 1) (s : State) : Out := .next (fpuMm s t false d a b)
/-- R146. Float maximum with NaN-avoiding rules. -/
def execFmax (d a b : BitVec 5) (t : BitVec 1) (s : State) : Out := .next (fpuMm s t true d a b)
/-- R145. f[a] × f[b] + f[d], rounded once. -/
def execFfma (d a b : BitVec 5) (t : BitVec 1) (s : State) : Out := .next (fpuMa s t false d a b)
/-- R145. f[a] × f[b] - f[d], rounded once. -/
def execFfms (d a b : BitVec 5) (t : BitVec 1) (s : State) : Out := .next (fpuMa s t true d a b)
/-- R147. Inverts the sign of f[a]. -/
def execFneg (d a : BitVec 5) (t : BitVec 1) (s : State) : Out := .next (fpuSign s t (fun f x => !f.signOf x) d a)
/-- R147. Clears the sign of f[a]. -/
def execFabs (d a : BitVec 5) (t : BitVec 1) (s : State) : Out := .next (fpuSign s t (fun _ _ => false) d a)
/-- R147. f[a] with the sign of f[b]. -/
def execFcpys (d a b : BitVec 5) (t : BitVec 1) (s : State) : Out :=
  .next (fpuSign s t (fun f _ => f.signOf (s.cc.rfmt f b)) d a)
/-- R148. Writes 1 to g[d] when f[a] equals f[b]. -/
def execFeq (d a b : BitVec 5) (t : BitVec 1) (s : State) : Out := .next (fpuCmp s t .eq d a b)
/-- R148. Writes 1 to g[d] when f[a] < f[b], raising nv on NaN. -/
def execFlt (d a b : BitVec 5) (t : BitVec 1) (s : State) : Out := .next (fpuCmp s t .lt d a b)
/-- R148. Writes 1 to g[d] when f[a] <= f[b], raising nv on NaN. -/
def execFle (d a b : BitVec 5) (t : BitVec 1) (s : State) : Out := .next (fpuCmp s t .le d a b)
/-- R149. Converts between F32, F64 and BF16. -/
def execFcvt (d a m : BitVec 5) (x y : BitVec 2) (s : State) : Out :=
  let src := cvtFmt y
  let dst := cvtFmt x
  let v := src.inp s.cc.ftz (s.cc.rfmt src a)
  .next (retireF s dst d (dst.done (s.cc.mode m) s.cc.ftz (v.1, false) v.2))
/-- R149. Converts a float to I32 or I64, clamping. -/
def execFcvti (d a m : BitVec 5) (x : BitVec 1) (y : BitVec 2) (s : State) : Out :=
  let src := cvtFmt y
  let w := if x = 1 then 64 else 32
  let v := src.inp s.cc.ftz (s.cc.rfmt src a)
  let r := v.1.toRange (s.cc.mode m) (intLo true w) (intHi true w)
  .next (retire s (fun c => (c.wg d (BitVec.ofInt 64 r.1)).orFlags (r.2.or (flushFlags v.2))))
/-- R149. Converts I32 or I64 to a float format. -/
def execIcvtf (d a m : BitVec 5) (x : BitVec 2) (y : BitVec 1) (s : State) : Out :=
  let dst := cvtFmt x
  let g := s.cc.rg a
  let z : Int := if y = 1 then g.toInt else signed 32 g.toNat
  .next (retireF s dst d (dst.enc (s.cc.mode m) s.cc.ftz (FV.ofInt z)))
/-- R150. Moves 64 bits from f[a] to g[d]. -/
def execFmvg (d a : BitVec 5) (s : State) : Out := .next (retireG s d (s.cc.rf a))
/-- R150. Moves 64 bits from g[a] to f[d]. -/
def execGmvf (d a : BitVec 5) (s : State) : Out := .next (retire s (fun c => c.wf d (s.cc.rg a)))

end Sys2Proof.Machine
end

