-- ==== Sys2Proof/Machine/Placer.lean ====
section
/-! DEFINITION. The placer: the steps of a launch (11 R346, R347, R354), compaction (R352), victims (R353), the waiting set (R354) and the resize of an allotment (R379). -/

namespace Sys2Proof.Machine

/-! ### Placing a launch (R346, steps 3 to 5) -/

/-- R418: the leases of a partition, running or saved. -/
def leasesOf (s : State) (p : Nat) : List Nat := partLeases s p

/-- R418: the lowest free slot. -/
def freeSlot (s : State) (p : Nat) : Option Nat :=
  (List.range 63).find? (fun i => (leaseInSlot s p i).isNone)

/-- The lowest lease id that no lease has; 0 is never given (log entry 22). -/
def freeId (s : State) : Option Nat :=
  (List.range 4095).findSome? (fun i => if (s.lease (i + 1)).st = .none then some (i + 1) else none)

/-- R83, R346: a launch ends refused with 0x19, and a record to the customer holds the offset of the image's first offending byte. -/
def imageRefused (s : State) (p q off l : Nat) : State :=
  packetEnd (postRecord s 2 p (({ code := 0x19, va := off, lease := l } : FRec).words (timeNs s))) p q 0x19 l

/-- R346: the launch is placed at a corner and its main configuration starts to load; a refused configuration ends it with
0x19, under the id that step 4 gave (R428), and leaves nothing of the lease. -/
def placeLaunch (s : State) (w : WaitLaunch) (corner : Nat) : State :=
  match freeId s, freeSlot s w.part with
  | some l, some slot =>
    let le : Lease :=
      { st := .running, part := w.part, cls := w.image.cls, slot, image := w.image, placedAt := s.ordn + 1
        saveVa := w.saveVa, saveBytes := w.saveBytes, endpoints := w.endpoints, queue := w.queue, seq := w.seq, cmp := w.cmp, depth := w.depth
        starting := true }
    let s1 := takePlace (s.setLease l le) l corner
    match checkConf s1 l w.image 0x7F none with
    | .error o => imageRefused s w.part w.queue o l
    | .ok _ =>
      { s1 with waitL := s1.waitL.filter (fun x => !(x.part == w.part && x.queue == w.queue))
                plans := s1.plans.filter (fun x => !(x.part == w.part && x.queue == w.queue))
                loads := s1.loads ++ [{ ctx := l, lease := l, conf := 0x7F, all := true, image := w.image.va }] }
  | _, _ => packetEnd s w.part w.queue 0x15 0

/-! ### Compaction (R352) -/

/-- The tiles of an image. -/
def imageTiles (im : Image) : Nat := (imagePos im).length

/-- The corner of a lease. -/
def Lease.corner (le : Lease) : Nat := tileKey le.die le.row le.col

/-- The leases of a partition that compaction may move: running, in no LEASE work, with no fault outstanding, of a class below 7. -/
def movable (s : State) (p : Nat) : List Nat :=
  (leasesOf s p).filter (fun l => let le := s.lease l; le.st == .running && le.work.isNone && !le.starting && le.cls != 7 && le.faults.isEmpty)

/-- Places the leases of a list one by one; 4,096 stands for the new lease. None when one does not fit or may not move
there. -/
def placeAll (s : State) (p : Nat) (im : Image) (t : Taken) : List Nat → Option (List (Nat × Nat))
  | [] => some []
  | l :: r =>
    let new := l == 4096
    let img := if new then im else (s.lease l).image
    match firstFit s p img t (if new then [] else leaseHomes s l) with
    | none => none
    | some c =>
      if !new && c != (s.lease l).corner && splitsGroup s l c then none
      else (placeAll s p im (t.add (takenBy img c)) r).map (fun q => (l, c) :: q)

/-- R352, steps 1 to 3: the new positions, if every lease fits. -/
def compaction (s : State) (p : Nat) (im : Image) : Option (List (Nat × Nat)) :=
  let ls := movable s p
  let size (l : Nat) : Nat := imageTiles (if l = 4096 then im else (s.lease l).image)
  let order := sortBy (fun l => (2 ^ 20 - size l) * 2 ^ 13 + l) (4096 :: ls)
  placeAll s p im (takenNow s ls none) order

/-- The plan of a compaction. -/
def compactPlan (s : State) (w : WaitLaunch) : Option Plan :=
  (compaction s w.part w.image).map (fun ps =>
    { part := w.part, queue := w.queue, dest := lookup ps 4096
      moves := ps.filter (fun e => e.1 != 4096 && e.2 != (s.lease e.1).corner) })

/-! ### Victims (R347, R353) -/

/-- R347: whether a launch of class c may pre-empt a lease of class d. -/
def preempts (c d : Nat) : Bool := if d = 0 then 1 ≤ c else d ≤ 5 && d + 2 ≤ c

/-- The leases that a launch may pre-empt and the placer may drain (R363), in ascending class, the most recently placed first. -/
def victimsFor (s : State) (p cls : Nat) : List Nat :=
  sortBy (fun l => (s.lease l).cls * 2 ^ 64 + (2 ^ 63 - (s.lease l).placedAt))
    ((leasesOf s p).filter (fun l =>
      let le := s.lease l
      le.st == .running && le.work.isNone && !le.starting && preempts cls le.cls && !engineHolds s l))

/-- R353: the fewest victims, in that order, without which the launch fits, and where. -/
def findVictims (s : State) (w : WaitLaunch) : Option (List Nat × Nat) :=
  let vs := victimsFor s w.part w.image.cls
  (List.range vs.length).findSome? (fun i =>
    let out := vs.take (i + 1)
    (firstFit s w.part w.image (takenNow s out none) []).map (fun c => (out, c)))

/-! ### Trying a launch (R346 step 3, R352 to R354) -/

/-- Places a launch, or begins a compaction or the drain of its victims; none when it must wait. -/
def tryLaunch (s : State) (w : WaitLaunch) : Option State :=
  match firstFit s w.part w.image (takenNow s [] none) [] with
  | some c => some (placeLaunch s w c)
  | none =>
    match compactPlan s w with
    | some pl => some { s with plans := s.plans ++ [pl] }
    | none =>
      match findVictims s w with
      | none => none
      | some (vs, c) =>
        let s1 := vs.foldl (fun s l => (beginDrain s l .draining {}).modLease l (fun x => { x with waiting := true })) s
        some { s1 with plans := s1.plans ++ [{ part := w.part, queue := w.queue, dest := c, busy := vs }] }

/-- R347, R354, R418: whether a launch is refused at once. -/
def launchRefused (s : State) (w : WaitLaunch) : Bool :=
  (s.part w.part).rights.fld (6 + w.image.cls) 1 == 0 || 63 ≤ (leasesOf s w.part).length || (s.part w.part).quar.fld 0 1 == 1
    || (firstFit s w.part w.image {} []).isNone

/-! ### Carrying out a plan (R352, R353) -/

def samePlan (a b : Plan) : Bool := a.part == b.part && a.queue == b.queue

def setPlan (s : State) (pl : Plan) : State := { s with plans := s.plans.map (fun x => if samePlan x pl then pl else x) }

/-- Whether a lease is still being worked on. -/
def workedOn (s : State) (l : Nat) : Bool :=
  let st := (s.lease l).st
  st == .draining || st == .moving || st == .copying || st == .freezing || st == .resuming

/-- Whether a lease may move to its corner now: no tile there is held, by another lease or by itself (R352, R375). -/
def cornerFree (s : State) (l c : Nat) : Bool :=
  let s1 : State := { s with plans := [] }
  fitsAt s1 (s.lease l).part (s.lease l).image (takenNow s1 [] (some l)) (leaseHomes s l) c

/-- One act of a plan of the placer: the next move; with none possible, the first waiting lease is parked in its save image;
then the parked leases come back; and last the launch is placed. A lease that does not run any more, or whose move would now split or
merge a group with an open level (R235), is left where it is, and one with a faulted engine comes to rest first (R363). A launch whose
place is not free after all is tried anew, or refused if it asks not to wait (R354). -/
def advancePlan (s : State) (pl : Plan) : State :=
  if pl.busy.any (workedOn s) then s
  else
    let moves := pl.moves.filter (fun e => (s.lease e.1).st == .running && (s.lease e.1).work.isNone && !splitsGroup s e.1 e.2)
    match moves.find? (fun e => cornerFree s e.1 e.2 && !engineHolds s e.1), moves with
    | some e, _ =>
      beginMove (setPlan s { pl with moves := moves.filter (fun x => x.1 != e.1), busy := [e.1] }) e.1 0 e.2
    | none, e :: r =>
      if engineHolds s e.1 then s else
      beginDrain (postAll (setPlan s { pl with moves := r, parked := pl.parked ++ [e], busy := [e.1] }) e.1
        (evWord 0x0A 0 0 0 e.1)) e.1 .draining { dest := e.2, reloc := true }
    | none, [] =>
      match pl.parked with
      | e :: r =>
        let s1 := setPlan s { pl with moves := [], parked := r, busy := [e.1] }
        if (s.lease e.1).st ≠ .saved then s1
        else if cornerFree s e.1 e.2 then beginResume s1 e.1 0 e.2 true
        else s1.modLease e.1 (fun x => { x with waiting := true })
      | [] =>
        let s1 : State := { s with plans := s.plans.filter (fun x => !samePlan x pl) }
        match s.waitL.find? (fun w => w.part == pl.part && w.queue == pl.queue) with
        | none => s1
        | some w =>
          if fitsAt s1 w.part w.image (takenNow s1 [] none) [] pl.dest then placeLaunch s1 w pl.dest
          else if w.nowait then packetEnd s1 w.part w.queue 0x15 0 else s1

/-! ### Resize (R379) -/

/-- Whether a tile's quad is being removed from a partition's allotment. -/
def leaving (s : State) (p k : Nat) : Bool :=
  match (List.range 8).find? (fun d => physDie s p d == some (tileDie k)) with
  | none => false
  | some d => (Tbl.get (0 : Word) (s.part p).resize (4 * d + quadOf k / 64)).fld (quadOf k % 64) 1 == 1

/-- The leases of a partition that hold a tile in the quads being removed. -/
def leasesLeaving (s : State) (p : Nat) : List Nat :=
  (leasesOf s p).filter (fun l => (leaseTiles s l).any (leaving s p))

/-- R379: one lease vacates the removed quads: it is relocated by first fit, or saved by freeze. -/
def vacate (s : State) (p l : Nat) : State :=
  let le := s.lease l
  if le.starting || le.work.isSome || engineHolds s l then s
  else match le.st with
    | .running =>
      match firstFit s p le.image (takenNow s [] (some l)) (leaseHomes s l) with
      | some c => if splitsGroup s l c then (beginFreeze s l 0).modLease l (fun x => { x with waiting := true }) else beginMove s l 0 c
      | none => (beginFreeze s l 0).modLease l (fun x => { x with waiting := true })
    | .frozen => (beginFreeze s l 0).modLease l (fun x => { x with waiting := true })
    | _ => s

/-- R379: the removal goes on, and completes when no lease holds a tile in the removed quads. -/
def serveResize (s : State) (p : Nat) : State :=
  if (s.part p).resize.isEmpty then s
  else
    let s1 := (leasesLeaving s p).foldl (fun s l => vacate s p l) s
    if (leasesLeaving s1 p).isEmpty then
      s1.modPart p (fun x =>
        { x with allot := x.resize.foldl (fun m e => Tbl.set 0 m e.1 (Tbl.get 0 m e.1 &&& ~~~e.2)) x.allot, resize := [] })
    else s1

/-! ### The waiting set (R354) -/

/-- The members of a partition's waiting set in the order of service: launches by queue, leases by 64 + id. -/
def waitingSet (s : State) (p : Nat) : List Nat :=
  let ls := (s.waitL.filter (fun w => w.part == p)).map (fun w => ((7 - w.image.cls) * 2 ^ 64 + w.at_, w.queue))
  let rs := ((leasesOf s p).filter (fun l => (s.lease l).st == .saved && (s.lease l).waiting)).map (fun l =>
    ((7 - (s.lease l).cls) * 2 ^ 64 + (s.lease l).savedAt, 64 + l))
  sortBy (lookup ((ls ++ rs).map (fun e => (e.2, e.1)))) ((ls ++ rs).map (fun e => e.2))

/-- Serves one member: a launch is tried; a lease resumes where first fit finds room (R374). Nothing is served while the
placer carries out a plan for the partition. -/
def serveOne (p : Nat) (s : State) (m : Nat) : State :=
  if s.plans.any (fun pl => pl.part == p) then s
  else if m < 64 then
    match s.waitL.find? (fun w => w.part == p && w.queue == m) with
    | none => s
    | some w => (tryLaunch s w).getD s
  else
    let l := m - 64
    match firstFit s p (s.lease l).image (takenNow s [] none) (leaseHomes s l) with
    | none => s
    | some c => beginResume s l 0 c false

/-- R354. The placer serves waiting launches and saved leases when room may be free. -/
def execPlacerServe (part : Nat) (s : State) : Out :=
  let s1 := serveResize s part
  .next (match s1.plans.find? (fun pl => pl.part == part) with
    | some pl => advancePlan s1 pl
    | none =>
      if (s1.part part).quar.fld 0 1 = 1 then s1
      else (waitingSet s1 part).foldl (serveOne part) s1)

end Sys2Proof.Machine
end

