-- ==== Sys2Proof/Machine/Packets.lean ====
section
/-! DEFINITION. Command processors: how packets are fetched and started (13 R425, R427, R430, R432) and what each packet does (10 R324, 11 R346, 13 R431). -/

namespace Sys2Proof.Machine

/-! ### Words of a packet (R430) -/

def pw (ws : List Word) (i : Nat) : Word := ws.getD i 0
/-- An 80-bit VA operand at words i and i + 1. -/
def pva (ws : List Word) (i : Nat) : Nat := (pw ws i).toNat + (pw ws (i + 1)).fld 0 16 * 2 ^ 64
def pktOp (ws : List Word) : Nat := (pw ws 0).fld 0 8
def pLen (ws : List Word) : Nat := (pw ws 0).fld 16 8
def pCmp (ws : List Word) : Bool := (pw ws 0).fld 15 1 == 1
def pNowait (ws : List Word) : Bool := (pw ws 0).fld 14 1 == 1
def pSeq (ws : List Word) : Nat := (pw ws 0).fld 32 32

/-- The table of R430: the length of a packet; none for an op that it lacks. -/
def packetLen (op : Nat) : Option Nat :=
  match op with
  | 0x01 => some 8
  | 0x02 => some 3
  | 0x03 => some 5
  | 0x04 => some 2
  | 0x05 => some 6
  | 0x06 => some 4
  | 0x07 => some 6
  | 0x08 => some 4
  | 0x09 => some 4
  | 0x0A => some 1
  | _ => none

/-- Whether the bits of a word from n up are zero. -/
def clearFrom (w : Word) (n : Nat) : Bool := w.toNat / 2 ^ n == 0

/-- R430: whether the fields after word 0 lie in their ranges; bits that the table gives no meaning count as zero fields
(log entry 24). -/
def fieldsOk (ws : List Word) : Bool :=
  let w := pw ws
  match pktOp ws with
  | 0x01 => clearFrom (w 2) 16 && clearFrom (w 4) 16 && clearFrom (w 5) 48 && clearFrom (w 7) 6 && (w 7).toNat ≤ 32
  | 0x02 => (w 1).toNat % 8 == 0 && clearFrom (w 2) 16 && w 2 != 0
  | 0x03 => (w 1).toNat % 8 == 0 && (w 2).fld 18 1 == 0 && (w 2).fld 19 13 == 0 && (w 2).fld 48 16 == 0
  | 0x04 => clearFrom (w 1) 48 && (w 1).fld 32 16 != 0
  | 0x05 => (w 1).toNat % 8 == 0 && clearFrom (w 2) 18 && clearFrom (w 5) 32
  | 0x06 => (w 1).toNat % 8 == 0 && clearFrom (w 2) 18 && (w 2).fld 16 2 != 3
  | 0x07 => clearFrom (w 2) 17 && clearFrom (w 4) 17 && clearFrom (w 5) 48 && w 5 != 0
      && ((w 2).fld 16 1 == 0 || (w 2).fld 0 16 == 0) && ((w 4).fld 16 1 == 0 || (w 4).fld 0 16 == 0)
  | 0x08 => clearFrom (w 2) 19 && 1 ≤ (w 2).fld 16 3 && (w 2).fld 16 3 ≤ 4 && clearFrom (w 3) 48
  | 0x09 => clearFrom (w 2) 19 && 1 ≤ (w 2).fld 16 3 && (w 2).fld 16 3 ≤ 4 && clearFrom (w 3) 48
  | _ => true

/-- R430: a packet with `room` words before the end of its buffer or ring submission. -/
def malformed (ws : List Word) (room : Nat) (inner inLoop : Bool) : Bool :=
  let w := pw ws 0
  let n := pLen ws
  (packetLen (pktOp ws) != some n) || room < n || w.fld 24 8 != 0 || w.fld 8 6 != 0 || (pNowait ws && pktOp ws != 1)
    || (inner && (pSeq ws != 0 || pCmp ws || pNowait ws)) || !fieldsOk ws
    || (pktOp ws == 3 && room < n + (pw ws 2).fld 32 16)
    || (pktOp ws == 4 && (inLoop || room < n + (pw ws 1).fld 32 16))

/-! ### Where a queue stands -/

/-- The words of the ring from the next packet to the tail (R427). -/
def Queue.ringRoom (x : Queue) : Nat := (x.qtail.toNat + x.ringSize - x.qhead.toNat % x.ringSize) % x.ringSize

/-- The buffer that the processor stands in. -/
def Queue.buffer (x : Queue) : Option PFrame := x.stack.find? (fun f => f.size == 0 && !f.loop)

/-- The next word's number in the buffer. -/
def Queue.bufPos (x : Queue) : Nat := (x.stack.head?.map (fun f => f.pos)).getD 0

/-- The words left in the buffer or in the ring submission. -/
def Queue.room (x : Queue) : Nat :=
  match x.buffer with
  | some b => b.lim - x.bufPos
  | none => x.ringRoom

/-- The HA of the i-th word from the next packet on. -/
def Queue.wordAt (x : Queue) (i : Nat) : Nat :=
  match x.buffer with
  | some b => b.base + 8 * (x.bufPos + i)
  | none => x.qbase.toNat + 8 * ((x.qhead.toNat + i) % x.ringSize)

/-- The next packet stands in a loop body. -/
def Queue.inLoop (x : Queue) : Bool := (x.stack.head?.map (fun f => f.loop)).getD false

/-- Passes n words by. -/
def Queue.advance (x : Queue) (n : Nat) : Queue :=
  let y := { x with stack := skipIn n x.stack }
  if x.buffer.isSome then y else { y with qhead := BitVec.ofNat 64 ((x.qhead.toNat + n) % x.ringSize) }

/-- R431: whether the ring words of the next packet lie in the partition's host range, which may have been set anew since the queue was
enabled. -/
def Queue.ringIn (x : Queue) (s : State) (p n : Nat) : Bool := (List.range n).all (fun i => inHost s p (x.wordAt i) 8)

/-! ### Fetching (R432) -/

/-- The word at an HA as the processor has it: one fetched ahead may be used or fetched anew, a free choice (log entry 8). -/
def ringRead (s : State) (x : Queue) (i a : Nat) : Word :=
  match Tbl.get none x.fetched a with
  | some w => if (Config.freeWord s.freeN).fld i 1 = 1 then hostWord s a else w
  | none => hostWord s a

/-- Fetches up to 32 words from the next packet on, which is 256 bytes. -/
def fetchPacket (s : State) (p q : Nat) : State × List Word :=
  let x := cq s p q
  let n := min x.room 32
  let as := (List.range n).map (fun i => (i, x.wordAt i))
  let ws := as.map (fun e => ringRead s x e.1 e.2)
  let stale (a : Nat) : Bool := x.buffer.isNone && x.qbase.toNat ≤ a && a < x.qbase.toNat + 8 * x.ringSize
  let kept := x.fetched.filter (fun e => !stale e.1)
  let f := (as.zip ws).foldl (fun f e => Tbl.set none f e.1.2 (some e.2)) kept
  (setCq { s with freeN := s.freeN + 1 } p q { x with fetched := f }, ws)

/-! ### The start of a packet (R425, R427, R430) -/

/-- The agent of a command processor acting for a queue. -/
def procWho (p q : Nat) : Who := { lease := 0, agent := .ctx (4096 + 64 * p + q), proc := some p }

/-- R431: the release at scope 6 after a packet's last write. -/
def procRelease (s : State) (p q : Nat) : State :=
  let w := procWho p q
  if s.lines.any (fun e => match e.2.cur with
    | some v => v.lease == 0 && v.unit.has w.agent && v.unit.scope != 6
    | none => false) then
    publish s 0 { scope := 6 } (fun _ => true) (fun v => v.lease == 0 && v.unit.has w.agent)
  else s

/-- The packet in progress is done. -/
def packetDone (s : State) (p q : Nat) : State := settlePacket (procRelease s p q) p q

/-- R429: the packet in progress fails. -/
def packetFail (s : State) (p q status : Nat) : State := packetEnd (procRelease s p q) p q status 0

/-- R427, R430: a packet of a buffer, or of the ring, starts. In the ring its seq must follow, and it is accepted then. -/
def startPacket (s : State) (p q : Nat) : State × Option (Nat × Nat) :=
  let r := fetchPacket s p q
  let x := cq r.1 p q
  let ws := r.2
  let inner := x.inBuffer
  let n := min (max 1 (pLen ws)) x.room
  let bad := malformed ws x.room inner x.inLoop
  let y := { x.advance n with pkt := ws.take n }
  if inner then
    if bad then (packetFail (setCq r.1 p q y) p q 0x40, none)
    else if !inHost s p (x.wordAt 0) (8 * n) then (packetFail (setCq r.1 p q y) p q 0x44, none)
    else (setCq r.1 p q y, some (p, q))
  else if !x.ringIn s p n then (setCq s p q x.breached, none)
  else
    let z := { y with top := some (pSeq ws, pktOp ws, pCmp ws) }
    if pSeq ws ≠ (x.lastacc + 1) % 2 ^ 32 then (packetFail (setCq r.1 p q z) p q 0x41, none)
    else
      let s1 := setCq r.1 p q { z with seqs := z.seqs.put 0 32 (pSeq ws) }
      if bad then (packetFail s1 p q 0x40, none) else (s1, some (p, q))

/-- R431: a DISCARD waits for every earlier command of its queue, LAUNCHes included. -/
def discardWaits (s : State) (p q : Nat) (x : Queue) : Bool :=
  pktOp x.pkt == 9 && !x.pkt.isEmpty && s.leases.any (fun e => e.2.st != .none && e.2.part == p && e.2.queue == q)

/-- Whether a queue has work for its processor now. A packet that waits, or that a fault holds, takes no turn. -/
def queueReady (s : State) (p q : Nat) : Bool :=
  let x := cq s p q
  if x.st ≠ 1 && x.st ≠ 3 then false
  else if !x.pkt.isEmpty then x.wait.isNone && !x.launch && x.fheld.isNone && !discardWaits s p q x
  else if x.inBuffer then (if x.spent then !innerLive s p q 2 else x.cheld.isEmpty)
  else if x.top.isSome then !innerLive s p q 1
  else x.st == 1 && x.cheld.isEmpty && x.ringRoom != 0

/-- The queues that a processor serves, as partition × 64 + queue. -/
def procQueues (s : State) (proc : Nat) : List Nat :=
  s.parts.flatMap (fun e => (e.2.queues.filter (fun z => z.2.proc == some proc)).map (fun z => e.1 * 64 + z.1))

/-- R425: the queue that a processor turns to: the one whose packet it has begun, else the next one in turn. -/
def nextQueue (s : State) (proc : Nat) : Option Nat :=
  let ks := (procQueues s proc).filter (fun k => queueReady s (k / 64) (k % 64))
  let last := (Tbl.get {} s.procs proc).last
  if ks.contains last && !(cq s (last / 64) (last % 64)).pkt.isEmpty then some last
  else ((ks.filter (fun k => last < k)).head?).orElse (fun _ => ks.head?)

/-- A turn of a command processor: the packet in progress goes on, or the next one starts; the answer names the queue whose
packet then runs. -/
def cmdTurn (s : State) (proc : Nat) : State × Option (Nat × Nat) :=
  match nextQueue s proc with
  | none => (s, none)
  | some k =>
    let p := k / 64
    let q := k % 64
    let s1 : State := { s with procs := Tbl.set {} s.procs proc { last := k } }
    let x := cq s p q
    if !x.pkt.isEmpty then (s1, some (p, q))
    else if x.top.isSome && (!x.inBuffer || x.spent) then (settlePacket s1 p q, none)
    else startPacket s1 p q

/-! ### Memory accesses of a packet (R431) -/

/-- R429, R431: an access of a packet fails: a fault of the customer's ends the packet; one of the reseller or owner holds it
and goes to its level; an access that a migration holds is tried again. -/
def packetFault (s : State) (p q code va : Nat) : State :=
  if code = heldCode then s
  else if codeLevel code = 2 then packetFail s p q code
  else
    let lv := codeLevel code
    let ws := ({ code, level := lv, va } : FRec).words (timeNs s)
    let s1 := if code = 0x08 then alarm s 1 (refusedTag s p (mkTag p 63) va) 0 else s
    let s2 := postRecord s1 lv p ws
    let s3 := s2.modPart p (fun r =>
      { r with faults := r.faults ++ [{ code, level := lv, unit := 0, what := .packet q, words := ws }] })
    modCq s3 p q (fun x => { x with fheld := some code })

/-- The processor's translation; it keeps no cache. -/
def procTr (p : Nat) (s : State) (va : Nat) : Except Nat (State × TlbEnt) := (translate s p 0 va).map (fun e => (s, e))

/-- The PA of a memory word of PRED, WAIT or SIGNAL, on a memory-side page of this package. -/
def procWord (s : State) (p q va : Nat) (need : Need) : Except Nat Nat :=
  match translate s p 0 va with
  | .error c => .error c
  | .ok e =>
    if e.attr.sysw then .error 0x09
    else match pageCheck s (procWho p q) va e { need with ms := true } with
      | .error c => .error c
      | .ok pa => if frameHeld s pa then .error heldCode else .ok pa

/-- R430: cond applied to (m & mask) and value. -/
def condHolds (cond : Nat) (m mask value : Word) : Bool :=
  let x := m &&& mask
  match cond with
  | 0 => x == value
  | 1 => x != value
  | 2 => x.toNat < value.toNat
  | _ => value.toNat ≤ x.toNat

/-- The condition of a PRED or WAIT on the word as it stands. -/
def packetCond (s : State) (p q : Nat) (ws : List Word) : Except Nat Bool :=
  (procWord s p q (pva ws 1) { r := true }).map (fun pa =>
    condHolds ((pw ws 2).fld 16 2) (s.mem.word pa) (pw ws 4) (pw ws 3))

/-! ### The packets (R431) -/

/-- What a packet does, if it is the one in progress on its queue and nothing holds it. -/
def inPacket (s : State) (p q op : Nat) (f : List Word → State) : Out :=
  let x := cq s p q
  .next (if x.pkt.isEmpty || pktOp x.pkt ≠ op || x.top.isNone || (x.st ≠ 1 && x.st ≠ 3) || x.wait.isSome || x.launch
      || x.fheld.isSome then s
    else f x.pkt)

/-- The endpoint entries of a LAUNCH, or the status that they end it with. -/
def readEndpoints (s : State) (p ha : Nat) : Nat → Except Nat (List Endpoint)
  | 0 => .ok []
  | n + 1 =>
    if !inHost s p ha 16 then .error 0x44
    else
      let a := (hostWord s ha).toNat
      let w := hostWord s (ha + 8)
      if a % 128 ≠ 0 || w.fld 55 9 ≠ 0 || 10 < w.fld 49 4 then .error 0x40
      else if !inHost s p a (w.fld 0 48) then .error 0x44
      else (readEndpoints s p (ha + 16) n).map (fun r =>
        { ha := a, bytes := w.fld 0 48, write := w.fld 48 1 == 1, fmt := w.fld 49 4, blk := w.fld 53 2 } :: r)

/-- A word of an image as the processor reads it. -/
def procRead (s : State) (p q va : Nat) : Except Nat Word :=
  (agentRead (procTr p) s (procWho p q) va 8 false).map (fun g => BitVec.ofNat 64 g.val)

/-- The image of a LAUNCH: 0x19 and the offset where a check of R83 fails, the fault's code and VA where a read faults. -/
def launchImage (s : State) (p q va : Nat) : Except (Nat × Nat) Image :=
  let rd : Rd := fun off => (procRead s p q ((va + off) % 2 ^ 80)).toOption
  match rdImage rd va with
  | .ok r => .ok r
  | .error off =>
    let a := (va + off / 8 * 8) % 2 ^ 80
    match procRead s p q a with
    | .ok _ => .error (0x19, off)
    | .error c => .error (c, a)

/-- R346. Command packet that places and starts a lease. -/
def execLaunch (part queue : Nat) (s : State) : Out :=
  inPacket s part queue 0x01 (fun ws =>
    match readEndpoints s part (pw ws 6).toNat (pw ws 7).toNat with
    | .error c => packetFail s part queue c
    | .ok es =>
      match launchImage s part queue (pva ws 1) with
      | .error (c, va) =>
        if c = 0x19 then imageRefused (procRelease s part queue) part queue va 0 else packetFault s part queue c va
      | .ok im =>
        let x := cq s part queue
        let top := x.top.getD (0, 0, false)
        let w : WaitLaunch :=
          { part, queue, image := im, saveVa := pva ws 3, saveBytes := (pw ws 5).toNat, endpoints := es, seq := top.1
            cmp := top.2.1 == 1 && top.2.2, at_ := timeNs s, nowait := pNowait ws, depth := x.depth }
        if w.saveBytes < saveSize im || launchRefused s w then packetFail s part queue 0x15
        else
          let s1 := setCq { s with waitL := s.waitL ++ [w] } part queue { x with launch := true }
          match tryLaunch s1 w with
          | some s2 => s2
          | none => if pNowait ws then packetFail s part queue 0x15 else if x.st = 3 then packetFail s part queue 0x45 else s1)

/-- R431. Command packet that runs an indirect buffer. -/
def execIndirect (part queue : Nat) (s : State) : Out :=
  inPacket s part queue 0x02 (fun ws =>
    let x := cq s part queue
    let n := (pw ws 2).toNat
    if 2 ≤ x.depth then packetFail s part queue 0x42
    else if !inHost s part (pw ws 1).toNat (8 * n) then packetFail s part queue 0x44
    else setCq s part queue { x.dropPkt with stack := { base := (pw ws 1).toNat, lim := n } :: x.stack })

/-- R431. Command packet that skips words unless a condition holds. -/
def execPred (part queue : Nat) (s : State) : Out :=
  inPacket s part queue 0x03 (fun ws =>
    match packetCond s part queue ws with
    | .error c => packetFault s part queue c (pva ws 1)
    | .ok true => packetDone s part queue
    | .ok false => packetDone (modCq s part queue (fun x => x.advance ((pw ws 2).fld 32 16))) part queue)

/-- R431. Command packet that repeats a body. -/
def execLoop (part queue : Nat) (s : State) : Out :=
  inPacket s part queue 0x04 (fun ws =>
    let passes := (pw ws 1).fld 0 32
    let body := (pw ws 1).fld 32 16
    let s1 := modCq s part queue (fun x =>
      if passes = 0 then x.advance body
      else match x.buffer with
        | some b => { x with stack := { base := b.base, pos := x.bufPos, start := x.bufPos, lim := x.bufPos + body, passes, loop := true } :: x.stack }
        | none => { x with stack := { size := x.ringSize, start := x.qhead.toNat, lim := body, passes, loop := true } :: x.stack })
    packetDone s1 part queue)

/-- R431. Command packet that waits on a memory-side word. A queue that is being disabled waits no more (R426). -/
def execWaitPacket (part queue : Nat) (s : State) : Out :=
  inPacket s part queue 0x05 (fun ws =>
    match packetCond s part queue ws with
    | .error c => packetFault s part queue c (pva ws 1)
    | .ok true => packetDone s part queue
    | .ok false =>
      let t := (pw ws 5).toNat
      if (cq s part queue).st = 3 then packetFail s part queue 0x45
      else modCq s part queue (fun x => { x with wait := some (if t = 0 then 0 else s.fc + 2100 * t), met := false }))

/-- A queue's packet in progress is a WAIT that waits. -/
def Queue.waits (x : Queue) : Bool := x.wait.isSome && pktOp x.pkt == 5

/-- R431: at each change of memory the base die tests the words of waiting packets again. -/
def noteWaits (s : State) : State :=
  s.parts.foldl (fun s e => e.2.queues.foldl (fun s z =>
    if z.2.waits && !z.2.met then
      (match packetCond s e.1 z.1 z.2.pkt with
      | .ok true => modCq s e.1 z.1 (fun x => { x with met := true })
      | _ => s)
    else s) s) s

/-- R431. A WAIT packet's condition comes to hold. -/
def execWaitPacketSatisfied (part queue : Nat) (s : State) : Out :=
  let x := cq s part queue
  .next (if !x.waits then s
    else if x.met then packetDone s part queue
    else match packetCond s part queue x.pkt with
      | .error c => packetFault (setCq s part queue { x with wait := none }) part queue c (pva x.pkt 1)
      | .ok true => packetDone s part queue
      | .ok false => s)

/-- R431. A WAIT packet times out with status 0x43. -/
def execWaitPacketTimeout (part queue : Nat) (s : State) : Out :=
  let x := cq s part queue
  .next (match x.wait with
    | some t => if !x.waits || x.met || t = 0 || s.fc < t then s else packetFail s part queue 0x43
    | none => s)

/-- R431. Command packet that stores, adds or ORs into a word. -/
def execSignal (part queue : Nat) (s : State) : Out :=
  inPacket s part queue 0x06 (fun ws =>
    match procWord s part queue (pva ws 1) { r := true, w := true, noProof := true } with
    | .error c => packetFault s part queue c (pva ws 1)
    | .ok pa =>
      let m := s.mem.word pa
      let v := pw ws 3
      let n := match (pw ws 2).fld 16 2 with
        | 0 => v
        | 1 => m + v
        | _ => m ||| v
      packetDone { s with mem := s.mem.setWord pa n } part queue)

/-- A location of a COPY packet: an HA, or a VA. -/
structure PLoc where
  host : Bool := false
  addr : Nat := 0

def pLoc (ws : List Word) (i : Nat) : PLoc :=
  if (pw ws (i + 1)).fld 16 1 = 1 then { host := true, addr := (pw ws i).toNat } else { addr := pva ws i }

/-- One byte of a COPY packet's source. -/
def pktReadByte (s : State) (p q : Nat) (x : PLoc) (i : Nat) : Except Nat Nat :=
  if x.host then
    if inHost s p (x.addr + i) 1 then .ok (s.host.read (x.addr + i)).toNat else .error 0x44
  else (agentRead (procTr p) s (procWho p q) ((x.addr + i) % 2 ^ 80) 1 false).map (fun g => g.val)

/-- Up to n bytes of it: value, how many, and the fault that stopped it. -/
def pktRead (s : State) (p q : Nat) (x : PLoc) (i : Nat) : Nat → Nat × Nat × Nat
  | 0 => (0, 0, 0)
  | n + 1 =>
    match pktReadByte s p q x i with
    | .error c => (0, 0, c)
    | .ok v =>
      let r := pktRead s p q x (i + 1) n
      (v + 256 * r.1, r.2.1 + 1, r.2.2)

/-- n bytes to a COPY packet's destination. -/
def pktWrite (s : State) (p q : Nat) (x : PLoc) (i n v : Nat) : Except Nat State :=
  if x.host then
    if inHost s p (x.addr + i) n then .ok { s with host := s.host.writeN (x.addr + i) n v } else .error 0x44
  else (agentWrite (procTr p) s (procWho p q) ((x.addr + i) % 2 ^ 80) n (fullMask n) v false).map (fun g => g.st)

/-- R431. Command packet that copies bytes. Each turn moves the bytes up to the end of the destination's aligned 8-byte unit. -/
def execCopyPacket (part queue : Nat) (s : State) : Out :=
  inPacket s part queue 0x07 (fun ws =>
    let total := (pw ws 5).toNat
    let i := (cq s part queue).moved
    let src := pLoc ws 1
    let dst := pLoc ws 3
    let n := min (total - i) (8 - (dst.addr + i) % 8)
    let r := pktRead s part queue src i n
    if r.2.1 = 0 then packetFault s part queue r.2.2 ((src.addr + i) % 2 ^ 80)
    else match pktWrite s part queue dst i r.2.1 r.1 with
      | .error c => packetFault s part queue c ((dst.addr + i) % 2 ^ 80)
      | .ok s1 =>
        let s2 := modCq s1 part queue (fun x => { x with moved := i + r.2.1 })
        if total ≤ i + r.2.1 then packetDone s2 part queue else s2)

/-- R324. Command packet that fills slices: no agent reads another value for it (R218). -/
def execPrefetchPacket (part queue : Nat) (s : State) : Out :=
  inPacket s part queue 0x08 (fun _ => packetDone s part queue)

/-- R324. Command packet that drops slice lines, on whichever die they are homed. -/
def execDiscardPacket (part queue : Nat) (s : State) : Out :=
  inPacket s part queue 0x09 (fun ws =>
    if discardWaits s part queue (cq s part queue) then s
    else packetDone (discardRange s part (procWho part queue) (fun _ => true) (pva ws 1) (pw ws 3).toNat) part queue)

/-- R432. Command packet that discards fetched-ahead words. -/
def execFetchFence (part queue : Nat) (s : State) : Out :=
  inPacket s part queue 0x0A (fun _ =>
    packetDone (modCq s part queue (fun x => { x with fetched := [] })) part queue)

/-- Runs the packet in progress on a queue: the meaning of its instruction. -/
def runPacket (s : State) (p q : Nat) : Out :=
  match pktOp (cq s p q).pkt with
  | 0x01 => execLaunch p q s
  | 0x02 => execIndirect p q s
  | 0x03 => execPred p q s
  | 0x04 => execLoop p q s
  | 0x05 => execWaitPacket p q s
  | 0x06 => execSignal p q s
  | 0x07 => execCopyPacket p q s
  | 0x08 => execPrefetchPacket p q s
  | 0x09 => execDiscardPacket p q s
  | 0x0A => execFetchFence p q s
  | _ => .next s

/-- R427, R434. The hearth restarts a failed command processor, stopping its queues; the record's operands are left open
(log entry 8). -/
def execCommandProcessorRestart (proc : Nat) (s : State) : Out :=
  let ks := procQueues s proc
  let s1 := ks.foldl (fun s k => stopQueue s (k / 64) 0x45 (k % 64)) s
  let opa := (Config.freeWord s1.freeN).toNat
  .next (if 16 ≤ proc then s
    else postRecord { s1 with freeN := s1.freeN + 1 } 0 0 (({ level := 0, opa } : FRec).words (timeNs s1)))

end Sys2Proof.Machine
end

