-- ==== Sys2Proof/Machine/Sha.lean ====
section
/-! DEFINITION. SHA-256, with which measurement registers are extended (13 R437). The algorithm is that of FIPS 180-4, which the
spec names and does not restate (log entry 12). The working registers stand in one number of 256 bits and the last sixteen words
of the message schedule in one of 512, both with word 0 lowest, so that a round is a shift of each. -/

namespace Sys2Proof.Machine

/-- The whole part of the e-th root of n, taken bit by bit from bit b − 1 down, from the part r already found. -/
def rootOf (e n : Nat) : Nat → Nat → Nat
  | 0, r => r
  | b + 1, r => rootOf e n b (if (r + 2 ^ b) ^ e ≤ n then r + 2 ^ b else r)

/-- The primes below n, rising. -/
def primesTo (n : Nat) : List Nat :=
  (List.range n).filter (fun p => decide (2 ≤ p) && ((List.range p).drop 2).all (fun d => p % d != 0))

/-- The first 32 bits of the fraction of the e-th root of each prime below n. -/
def rootBits (e n : Nat) : List (BitVec 32) :=
  (primesTo n).map (fun p => BitVec.ofNat 32 (rootOf e (p * 2 ^ (32 * e)) 40 0))

/-- Word i of a packed row of 32-bit words. -/
def lane32 {n : Nat} (x : BitVec n) (i : Nat) : BitVec 32 := x.extractLsb' (32 * i) 32

/-- Words, the first lowest, as one number. -/
def packed (n : Nat) (ws : List (BitVec 32)) : BitVec n :=
  ws.foldr (fun w x => (x <<< 32) ||| w.zeroExtend n) 0

/-- Two packed rows of eight words, added word by word. -/
def addLanes (x y : BitVec 256) : BitVec 256 :=
  packed 256 ((List.range 8).map (fun i => lane32 x i + lane32 y i))

/-- The exclusive or of a word turned right by each of some counts. -/
def turns (x : BitVec 32) (ns : List Nat) : BitVec 32 := ns.foldl (fun a n => a ^^^ x.rotateRight n) 0

/-- One round with constant k: the schedule gives its oldest word and takes a new one, and the registers move up one place. -/
def shaTurn (s : BitVec 256 × BitVec 512) (k : BitVec 32) : BitVec 256 × BitVec 512 :=
  let r := lane32 s.1
  let m := lane32 s.2
  let pick := (r 6) ^^^ ((r 4) &&& ((r 5) ^^^ (r 6)))
  let most := ((r 0) &&& ((r 1) ||| (r 2))) ||| ((r 1) &&& (r 2))
  let add := k + m 0 + r 7 + turns (r 4) [6, 11, 25] + pick
  let up := packed 256 [add + turns (r 0) [2, 13, 22] + most, r 0, r 1, r 2, r 3 + add, r 4, r 5, r 6]
  let fresh := m 0 + (turns (m 1) [7, 18] ^^^ (m 1 >>> 3)) + m 9 + (turns (m 14) [17, 19] ^^^ (m 14 >>> 10))
  (up, (s.2 >>> 32) ||| (fresh.zeroExtend 512 <<< 480))

/-- Four bytes, the first most significant. -/
def beWord (m : List Byte) (at_ : Nat) : BitVec 32 :=
  BitVec.ofNat 32 ((List.range 4).foldl (fun v i => v * 256 + (m.getD (at_ + i) 0).toNat) 0)

/-- The message with its padding: a one bit, zeros, and the length in bits in the last eight bytes of a block. -/
def shaPad (m : List Byte) : List Byte :=
  let z := (119 - m.length % 64) % 64
  m ++ 0x80 :: List.replicate z 0 ++ (List.range 8).map (fun i => BitVec.ofNat 8 (8 * m.length / 256 ^ (7 - i)))

/-- Block i of a padded message folded into the hash so far. -/
def shaFold (ks : List (BitVec 32)) (m : List Byte) (h : BitVec 256) (i : Nat) : BitVec 256 :=
  let win := packed 512 ((List.range 16).map (fun j => beWord m (64 * i + 4 * j)))
  addLanes h (ks.foldl shaTurn (h, win)).1

/-- A 256-bit register holds byte 0 of a digest, its most significant in FIPS 180-4, lowest. -/
def bytesOf256 (x : BitVec 256) : List Byte := (List.range 32).map (fun i => BitVec.ofNat 8 (x.fld (8 * i) 8))

def sha256 (m : List Byte) : BitVec 256 :=
  let p := shaPad m
  let h := (List.range (p.length / 64)).foldl (shaFold (rootBits 3 312) p) (packed 256 (rootBits 2 20))
  BitVec.ofNat 256 ((List.range 32).foldr (fun i v => v * 256 + (lane32 h (i / 4)).fld (8 * (3 - i % 4)) 8) 0)

/-- R437: a measurement register extended by a digest. -/
def extendMeas (m d : BitVec 256) : BitVec 256 := sha256 (bytesOf256 m ++ bytesOf256 d)

end Sys2Proof.Machine
end

