-- ==== Sys2Proof/Machine/Host.lean ====
section
/-! DEFINITION. Management space: its map and views (13 R417), who may write a register (13 R419, R423), and what every register reads as (12 R380, 13 R420, R422, R426, R433). -/

namespace Sys2Proof.Machine

/-! ### The map (R417, R380) -/

/-- Where an access arrives: the owner page, the fabric control region or a partition control block, with the offset there. -/
inductive Spot where
  | none
  | owner (o : Nat)
  | fab (o : Nat)
  | block (p o : Nat)
deriving DecidableEq, Repr, Inhabited

/-- R417, R422: the place that a write at an offset of a view reaches. Level 0 alone writes the owner page, and it alone reaches the
fabric region. -/
def spotOf (view off : Nat) : Spot :=
  let r := off / 2 ^ 24
  let rest := off % 2 ^ 24
  let c := (rest - 0x100000) / 0x10000
  if 3 ≤ view || 2 ^ 34 ≤ off || off % 8 ≠ 0 then .none
  else if off < 0x100000 then (if view = 0 then .owner off else .none)
  else if off < 0x200000 then (if view = 0 then .fab (off - 0x100000) else .none)
  else if r < 1 || 30 < r then .none
  else if rest < 0x10000 then .block (32 * r) rest
  else if 0x100000 ≤ rest && 1 ≤ c && c ≤ 31 then .block (32 * r + c) (rest % 0x10000)
  else .none

/-- R417: the place that a read at an offset of a view reaches: the map of each view lists the owner page. -/
def readSpot (view off : Nat) : Spot := spotOf (if view < 3 && off < 0x100000 then 0 else view) off

/-- The level of a block. -/
def blockLevel (p : Nat) : Nat := if partC p = 0 then 1 else 2

/-- The block whose level a view writes for, when it writes a block. -/
def viewBlock (view p : Nat) : Nat := if view = 1 then partR p * 32 else p

/-- R419, R423: a view holds a right in its own level's mask; level 0 holds every right. -/
def viewRight (s : State) (view p bit : Nat) : Bool := view == 0 || (s.part (viewBlock view p)).rights.fld bit 1 == 1

/-- R419: whether a view may write a register of a block that names a view and, perhaps, a right. -/
def mayWrite (s : State) (view p need : Nat) (right : Option Nat) : Bool :=
  view ≤ need && (match right with
    | none => true
    | some b => viewRight s view p b)

/-- R419, R420: a refused write is counted, and its offset recorded. -/
def refuse (s : State) (p o : Nat) : State :=
  s.modPart p (fun x => { x with refst := BitVec.ofNat 64 (min (x.refst.fld 0 32 + 1) (2 ^ 32 - 1) + o % 2 ^ 32 * 2 ^ 32) })

/-- R442: a write has an effect only once the package is ready. -/
def ready (s : State) : Bool := s.pkg.state == 1

/-- A write that arrives at a register of a partition control block; `own` says which offsets are the register's. -/
def atBlock (view off : Nat) (s : State) (own : Nat → Nat → Bool) (f : Nat → Nat → State) : Out :=
  .next (match spotOf view off with
    | .block p o => if ready s && own p o then f p o else s
    | _ => s)

/-- A write that arrives at a register of the owner page. -/
def atOwner (view off : Nat) (s : State) (own : Nat → Bool) (f : Nat → State) : Out :=
  .next (match spotOf view off with
    | .owner o => if ready s && own o then f o else s
    | _ => s)

/-- A write that arrives at a register of the fabric control region. -/
def atFab (view off : Nat) (s : State) (own : Nat → Bool) (f : Nat → State) : Out :=
  .next (match spotOf view off with
    | .fab o => if ready s && own o then f o else s
    | _ => s)

/-- A write with its conditions: done, or refused and counted. -/
def guarded (s : State) (p o : Nat) (ok : Bool) (f : State) : State := if ok then f else refuse s p o

/-! ### Offsets of register groups -/

/-- The index of a register in an array of n from a base, a stride apart. -/
def arrayIdx (o base stride n : Nat) : Option Nat :=
  if base ≤ o && (o - base) % stride = 0 && (o - base) / stride < n then some ((o - base) / stride) else none

/-- The slot of a lease's control block and the offset in it (R420). -/
def leaseSpot (o : Nat) : Option (Nat × Nat) :=
  if 0x1000 ≤ o && o < 0x3000 then some ((o - 0x1000) / 0x80, (o - 0x1000) % 0x80) else none

/-- The queue of a queue's register and the offset in it (R426). -/
def queueSpot (o : Nat) : Option (Nat × Nat) :=
  if 0x3000 ≤ o && o < 0x4000 then some ((o - 0x3000) / 0x40, (o - 0x3000) % 0x40) else none

/-- The register of a handler group. -/
def groupSpot (o : Nat) : Option Nat := if 0x600 ≤ o && o < 0x640 then some (o - 0x600) else none

/-- The word of a mailbox buffer. -/
def mbufSpot (o : Nat) : Option Nat := if 0x8000 ≤ o && o < 0xC000 then some (o - 0x8000) else none

/-! ### Reads (R419, R420, R422, R426, R433) -/

/-- A register of a handler group. -/
def HGroup.word (h : HGroup) (i : Nat) : Word :=
  match i with
  | 0x00 => h.base
  | 0x08 => h.cfg
  | 0x10 => h.tail
  | 0x18 => h.head
  | 0x28 => h.replyst
  | 0x30 => h.msiaddr
  | 0x38 => h.msidata
  | _ => 0

/-- A register of a queue. -/
def Queue.word (x : Queue) (i : Nat) : Word :=
  match i with
  | 0x00 => x.qbase
  | 0x08 => x.qcfg
  | 0x10 => x.qtail
  | 0x18 => x.qhead
  | 0x20 => x.cbase
  | 0x28 => x.cring
  | 0x30 => x.seqs
  | 0x38 => x.qstat
  | _ => 0

/-- A register of the mailbox of a block or page. -/
def Mailbox.word (m : Mailbox) (o : Nat) : Word :=
  if o = 0x700 then m.ctl else if o = 0x708 then m.sta
  else match mbufSpot o with
    | some i => m.buf.word i
    | none => 0

/-- R420: lstat of a slot. -/
def lstat (s : State) (p slot : Nat) : Word :=
  match leaseInSlot s p slot with
  | none => 0
  | some l =>
    let le := s.lease l
    let st := if le.st = .saved then 2 else if le.faults.any (fun f => !f.replied) then 3 else 1
    BitVec.ofNat 64 (l + le.cls * 2 ^ 12 + st * 2 ^ 16)

/-- R357: the used register counts units of 64. -/
def usedWord (le : Lease) : Word :=
  BitVec.ofNat 64 (le.used.fld 32 32 / 64 * 2 ^ 32 + le.used.fld 0 32 / 64)

/-- A register of a partition control block, read by a view that may read it. -/
def blockRead (s : State) (p o : Nat) : Word :=
  let x := s.part p
  let l2 (w : Word) : Word := if blockLevel p = 2 then w else 0
  match o with
  | 0x0000 => x.pcfg
  | 0x0008 => x.rights
  | 0x0010 => x.hbase
  | 0x0018 => x.dietab
  | 0x0020 => x.hlimit
  | 0x0028 => l2 x.croot
  | 0x0030 => l2 x.rroot
  | 0x0038 => l2 x.oroot
  | 0x0040 => x.ivaddr
  | 0x0048 => x.ivcmd &&& 0x8000000000000000
  | 0x0050 => x.refst
  | 0x0058 => x.quar
  | 0x0688 => l2 x.dbgdata
  | _ =>
    match arrayIdx o 0x100 8 8, arrayIdx o 0x140 8 8, arrayIdx o 0x180 8 32, groupSpot o, leaseSpot o, queueSpot o with
    | some d, _, _, _, _, _ => l2 (Tbl.get 0 x.poolseg d)
    | _, some d, _, _, _, _ => l2 (Tbl.get 0 x.poolpa d)
    | _, _, some i, _, _, _ => Tbl.get 0 x.allot i
    | _, _, _, some i, _, _ => x.hq.word i
    | _, _, _, _, some (slot, i), _ =>
      l2 (match i, leaseInSlot s p slot with
        | 0x00, _ => lstat s p slot
        | 0x40, some l => (s.lease l).budget
        | 0x48, some l => usedWord (s.lease l)
        | _, _ => 0)
    | _, _, _, _, _, some (q, i) => l2 ((cq s p q).word i)
    | _, _, _, _, _, _ => x.mb.word o

/-- R422: a register of the owner page. -/
def ownerRead (s : State) (o : Nat) : Word :=
  let g := s.pkg
  match o with
  | 0x0000 => BitVec.ofNat 64 (g.state + g.stage * 2 ^ 8)
  | 0x0008 => g.alarmcfg
  | 0x0300 => g.ftframe
  | 0x0308 => BitVec.ofNat 64 (boolBit g.ftbusy * 2 ^ 63)
  | 0x0310 => BitVec.ofNat 64 (frameTag s (g.ftframe.fld 0 23 * 65536))
  | _ =>
    match arrayIdx o 0x40 8 8, arrayIdx o 0x80 8 4, arrayIdx o 0x400 8 64, groupSpot o with
    | some i, _, _, _ => asrcWord s i
    | _, some i, _, _ => BitVec.ofNat 64 (g.mdig.fld (64 * i) 64)
    | _, _, some i, _ => BitVec.ofNat 64 ((Tbl.get (0 : BitVec 256) g.meas (i / 4)).fld (64 * (i % 4)) 64)
    | _, _, _, some i => g.hq.word i
    | _, _, _, _ => g.mb.word o

/-- R380: a register of the fabric control region. -/
def fabRead (s : State) (o : Nat) : Word :=
  let f := s.fab
  match o with
  | 0x2000 => f.dcfg
  | 0x2008 => BitVec.ofNat 64 (f.amps % 2 ^ 12)
  | 0x3000 => f.pkgid
  | _ =>
    match arrayIdx o 0 8 256, arrayIdx o 0x1000 8 160, arrayIdx o 0x2100 8 8, arrayIdx o 0x3100 8 36, arrayIdx o 0x4000 8 2048 with
    | some i, _, _, _, _ => Tbl.get 0 f.conn i
    | _, some i, _, _, _ => (seamMod s i).mstat
    | _, _, some d, _, _ =>
      let x := Tbl.get {} f.dies d
      BitVec.ofNat 64 (x.spent % 2 ^ 16 + x.grant % 2 ^ 16 * 2 ^ 16 + x.demand % 2 ^ 16 * 2 ^ 32 + x.level * 2 ^ 48)
    | _, _, _, some i, _ => (Tbl.get {} f.ports i).gstat
    | _, _, _, _, some i => Tbl.get 0 f.win i
    | _, _, _, _, _ => 0

/-- R416, R417, R419, R442: what a read of management space gives. -/
def mgmtRead (s : State) (view off : Nat) : Word :=
  match readSpot view off with
  | .owner 0 => ownerRead s 0
  | .owner o => if ready s then ownerRead s o else 0
  | .fab o => if ready s then fabRead s o else 0
  | .block p o => if ready s && view ≤ blockLevel p then blockRead s p o else 0
  | .none => 0

/-- R416: the limits of a host transaction of n bytes: 8 to 128 bytes, aligned to 8, within one 128-byte block. -/
def txnOk (off n : Nat) : Bool := n % 8 == 0 && 8 ≤ n && off % 8 == 0 && off % 128 + n ≤ 128

/-- R416: what the port answers to a read of n bytes: one register after the other, or, none, the unsupported-request status. -/
def hostRead (s : State) (view off n : Nat) : Option (List Word) :=
  if txnOk off n then some ((List.range (n / 8)).map (fun i => mgmtRead s view (off + 8 * i))) else none

/-- R416: the acts of a host write of some words: one register after the other, each as the write that `as` makes of it. One that breaks
the limits is answered with the unsupported-request status and is no act. -/
def hostWrite (view off : Nat) (ws : List Word) (as : Nat → Nat → Word → Instr) : List What :=
  if txnOk off (8 * ws.length) then ws.mapIdx (fun i w => .event (as view (off + 8 * i) w)) else []

end Sys2Proof.Machine
end

