-- ==== Sys2Proof/Machine/Manage.lean ====
section
/-! DEFINITION. Writes to management registers: partitions, rights, die tables, allotments, pools, translation invalidation, queues, handler queues, and the end of a lease (10 R318, R340, R343, 11 R348, R379, 12 R405, 13 R419 to R428, R433, R436). -/

namespace Sys2Proof.Machine

/-! ### Registers without behaviour of their own (R419) -/

/-- R421: a bound of a host range lies within the parent's. -/
def hostBoundOk (s : State) (p : Nat) (v : Word) : Bool :=
  v.toNat % 4096 == 0 && (partC p == 0
    || ((s.part (partR p * 32)).hbase.toNat ≤ v.toNat && v.toNat ≤ (s.part (partR p * 32)).hlimit.toNat))

/-- R433: a register of a handler group takes a value; records held for want of room may then fit. -/
def groupWrite (h : HGroup) (i : Nat) (v : Word) : Option HGroup :=
  match i with
  | 0x00 => if v.toNat % 4096 = 0 then some { h with base := v } else none
  | 0x08 => if clearFrom v 9 && v.fld 5 3 == 0 && 9 ≤ v.fld 0 5 && v.fld 0 5 ≤ 20 then some { h with cfg := v } else none
  | 0x30 => if v.toNat % 4 = 0 then some { h with msiaddr := v } else none
  | 0x38 => if clearFrom v 32 then some { h with msidata := v } else none
  | _ => none

/-- The offsets of a handler group that have no behaviour of their own. -/
def groupPlain (i : Nat) : Bool := i == 0x00 || i == 0x08 || i == 0x30 || i == 0x38

/-- Flushes what a handler queue holds. -/
def flushGroup (s : State) (level p : Nat) : State := flushRecords s level p ((hgroup s level p).held.length + 1)

/-- Gives n frames a tag. -/
def tagFrames (t : Tbl (BitVec 16)) (f : Nat) (tag : BitVec 16) : Nat → Tbl (BitVec 16)
  | 0 => t
  | n + 1 => tagFrames (Tbl.set 0xFFFF t f tag) (f + 1) tag n

/-- R340: the frames of a pool segment, 144 bytes for each line, carry the owner's tag. -/
def tagPool (s : State) (p d : Nat) : State :=
  let x := s.part p
  { s with tags := tagFrames s.tags (Tbl.get (0 : Word) x.poolpa d).toNat 0 ((poolLimit x d * 144 + 65535) / 65536) }

/-- R438: a request's length makes the mailbox busy until the request is answered. -/
def Mailbox.ask (m : Mailbox) (v : Word) : Mailbox := { m with ctl := v, sta := 1 }

def Mailbox.busy (m : Mailbox) : Bool := m.sta.fld 0 2 == 1

/-- A write to a register of a partition control block that only keeps it; a pool segment's place tags its frames. -/
def plainBlock (s : State) (view p o : Nat) (v : Word) : State :=
  let lv := blockLevel p
  let put (need : Nat) (right : Option Nat) (ok : Bool) (f : Part → Part) : State :=
    guarded s p o (mayWrite s view p need right && ok) (s.modPart p f)
  let put2 (need : Nat) (right : Option Nat) (ok : Bool) (f : Part → Part) : State :=
    if lv = 2 then put need right ok f else s
  match o with
  | 0x0010 => put (lv - 1) none (hostBoundOk s p v) (fun x => { x with hbase := v })
  | 0x0020 => put (lv - 1) none (hostBoundOk s p v) (fun x => { x with hlimit := v })
  | 0x0028 => put2 2 (some 2) (v.toNat % 4096 == 0) (fun x => { x with croot := v })
  | 0x0030 => put2 1 (some 2) (v.toNat % 4096 == 0) (fun x => { x with rroot := v })
  | 0x0038 => put2 0 none (v.toNat % 4096 == 0 && clearFrom v 52) (fun x => { x with oroot := v })
  | 0x0040 => put lv none true (fun x => { x with ivaddr := v })
  | 0x0700 => put lv none (clearFrom v 12) (fun x => { x with mb := x.mb.ask v })
  | 0x0688 => put2 2 (some 4) true (fun x => { x with dbgdata := v })
  | _ =>
    match arrayIdx o 0x140 8 8, groupSpot o, leaseSpot o, queueSpot o, mbufSpot o with
    | some d, _, _, _, _ =>
      if lv ≠ 2 then s
      else guarded s p o (mayWrite s view p 0 none && clearFrom v 36)
        (tagPool (s.modPart p (fun x => { x with poolpa := Tbl.set 0 x.poolpa d v })) p d)
    | _, some i, _, _, _ =>
      if !groupPlain i then s
      else match groupWrite (s.part p).hq i v with
        | none => refuse s p o
        | some h => guarded s p o (mayWrite s view p lv none) (flushGroup (s.modPart p (fun x => { x with hq := h })) lv p)
    | _, _, some (slot, 0x40), _, _ =>
      if lv ≠ 2 then s
      else match leaseInSlot s p slot with
        | none => s
        | some l => guarded s p o (mayWrite s view p 1 none) (s.modLease l (fun x => { x with budget := v }))
    | _, _, _, some (q, i), _ =>
      if lv ≠ 2 then s
      else
        let x := cq s p q
        let ok := mayWrite s view p 2 none && x.qcfg.fld 16 1 == 0 && (x.st == 0)
        if i = 0x00 then guarded s p o (ok && v.toNat % 8 == 0) (setCq s p q { x with qbase := v })
        else if i = 0x20 then guarded s p o (ok && v.toNat % 16 == 0) (setCq s p q { x with cbase := v })
        else s
    | _, _, _, _, some i => put lv none true (fun x => { x with mb := { x.mb with buf := x.mb.buf.setWord i v } })
    | _, _, _, _, _ => s

/-- A write to a register of the owner page that only keeps it (R422). -/
def plainOwner (s : State) (o : Nat) (v : Word) : State :=
  let g := s.pkg
  match o with
  | 0x0008 => if clearFrom v 1 then { s with pkg := { g with alarmcfg := v } } else s
  | 0x0700 => if clearFrom v 12 then { s with pkg := { g with mb := g.mb.ask v } } else s
  | 0x0300 => if clearFrom v 23 then { s with pkg := { g with ftframe := v } } else s
  | _ =>
    match arrayIdx o 0x80 8 4, groupSpot o, mbufSpot o with
    | some i, _, _ => { s with pkg := { g with mdig := g.mdig.put (64 * i) 64 v.toNat } }
    | _, some i, _ =>
      if !groupPlain i then s
      else match groupWrite g.hq i v with
        | none => s
        | some h => flushGroup { s with pkg := { g with hq := h } } 0 0
    | _, _, some i => { s with pkg := { g with mb := { g.mb with buf := g.mb.buf.setWord i v } } }
    | _, _, _ => s

/-- A write to a register of the fabric control region that only keeps it: a system window entry (R380, R412). -/
def plainFab (s : State) (o : Nat) (v : Word) : State :=
  match arrayIdx o 0x4000 8 2048 with
  | some i =>
    if v.fld 52 11 = 0 && v.fld 12 28 = 0 then { s with fab := { s.fab with win := Tbl.set 0 s.fab.win i v } } else s
  | none => s

/-- What a write of qcfg asks for: en set, en cleared, resume, or none of these (R426). -/
inductive CfgEdge where
  | enable
  | disable
  | resume
  | plain
deriving DecidableEq, Repr, Inhabited

def cfgEdge (x : Queue) (v : Word) : CfgEdge :=
  if x.qcfg.fld 16 1 = 0 && v.fld 16 1 = 1 then .enable
  else if x.qcfg.fld 16 1 = 1 && v.fld 16 1 = 0 then .disable
  else if v.fld 18 1 = 1 then .resume
  else .plain

/-- R426: the fields of qcfg are in their ranges. -/
def qcfgOk (v : Word) : Bool :=
  clearFrom v 19 && v.fld 5 3 == 0 && v.fld 13 3 == 0 && 6 ≤ v.fld 0 5 && v.fld 0 5 ≤ 16 && 4 ≤ v.fld 8 5 && v.fld 8 5 ≤ 12

/-- A write of qcfg of the kind a constructor stands for. -/
def qcfgWrite (view off : Nat) (v : Word) (s : State) (e : CfgEdge) (f : Nat → Nat → Queue → State) : Out :=
  atBlock view off s (fun p o => blockLevel p == 2 && ((queueSpot o).map (fun z => z.2)) == some 8) (fun p o =>
    match queueSpot o with
    | none => s
    | some (q, _) =>
      let x := cq s p q
      if cfgEdge x v ≠ e then s
      else guarded s p o (mayWrite s view p 2 none && qcfgOk v) (f p q x))

/-- R419. Write to a management register without behaviour of its own. -/
def execRegisterWrite (view off : Nat) (val : Word) (s : State) : Out :=
  match spotOf view off with
  | .block p o =>
    if ((queueSpot o).map (fun z => z.2)) = some 8 then
      qcfgWrite view off val s .plain (fun p q x => setCq s p q { x with qcfg := val.put 18 1 0 })
    else .next (if ready s then plainBlock s view p o val else s)
  | .owner o => .next (if ready s then plainOwner s o val else s)
  | .fab o => .next (if ready s then plainFab s o val else s)
  | .none => .next s

/-! ### Partitions and rights (R421, R424) -/

/-- The blocks beneath a block. -/
def beneath (s : State) (p : Nat) : List Nat :=
  if partC p = 0 then ((s.parts.map (fun e => e.1)).filter (fun q => partR q == partR p && partC q != 0)) else []

/-- The leases of a block: of the partition, or of every partition beneath it. -/
def blockLeases (s : State) (p : Nat) : List Nat :=
  (s.leases.filter (fun e => e.2.st != .none && (if partC p = 0 then partR e.2.part == partR p else e.2.part == p))).map (fun e => e.1)

/-- R421: a partition that may not be removed. -/
def partHeld (s : State) (p : Nat) : Bool :=
  !(blockLeases s p).isEmpty || (s.part p).queues.any (fun e => e.2.qcfg.fld 16 1 == 1)
    || (beneath s p).any (fun q => (s.part q).pcfg.fld 0 1 == 1)

/-- R421. Creates or removes a partition. A partition that is created has fresh queues (R426) and derives its key (R438). -/
def execPcfgWrite (view off : Nat) (val : Word) (s : State) : Out :=
  atBlock view off s (fun _ o => o == 0) (fun p o =>
    let old := (s.part p).pcfg.fld 0 1
    let parentOk := partC p == 0 || (s.part (partR p * 32)).pcfg.fld 0 1 == 1
    let ok := mayWrite s view p (blockLevel p - 1) (some 0) && clearFrom val 1
      && (if val.fld 0 1 = 1 then parentOk else !partHeld s p)
    guarded s p o ok (s.modPart p (fun x =>
      if val.fld 0 1 = 1 then (if old = 1 then x else { x with pcfg := 1, queues := [], key := true })
      else { x with pcfg := 0, queues := [], key := false })))

/-- A lease's halt of a context, which one that is halted already takes no part in, and its end. -/
def Ctx.dbgStopAll (c : Ctx) (level : Nat) : Ctx := if c.dbgHalt then c else { c.dbgStop level with dbgAll := true }
def Ctx.dbgGoAll (c : Ctx) : Ctx := if c.dbgAll then c.dbgGo else c

/-- R435: a lease's resume; the operation words that a debugger wrote are checked in the tiles that then run. -/
def leaseGo (s : State) (l : Nat) : State :=
  checkDbg (modLeaseCtxs (s.modLease l (fun x => { x with dbgHalt := false })) l Ctx.dbgGoAll) l

/-- R33, R378, R435: a lease's halt: every context of it is HALTED, at an instruction or repeat boundary. -/
def leaseHalt (s : State) (l view : Nat) : State :=
  modLeaseCtxs (s.modLease l (fun x => { x with dbgHalt := true, haltBy := view, haltAt := s.ordn + 1 })) l (fun c => c.dbgStopAll view)

/-- R424: what a level has halted in a saved lease is halted no more when the lease goes on; `whole` says that it halted the lease. -/
def Saved.dropDebug (sv : Saved) (level : Nat) (whole : Bool) : Saved :=
  let go (c : Ctx) : Ctx :=
    let c1 := if whole then c.dbgGoAll else c
    if c1.haltBy = level then c1.dbgGo else c1
  { sv with
    ctxs := sv.ctxs.map (fun x => { x with ctx := go x.ctx })
    tiles := sv.tiles.map (fun x => { x with tile := if x.tile.haltBy = level then { x.tile with halted := false } else x.tile }) }

/-- R424: a level loses the debug right over a lease: what it halted resumes, and it is detached. -/
def dropDebug (s : State) (l level : Nat) : State :=
  let whole := (s.lease l).dbgHalt && (s.lease l).haltBy == level
  let s0 := s.modLease l (fun x =>
    { x with dbg := x.dbg.filter (fun d => d != level), saved := x.saved.map (fun sv => sv.dropDebug level whole) })
  let s1 := if whole then leaseGo s0 l else s0
  let s2 := modLeaseCtxs s1 l (fun c => if c.haltBy = level then c.dbgGo else c)
  (leaseTiles s2 l).foldl (fun s k => if (s.tile k).halted && (s.tile k).haltBy = level then tileGo s k else s) s2

/-- R424. Delegates or revokes rights at one instant, in the block and in every block beneath it. -/
def execRightsWrite (view off : Nat) (val : Word) (s : State) : Out :=
  atBlock view off s (fun _ o => o == 8) (fun p o =>
    let mask : Word := if view = 0 then 0x3FFF else (s.part (viewBlock view p)).rights
    let ok := mayWrite s view p (blockLevel p - 1) none && clearFrom val 14 && val &&& ~~~mask == 0
    let below := beneath s p
    let s1 := s.modPart p (fun x => { x with rights := val })
    let s2 := below.foldl (fun s q => s.modPart q (fun x => { x with rights := x.rights &&& val })) s1
    let lost := (p :: below).filter (fun q => (s.part q).rights.fld 4 1 == 1 && (s2.part q).rights.fld 4 1 == 0)
    guarded s p o ok (lost.foldl (fun s q =>
      (blockLeases s q).foldl (fun s l => dropDebug s l (blockLevel q)) s) s2))

/-! ### Die tables (R404, R405) -/

/-- The entries of a die table. -/
def dieEntries (v : Word) : List (Option Nat) := (List.range 8).map (dieEnt v)

/-- R405: whether a die table may be written. -/
def dietabOk (s : State) (p : Nat) (v : Word) : Bool :=
  let es := dieEntries v
  let n := (es.filter Option.isSome).length
  let ds := es.filterMap id
  let s1 := s.modPart p (fun x => { x with dietab := v })
  let used := once ((blockLeases s p).flatMap (fun l => (leaseTiles s l).map tileDie))
  clearFrom v 32 && (es.take n).all Option.isSome && (once ds).length == ds.length
    && ds.all (fun d => partC p == 0 || (dieEnt (s.part (partR p * 32)).dietab d).isSome)
    && (List.range 8).all (fun i => match physDie s p i with
      | some d => !used.contains d || physDie s1 p i == some d
      | none => true)

/-- R405. Writes a partition's die table. -/
def execDietabWrite (view off : Nat) (val : Word) (s : State) : Out :=
  atBlock view off s (fun _ o => o == 0x18) (fun p o =>
    guarded s p o (mayWrite s view p (blockLevel p - 1) (some 1) && dietabOk s p val)
      (s.modPart p (fun x => { x with dietab := val })))

/-! ### Allotments (R379, R421) -/

/-- The parent's allotment word for word i of a block, in the parent's numbering; level 0 holds every quad. -/
def parentAllot (s : State) (p i : Nat) : Word :=
  match dieEnt (s.part p).dietab (i / 4) with
  | none => 0
  | some d => if partC p = 0 then ~~~0 else Tbl.get 0 (s.part (partR p * 32)).allot (4 * d + i % 4)

/-- Whether a partition beneath a level-1 block holds a quad of a mask of its word i. -/
def childHolds (s : State) (p i : Nat) (mask : Word) : Bool :=
  (beneath s p).any (fun q => (List.range 8).any (fun d =>
    dieEnt (s.part q).dietab d == some (i / 4) && Tbl.get (0 : Word) (s.part q).allot (4 * d + i % 4) &&& mask != 0))

/-- R379. Adds quads or resizes an allotment, relocating leases. A level-1 block gives up only quads that no partition beneath
it holds. -/
def execAllotWrite (view off : Nat) (val : Word) (s : State) : Out :=
  atBlock view off s (fun _ o => (arrayIdx o 0x180 8 32).isSome) (fun p o =>
    match arrayIdx o 0x180 8 32 with
    | none => s
    | some i =>
      let old := Tbl.get (0 : Word) (s.part p).allot i
      let gone := old &&& ~~~val
      let ok := mayWrite s view p (blockLevel p - 1) (some 0) && val &&& ~~~(parentAllot s p i) == 0
        && (blockLevel p == 2 || !childHolds s p i gone)
      guarded s p o ok
        (if blockLevel p = 1 then s.modPart p (fun x => { x with allot := Tbl.set 0 x.allot i val })
         else
          let was := Tbl.get (0 : Word) (s.part p).resize i
          let s1 := s.modPart p (fun x =>
            { x with allot := Tbl.set 0 x.allot i (old ||| val), resize := Tbl.set 0 x.resize i (gone) })
          let fresh := gone &&& ~~~was
          let told := (leasesOf s1 p).filter (fun l => (leaseTiles s1 l).any (fun k =>
            physDie s1 p (i / 4) == some (tileDie k) && quadOf k / 64 == i % 4 && fresh.fld (quadOf k % 64) 1 == 1))
          serveResize (told.foldl (fun s l => postAll s l (evWord 0x0D 0 0 0 l)) s1) p))

/-! ### Shadow pools (R340, R421) -/

/-- R340. Sizes a shadow pool segment. -/
def execPoolsegWrite (view off : Nat) (val : Word) (s : State) : Out :=
  atBlock view off s (fun p o => blockLevel p == 2 && (arrayIdx o 0x100 8 8).isSome) (fun p o =>
    match arrayIdx o 0x100 8 8 with
    | none => s
    | some d =>
      let x := s.part p
      let old := Tbl.get (0 : Word) x.poolseg d
      let ok := mayWrite s view p 1 (some 3) && (view == 0 || val.fld 24 24 == old.fld 24 24) && clearFrom val 48
        && val.fld 0 24 ≤ val.fld 24 24 && Tbl.get 0 x.inUse d ≤ val.fld 0 24
      guarded s p o ok (tagPool (s.setPart p { x with poolseg := Tbl.set 0 x.poolseg d val }) p d))

/-! ### Invalidation (R318, R421) -/

/-- The VA ranges that an invalidation of the customer's stage covers. -/
def ivCovers (x : Part) (e : TlbEnt) : Bool :=
  let a := x.ivfrom.fld 0 48 * 65536 + x.ivfrom.fld 48 16 * 2 ^ 64
  let n := (x.ivcmd.fld 8 24 + 1) * 65536
  x.ivcmd.fld 0 2 != 0 || x.ivcmd.fld 2 1 == 1 || (a < e.va + e.size && e.va < a + n)

/-- Whether a lease is one of a partition, or of a reseller's. -/
def leaseUnder (s : State) (p l : Nat) : Bool :=
  if partC p = 0 then partR (s.lease l).part == partR p else (s.lease l).part == p

/-- A change of every engine of a partition's leases that has an extent which satisfies f. -/
def modEngs (s : State) (p : Nat) (f : TlbEnt → Bool) (g : Nat → Engine → Engine) : State :=
  { s with leases := s.leases.map (fun e =>
      if leaseUnder s p e.1 then
        (e.1, { e.2 with engines := e.2.engines.map (fun x => if x.2.exts.any f then (x.1, g e.1 x.2) else x) })
      else e) }

/-- R35: an invalidation pauses the engines that it affects. -/
def pauseEngs (s : State) (p : Nat) (f : TlbEnt → Bool) : State :=
  modEngs s p f (fun _ e => if e.st = .running then { e with st := .paused } else e)

/-- R35: the extent table is rewritten, and the engine goes on. An extent that is mapped no more is left to the next element there. -/
def repatch (s : State) (f : TlbEnt → Bool) (l : Nat) (e : Engine) : Engine :=
  { e with
    exts := e.exts.filterMap (fun x => if f x then (translate s (s.lease l).part l x.va).toOption else some x)
    st := if e.st = .paused then .running else e.st }

/-- R142, R35, R318: stokers drop the cached translations of a partition's leases that satisfy f, and engines are repatched. -/
def dropTlb (s : State) (p : Nat) (f : TlbEnt → Bool) : State :=
  modEngs { s with
    stokers := s.stokers.map (fun e => (e.1, { e.2 with tlb := e.2.tlb.filter (fun x => !(leaseUnder s p x.lease && f x)) })) }
    p f (repatch s f)

/-- A wait at a barrier given up: the instruction is examined again. -/
def Ctx.rewait (c : Ctx) : Ctx :=
  match c.wait with
  | some (.bar _ _ _ _ none) =>
    { c with wait := none, st := if c.st = .waiting then .ready else c.st, thaw := if c.thaw = .waiting then .ready else c.thaw
             dbgPrev := if c.dbgPrev = .waiting then .ready else c.dbgPrev }
  | _ => c

/-- R421. Starts a translation invalidation: the level that keeps the stage, or one above it, may write it while no other is in
progress. -/
def execIvcmd (view off : Nat) (val : Word) (s : State) : Out :=
  atBlock view off s (fun _ o => o == 0x48) (fun p o =>
    let ok := val.fld 0 2 ≠ 3 && mayWrite s view p (min (2 - val.fld 0 2) (blockLevel p)) (some 2) && (s.part p).ivcmd.fld 63 1 == 0
      && val.fld 3 5 == 0 && val.fld 32 32 == 0
    let s1 := s.modPart p (fun x => { x with ivcmd := val.put 63 1 1, ivfrom := x.ivaddr })
    guarded s p o ok (pauseEngs s1 p (ivCovers (s1.part p))))

/-- R318. An invalidation completes and busy clears, once no access is on its way that translated before. A BAR.WAIT that waits
translates anew. -/
def execIvcmdDone (part : Nat) (s : State) : Out :=
  let x := s.part part
  let onWay := s.reqs.any (fun r => (blockLeases s part).contains (s.ctx r.ctx).lease)
  .next (if x.ivcmd.fld 63 1 = 0 || onWay then s
    else
      let s1 := dropTlb s part (ivCovers x)
      let s2 : State := { s1 with ctxs := s1.ctxs.map (fun e => if leaseUnder s part e.2.lease then (e.1, e.2.rewait) else e) }
      s2.modPart part (fun x => { x with ivcmd := 0, ivfrom := 0 }))

/-! ### Migration of a frame (R343) -/

/-- The lines of a frame that have versions. -/
def frameLines (s : State) (f : Nat) : Tbl LineRec := s.lines.filter (fun e => e.1 / 512 == f)

/-- The shadows of a frame, each as its partition. -/
def frameShadows (s : State) (f : Nat) : List Shadow := (frameLines s f).flatMap (fun e => e.2.older)

/-- Takes a pool line on a die for each shadow of a list, or fails. -/
def reservePool (s : State) (d : Nat) : List Shadow → Option State
  | [] => some s
  | x :: r => match takePool s x.part d with
    | none => none
    | some s1 => reservePool s1 d r

/-- R343, steps 1 and 2. Migrates a 64 KiB frame with its versions to another frame: the pool lines are reserved and accesses
held. -/
def execMigrateFrame (part src dst : Nat) (s : State) : Out :=
  if 2 ^ 23 ≤ src || 2 ^ 23 ≤ dst then .fault .noSuchFrame
  else
    let busy := s.migrs.any (fun m => m.src == src || m.dst == src || m.src == dst || m.dst == dst)
    .next (if !ready s || busy || src = dst then s
      else match reservePool s (dst * 65536 / 2 ^ 36) (frameShadows s src) with
        | none => s
        | some s1 => { s1 with migrs := s1.migrs ++ [{ part, src, dst, pool := (frameShadows s src).map (fun x => x.part) }] })

/-- Moves the keys of a frame's lines. -/
def moveLine (src dst ln : Nat) : Nat := if ln / 512 = src then ln - src * 512 + dst * 512 else ln

/-- A table of lines with a frame's entries moved; what stood at the destination is gone. -/
def moveTbl {α : Type} [DecidableEq α] (d : α) (src dst : Nat) (t : Tbl α) : Tbl α :=
  (t.filter (fun e => e.1 / 512 == src)).foldl (fun m e => Tbl.set d m (moveLine src dst e.1) e.2)
    (t.filter (fun e => e.1 / 512 != src && e.1 / 512 != dst))

/-- Points the owner-stage leaves of 64 KiB that lead to a frame at another: the table at a PA, within n levels. -/
def repoint (src dst table : Nat) (m : Memory) : Nat → Memory
  | 0 => m
  | n + 1 =>
    (List.range 256).foldl (fun m i =>
      let e := m.readN (table + 16 * i) 16
      if bits e 0 1 = 0 then m
      else if bits e 1 1 = 1 then
        (if n = 0 && bits e 64 48 = src then m.writeN (table + 16 * i + 8) 8 (e / 2 ^ 64 - src + dst) else m)
      else repoint src dst (bits e 64 52 * 4096) m n) m

/-- The owner-stage leaves larger than 64 KiB whose page holds a frame: the table at a PA, within n levels below the top. -/
def bigLeaves (f table : Nat) (m : Memory) : Nat → List Nat
  | 0 => []
  | n + 1 =>
    (List.range 256).flatMap (fun i =>
      let e := m.readN (table + 16 * i) 16
      if bits e 0 1 = 0 then []
      else if bits e 1 1 = 1 then
        (if n ≠ 0 && bits e 64 48 ≤ f && f < bits e 64 48 + leafSize (8 - n) / 65536 then [e] else [])
      else bigLeaves f (bits e 64 52 * 4096) m n)

/-- Where pages larger than 64 KiB hold a moved frame: the frames that have moved out of such pages, with a frame now at another. One
whose leaf has been written anew is forgotten. -/
def forward (src dst : Nat) (leaves : Nat → List Nat) (fwd : List Fwd) : List Fwd :=
  let old := fwd.filter (fun e => (leaves e.src).contains e.leaf)
  let on := old.map (fun e => if e.dst = src then { e with dst } else e)
  let new := (leaves src).filter (fun x => !old.any (fun e => e.leaf == x && e.src == src))
  (on ++ new.map (fun x => ({ src, dst, leaf := x } : Fwd))).filter (fun e => e.src != e.dst)

/-- R343, steps 3 to 5. A page migration finishes copying the frame's lines and versions, switches translation and releases
held accesses to the new home. -/
def execFrameMigrationComplete (idx : Nat) (s : State) : Out :=
  .next (match s.migrs[idx]? with
    | none => s
    | some g =>
      let d := g.dst * 65536 / 2 ^ 36
      let pa (a : Nat) : Nat := if a / 65536 = g.src then a - g.src * 65536 + g.dst * 65536 else a
      let ln := moveLine g.src g.dst
      let old := frameShadows s g.src
      let spare := old.foldl (fun ps x => ps.erase x.part) g.pool
      let s1 := freeShadows s (old ++ spare.map (fun q => { part := q, die := d }))
      let m0 := (s1.mem.filter (fun e => e.1 / 65536 == g.src)).foldl (fun (m : Memory) e => Memory.write m (pa e.1) e.2)
        (s1.mem.filter (fun e => e.1 / 65536 != g.dst))
      let lines0 := s1.lines.map (fun e =>
        if e.1 / 512 = g.src then (e.1, { e.2 with older := e.2.older.map (fun x => { x with die := d }) }) else e)
      let root := (s1.part g.part).oroot.toNat
      let s2 : State := { s1 with
        mem := if root = 0 then m0 else repoint g.src g.dst root m0 6
        tags := Tbl.set 0xFFFF s1.tags g.dst (Tbl.get 0xFFFF s1.tags g.src)
        lines := moveTbl {} g.src g.dst lines0
        relT := moveTbl 0 g.src g.dst s1.relT
        dirty := moveTbl {} g.src g.dst s1.dirty
        parts := Tbl.set {} s1.parts g.part { s1.part g.part with
          fwd := if root = 0 then [] else forward g.src g.dst (fun f => bigLeaves f root s1.mem 6) (s1.part g.part).fwd }
        dues := s1.dues.map (fun e => match e with
          | .served (.bar a) n => .served (.bar (pa a)) n
          | e => e)
        reqs := s1.reqs.map (fun r => { r with pa := pa r.pa, mig := r.mig || (r.res.isNone && r.pa / 65536 == g.src) })
        ctxs := s1.ctxs.map (fun e => match e.2.wait with
          | some (.bar acq va a par met) => (e.1, { e.2 with wait := some (.bar acq va (pa a) par met) })
          | _ => e)
        copies := s1.copies.map (fun c => { c with lines := c.lines.map ln })
        leases := s1.leases.map (fun e =>
          (e.1, { e.2 with engines := e.2.engines.map (fun x => (x.1, { x.2 with wl := x.2.wl.map ln })) }))
        migrs := s1.migrs.eraseIdx idx }
      let hit (e : TlbEnt) : Bool := e.pa / 65536 ≤ g.src && g.src * 65536 < e.pa + e.size
      (once (s2.leases.map (fun e => e.2.part))).foldl (fun s p => dropTlb s p hit) s2)

/-! ### Ends of leases (R348) -/

/-- R348. The manager ends a lease with a code. -/
def execLend (view off : Nat) (val : Word) (s : State) : Out :=
  atBlock view off s (fun p o => blockLevel p == 2 && o == 0x6C0) (fun p o =>
    let l := val.fld 0 12
    let ok := mayWrite s view p 2 (some 0) && clearFrom val 20 && (s.lease l).st != .none && (s.lease l).part == p
    guarded s p o ok (endLease s l (val.fld 12 8)))

/-! ### Command queues (R425 to R429) -/

/-- R425: the processor that serves the fewest enabled queues, the lowest number among equals. -/
def pickProc (s : State) : Nat :=
  let n (i : Nat) : Nat := (procQueues s i).length
  (List.range 16).foldl (fun b i => if n i < n b then i else b) 0

/-- R426. Enables a command queue and assigns it a processor. A ring outside the host range leaves it disabled with status
0x44. -/
def execQueueEnable (view off : Nat) (val : Word) (s : State) : Out :=
  qcfgWrite view off val s .enable (fun p q x =>
    if x.st = 3 then s
    else if !inHost s p x.qbase.toNat (8 * 2 ^ val.fld 0 5) || !inHost s p x.cbase.toNat (16 * 2 ^ val.fld 8 5) then
      setCq s p q { x with qcfg := (val.put 16 1 0).put 18 1 0, qstat := 0x4400 }
    else
      setCq s p q { x with qcfg := val.put 18 1 0, qhead := 0, qstat := 1, proc := some (pickProc s), fetched := [] })

/-- R426. Disables a command queue, cancelling waits. -/
def execQueueDisable (view off : Nat) (val : Word) (s : State) : Out :=
  qcfgWrite view off val s .disable (fun p q x =>
    let y := { x with qcfg := val.put 18 1 0 }
    let waiting := x.wait.isSome || (x.launch && s.waitL.any (fun w => w.part == p && w.queue == q))
    if x.top.isNone then
      setCq s p q { y with qstat := y.qstat.put 0 2 0, stack := [], fetched := [], proc := none }
    else
      let s1 := setCq s p q { y with qstat := y.qstat.put 0 2 3 }
      if waiting then packetEnd s1 p q 0x45 0 else s1)

/-- R429. Restarts a stopped queue at the next packet. -/
def execQueueResume (view off : Nat) (val : Word) (s : State) : Out :=
  qcfgWrite view off val s .resume (fun p q x =>
    let y := { x with qcfg := val.put 18 1 0 }
    setCq s p q (if x.st = 2 && val.fld 16 1 = 1 then { y with qstat := 1 } else y))

/-- A write to a register of a queue at an offset in its group. -/
def queueWrite (view off : Nat) (s : State) (i : Nat) (ok : Queue → Bool) (f : Nat → Nat → Queue → State) : Out :=
  atBlock view off s (fun p o => blockLevel p == 2 && ((queueSpot o).map (fun z => z.2)) == some i) (fun p o =>
    match queueSpot o with
    | none => s
    | some (q, _) => guarded s p o (mayWrite s view p 2 none && ok (cq s p q)) (f p q (cq s p q)))

/-- R427. Submits ring words up to the new tail. -/
def execQtailDoorbell (view off : Nat) (val : Word) (s : State) : Out :=
  queueWrite view off s 0x10 (fun x => val.toNat < x.ringSize) (fun p q x => setCq s p q { x with qtail := val })

/-- R428. Software frees completion entries, releasing a held one. -/
def execCringHeadWrite (view off : Nat) (val : Word) (s : State) : Out :=
  queueWrite view off s 0x28 (fun x => clearFrom val 32 && val.fld 16 16 < x.compSize) (fun p q x =>
    flushCompletions (setCq s p q { x with cring := x.cring.put 16 16 (val.fld 16 16) }) p q (x.cheld.length + 1))

/-! ### Handler queues (R433) -/

/-- R433. Software frees handler-queue words, releasing a held record. -/
def execHqheadWrite (view off : Nat) (val : Word) (s : State) : Out :=
  .next (match spotOf view off with
    | .block p 0x618 =>
      if !ready s then s
      else guarded s p 0x618 (mayWrite s view p (blockLevel p) none && clearFrom val 20)
        (flushGroup (s.modPart p (fun x => { x with hq := { x.hq with head := val } })) (blockLevel p) p)
    | .owner 0x618 =>
      if !ready s || !clearFrom val 20 then s
      else flushGroup { s with pkg := { s.pkg with hq := { s.pkg.hq with head := val } } } 0 0
    | _ => s)

/-! ### Frame tags (R436) -/

/-- R436. Starts retagging, optionally erasing, a range of frames. -/
def execFtcmd (view off : Nat) (val : Word) (s : State) : Out :=
  atOwner view off s (fun o => o == 0x308) (fun _ =>
    if s.pkg.ftbusy || val.fld 41 23 ≠ 0 || 0x7FFFFF < s.pkg.ftframe.fld 0 23 + val.fld 16 24 then s
    else { s with pkg := { s.pkg with ftcmd := val, ftbusy := true, ftfirst := s.pkg.ftframe.fld 0 23 } })

/-- R436. Retagging applies after in-flight accesses and busy clears. An erased frame holds zeros and no versions. -/
def execFtcmdDone (s : State) : Out :=
  let g := s.pkg
  let f := g.ftfirst
  let n := g.ftcmd.fld 16 24 + 1
  let inR (x : Nat) : Bool := f ≤ x && x < f + n
  .next (if !g.ftbusy || s.reqs.any (fun r => inR (r.pa / 65536)) then s
    else
      let s1 : State := { s with
        tags := tagFrames s.tags f (g.ftcmd.extractLsb' 0 16) n
        pkg := { g with ftbusy := false, ftfirst := 0 } }
      if g.ftcmd.fld 40 1 = 0 then s1
      else
        let gone := s1.lines.filter (fun e => inR (e.1 / 512))
        let s2 := freeShadows s1 (gone.flatMap (fun e => e.2.older))
        { s2 with
          mem := s2.mem.filter (fun e => !inR (e.1 / 65536))
          lines := s2.lines.filter (fun e => !inR (e.1 / 512))
          dirty := s2.dirty.filter (fun e => !inR (e.1 / 512)) })

end Sys2Proof.Machine
end

