-- ==== Sys2Proof/Machine/Handler.lean ====
section
/-! DEFINITION. Fault replies (11 R361 to R366), debug requests (11 R378, 13 R435), and alarms, measurements, mailboxes, quarantine, boot and the package's own alarms (13 R437 to R442). -/

namespace Sys2Proof.Machine

/-! ### Fault replies (R361, R362) -/

def replyLease (v : Word) : Nat := v.fld 0 12
def replyCode (v : Word) : Nat := v.fld 12 8
def replyAct (v : Word) : Nat := v.fld 20 2
def replyUnit (v : Word) : Nat := v.fld 24 23

/-- R361: whether a reply is well formed. -/
def replyOk (v : Word) : Bool := v.fld 22 2 == 0 && clearFrom v 47 && replyAct v != 3

/-- Whether a reply names a fault. -/
def OFault.named (f : OFault) (level : Nat) (v : Word) : Bool :=
  f.code == replyCode v && f.level == level && f.unit == replyUnit v && !f.replied

/-- Whether the handler of a level and block answers for a partition. -/
def answersFor (level p q : Nat) : Bool :=
  if level = 0 then true else if level = 1 then partR q == partR p else q == p

/-- The outstanding fault of a lease that a reply names. -/
def replyFault (s : State) (level p : Nat) (v : Word) : Option (Nat × OFault) :=
  let l := replyLease v
  let le := s.lease l
  if le.st = .none || !answersFor level p le.part then none
  else match le.faults.findIdx? (fun f => f.named level v) with
    | none => none
    | some i => le.faults[i]?.map (fun f => (i, f))

/-- The outstanding fault of a packet that a reply names: its partition and queue. -/
def replyPacket (s : State) (level p : Nat) (v : Word) : Option (Nat × Nat) :=
  if replyLease v ≠ 0 then none
  else s.parts.findSome? (fun e =>
    if !answersFor level p e.1 then none
    else (e.2.faults.find? (fun f => f.named level v)).bind (fun f => match f.what with
      | .packet q => some (e.1, q)
      | _ => none))

/-- R361, R433: a reply that matches nothing is counted. -/
def unmatched (s : State) (level p : Nat) : State :=
  let h := hgroup s level p
  setHgroup s level p { h with replyst := h.replyst.put 0 32 (min (h.replyst.fld 0 32 + 1) (2 ^ 32 - 1)) }

/-- The list of faults without entry i. -/
def dropFault (s : State) (l i : Nat) : State := s.modLease l (fun x => { x with faults := x.faults.eraseIdx i })

/-- R362, R453: a region that faults have frozen goes on once every outstanding fault of the lease has a reply of act 0. -/
def goOnIf (s : State) (l : Nat) : State :=
  if (s.lease l).faults.any (fun g => !g.replied) || !(s.lease l).late.isEmpty then s
  else
    let s1 := s.modLease l (fun x => { x with faults := x.faults.filter (fun g => g.what != .region) })
    if (s.lease l).st = .frozen && (s.lease l).work.isNone then thawLease s1 l else s1

/-- R363, R364, R366: what a reply of act 0 does to the unit that it names. -/
def resumeUnit (s : State) (l i : Nat) (f : OFault) : State :=
  match f.what with
  | .region => s.modLease l (fun x => { x with faults := x.faults.set i { f with replied := true } })
  | .engine p =>
    let s1 := dropFault s l i
    setEng s1 l p (let e := eng s1 l p; if e.st = .faulted then { e.resumed with st := .running, exts := [] } else e)
  | .node k lane step =>
    (dropFault s l i).modLease l (fun x => { x with
      engines := x.engines.map (fun e => if e.1 = lane then (e.1, { e.2 with exts := [] }) else e)
      nodes := x.nodes.map (fun q =>
        if q.tile = k && q.lane = lane && q.step = step && q.st == .held f.code then { q with st := .waiting } else q) })
  | .copy k t =>
    let s1 := dropFault s l i
    let go (c : Copy) : Copy := if c.ctx = k && c.ticket = t then { c with pause := none } else c
    let s2 : State := { s1 with copies := s1.copies.map go }
    s2.modLease l (fun x => { x with saved := x.saved.map (fun sv => { sv with copies := sv.copies.map go }) })
  | .packet _ => s

/-- R362 to R364, R366, act 0: the unit continues, and the region with the last of its faults. -/
def resumeFault (s : State) (l i : Nat) (f : OFault) : State := goOnIf (resumeUnit s l i f) l

/-- R362, act 1: the lease is saved by freeze and waits as a pre-empted one; its faults stay outstanding. A move or a resume ends
with 0x15, and a drain goes on as a freeze. -/
def saveForReply (s : State) (l : Nat) : State :=
  let s1 := match (s.lease l).st with
    | .running => if (s.lease l).work.isSome then s else beginFreeze s l 0
    | .frozen => if (s.lease l).work.isSome then s else beginFreeze s l 0
    | .moving => beginFreeze (freezeRegion s l) l 0
    | .copying => beginFreeze ((stopMove s l).modLease l (fun x => { x with st := .frozen })) l 0
    | .draining => freezeRegion s l
    | .resuming =>
      clearWork ((postSaved s l (evWord 0x09 0x15 0 0 l)).modLease l (fun x => { x with st := .saved })) l
    | _ => s
  s1.modLease l (fun x => { x with waiting := true })

/-- R440: whether a reply of the owner's names the fault of a class 1 alarm: code and unit 0, and the alarm's lease. -/
def namesAlarm (s : State) (level : Nat) (v : Word) : Bool :=
  level == 0 && replyCode v == 0 && replyUnit v == 0 && s.pkg.alarms.contains (replyLease v)

/-- R362, R440: a reply to an alarm's fault: act 0 ends the fault, act 1 saves the lease that the alarm names, and act 2 ends it. -/
def replyAlarm (s : State) (level p : Nat) (v : Word) : State :=
  let l := replyLease v
  let none := (s.lease l).st == .none
  if replyAct v = 0 then
    if quarantined s (s.lease l).part && !none then unmatched s level p
    else { s with pkg := { s.pkg with alarms := s.pkg.alarms.erase l } }
  else if none then unmatched s level p
  else if replyAct v = 1 then saveForReply s l
  else endLease s l (replyCode v)

/-- A reply that has reached the handler of a level. -/
def reply (s : State) (level p : Nat) (v : Word) : State :=
  if !replyOk v then unmatched s level p
  else match replyPacket s level p v, replyFault s level p v with
    | some (q, k), _ =>
      if replyAct v ≠ 0 || quarantined s q then unmatched s level p
      else modCq (s.modPart q (fun x => { x with faults := x.faults.filter (fun f => !f.ofQueue k) })) q k (fun x => { x with fheld := none })
    | none, none => if namesAlarm s level v then replyAlarm s level p v else unmatched s level p
    | none, some (i, f) =>
      let l := replyLease v
      if replyAct v = 0 then (if quarantined s (s.lease l).part then unmatched s level p else resumeFault s l i f)
      else if replyAct v = 1 then saveForReply s l
      else endLease s l (replyCode v)

/-- R361, R433. A fault reply word written to the reply register of a handler group, with the act that a constructor stands for;
one that no act fits is reported as unmatched. -/
def replyWrite (view off : Nat) (val : Word) (act : Nat) (s : State) : Out :=
  .next (if !ready s || (replyAct val ≠ act && replyAct val ≠ 3) then s
    else match spotOf view off with
      | .owner 0x620 => reply s 0 0 val
      | .block p 0x620 => guarded s p 0x620 (mayWrite s view p (blockLevel p) none) (reply s (blockLevel p) p val)
      | _ => s)

/-- R362. Fault reply act 0 resumes the faulting unit. -/
def execFaultReplyResume (view off : Nat) (val : Word) (s : State) : Out := replyWrite view off val 0 s

/-- R362. Fault reply act 1 saves the lease by freeze. -/
def execFaultReplySave (view off : Nat) (val : Word) (s : State) : Out := replyWrite view off val 1 s

/-- R362. Fault reply act 2 ends the lease. -/
def execFaultReplyEnd (view off : Nat) (val : Word) (s : State) : Out := replyWrite view off val 2 s

/-! ### Debug requests (R378, R435) -/

/-- A unit that a debugger names. -/
inductive DbgUnit where
  | tile (k : Nat)
  | ctx (k : Nat)
deriving DecidableEq, Repr, Inhabited

/-- R71, R435: the unit of a lease that bits [22:0] of a record's word 1 name, with dies as the level numbers them. -/
def dbgUnit (s : State) (view p l u : Nat) : Option DbgUnit :=
  let d := bits u 0 3
  let phys := if view = 0 then some d else if view = 1 then physDie s (partR p * 32) d else physDie s p d
  match phys with
  | none => none
  | some die =>
    let k := tileKey die (bits u 3 5) (bits u 8 5)
    if bits u 22 1 = 1 then none
    else if bits u 21 1 = 1 then ((leaseCtxs s l).find? (fun c => blockTile (c / 8) == k)).map DbgUnit.ctx
    else if (s.tile k).lease = some l then some (.tile k) else none

def dbgOp (v : Word) : Nat := v.fld 0 3
def dbgLease (v : Word) : Nat := v.fld 12 12
def dbgIndex (v : Word) : Nat := v.fld 48 16

/-- R435: a level attaches with its first accepted write for a lease. -/
def attach (s : State) (l view : Nat) : State :=
  s.modLease l (fun x => if x.dbg.contains view then x else { x with dbg := x.dbg ++ [view] })

/-- R435. A write of dbgctl with the op that a constructor stands for: refused, or accepted with what it does to the lease. -/
def dbgWrite (view off : Nat) (val : Word) (op : Nat) (s : State) (f : Nat → Nat → Option State) : Out :=
  atBlock view off s (fun p o => blockLevel p == 2 && o == 0x680) (fun p o =>
    let l := dbgLease val
    if dbgOp val ≠ op && dbgOp val < 6 then s
    else
      let ok := mayWrite s view p 2 (some 4) && dbgOp val == op && val.fld 3 9 == 0 && val.fld 47 1 == 0
        && (s.lease l).st != .none && (s.lease l).part == p
      match (if ok then f p l else none) with
      | none => refuse s p o
      | some s1 => attach s1 l view)

/-- The unit that a dbgctl write names. -/
def dbgTarget (s : State) (view p : Nat) (val : Word) : Option DbgUnit := dbgUnit s view p (dbgLease val) (val.fld 24 23)

/-- R435. Halts one tile or context. -/
def execDbgHaltUnit (view off : Nat) (val : Word) (s : State) : Out :=
  dbgWrite view off val 0 s (fun p l => (dbgTarget s view p val).map (fun u =>
    let s1 := s.modLease l (fun x => { x with haltAt := s.ordn + 1 })
    match u with
    | .tile k => writeFRec (s1.modTile k (fun t => { t with halted := true, haltBy := view })) { tileRec s k 0x16 with level := view }
    | .ctx k => writeFRec (s1.modCtx k (fun c => c.dbgStop view)) (ctxRec s k 0x16 view 0)))

/-- R435. Resumes one halted unit. -/
def execDbgResumeUnit (view off : Nat) (val : Word) (s : State) : Out :=
  dbgWrite view off val 1 s (fun p _ =>
    if quarantined s p then none
    else (dbgTarget s view p val).map (fun u => match u with
      | .tile k => if (s.tile k).halted then tileGo s k else s
      | .ctx k => s.modCtx k Ctx.dbgGo))

/-- A lease's record that names no unit: its fields are zero as the level numbers dies (R71). -/
def levelRec (s : State) (l code level : Nat) : FRec :=
  let p := (s.lease l).part
  let die := if level = 0 then some 0 else if level = 1 then physDie s (partR p * 32) 0 else physDie s p 0
  { code, level, lease := l, die := die.getD 0 }

/-- R435. Halts a whole lease. -/
def execDbgHaltLease (view off : Nat) (val : Word) (s : State) : Out :=
  dbgWrite view off val 2 s (fun _ l =>
    some (writeFRec (leaseHalt s l view) (levelRec s l 0x16 view)))

/-- R435. Resumes a halted lease. -/
def execDbgResumeLease (view off : Nat) (val : Word) (s : State) : Out :=
  dbgWrite view off val 3 s (fun p l =>
    if quarantined s p then none else some (leaseGo s l))

/-- R25: the CSRs in the order of its table. -/
def csrOrder : List Csr :=
  [.status, .cause, .epc, .tvec, .tval, .tvalh, .fcr, .repstate, .lease, .ctx, .tstamp, .tsfloor, .evhead, .evtail, .scratch]

/-- R435: a context's state word. -/
def ctxStateWord (c : Ctx) (now i : Nat) : Option Word :=
  if i < 32 then some (c.rg (BitVec.ofNat 5 i))
  else if i < 64 then some (c.rf (BitVec.ofNat 5 (i - 32)))
  else if i < 80 then
    let a := c.ra (BitVec.ofNat 3 ((i - 64) / 2))
    some (if i % 2 = 0 then a.setWidth 64 else (a >>> 64).setWidth 64)
  else if i = 80 then some c.pc
  else (csrOrder[i - 81]?).map (fun x => c.csr now x)

/-- R27, R435: what a debugger may write to status: ie, pie and step. -/
def dbgStatusOk (old new : Word) : Bool := new.fld 2 1 == old.fld 2 1 && new.toNat / 16 == old.toNat / 16

/-- R435: a context with a state word written, if it may be. -/
def ctxSetWord (c : Ctx) (i : Nat) (v : Word) : Option Ctx :=
  if i < 32 then some (c.wg (BitVec.ofNat 5 i) v)
  else if i < 64 then some (c.wf (BitVec.ofNat 5 (i - 32)) v)
  else if i < 80 then
    let r : BitVec 3 := BitVec.ofNat 3 ((i - 64) / 2)
    let a := c.ra r
    some (c.wa r (if i % 2 = 0 then (a >>> 64).setWidth 16 ++ v else v.setWidth 16 ++ a.setWidth 64))
  else if i = 80 then (if v.fld 0 2 = 0 then some { c with pc := v, fbuf := [], repW := none } else none)
  else match csrOrder[i - 81]? with
    | none => none
    | some .status => if dbgStatusOk c.status v then some { c with status := v } else none
    | some x => if x.ro || (csrBad x (c.csr 0 x) v).isSome then none else some (c.setCsr x v)

/-- Two 32-bit entries of a table as a word. -/
def pairWord (t : Tbl Code) (k : Nat) : Word :=
  BitVec.ofNat 64 ((Tbl.get (0 : Code) t k).toNat + (Tbl.get (0 : Code) t (k + 1)).toNat * 2 ^ 32)
def setPair (t : Tbl Code) (k : Nat) (v : Word) : Tbl Code :=
  Tbl.set 0 (Tbl.set 0 t k (v.setWidth 32)) (k + 1) ((v >>> 32).setWidth 32)

/-- R435: a tile's state word. -/
def tileStateWord (t : Tile) (i : Nat) : Option Word :=
  if i < 128 then some (pairWord t.ops (2 * i))
  else if i < 160 then some (pairWord t.kreg (2 * (i - 128)))
  else if i < 168 then some (Tbl.get 0 t.actors (i - 160))
  else if i < 176 then
    let g (j : Nat) : Nat := (Tbl.get (0 : BitVec 16) t.sw (4 * (i - 168) + j)).toNat
    some (BitVec.ofNat 64 (g 0 + g 1 * 2 ^ 16 + g 2 * 2 ^ 32 + g 3 * 2 ^ 48))
  else if i < 8368 then some (t.bank.word (8 * (i - 176)))
  else none

/-- R435: a tile with a state word written; the keys of operation words so written are kept for the check at its resume. -/
def tileSetWord (t : Tile) (i : Nat) (v : Word) : Option Tile :=
  if i < 128 then
    some { t with ops := setPair t.ops (2 * i) v, dbgOps := t.dbgOps ++ [2 * i, 2 * i + 1].filter (fun k => !t.dbgOps.contains k) }
  else if i < 160 then some { t with kreg := setPair t.kreg (2 * (i - 128)) v }
  else if i < 168 then some { t with actors := Tbl.set 0 t.actors (i - 160) v }
  else if i < 176 then
    let k := 4 * (i - 168)
    let put (m : Tbl (BitVec 16)) (j : Nat) : Tbl (BitVec 16) := Tbl.set 0 m (k + j) (BitVec.ofNat 16 (v.fld (16 * j) 16))
    some { t with sw := put (put (put (put t.sw 0) 1) 2) 3 }
  else if i < 8368 then some { t with bank := t.bank.setWord (8 * (i - 176)) v }
  else none

/-- Whether a tile is between two steps. -/
def Tile.betweenSteps (t : Tile) : Bool :=
  !t.midStep && (match t.firing with
    | none => true
    | some f => f.wait.isNone)

/-- R435: whether a unit of a lease is halted. A tile stops at the end of its current step (R52, R378), which one that waits for a phase
or for room in mid-step has not reached. -/
def dbgHalted (s : State) (l : Nat) (u : DbgUnit) : Bool :=
  match u with
  | .tile k => ((s.tile k).halted || (s.lease l).dbgHalt) && (s.tile k).betweenSteps
  | .ctx k => (s.ctx k).busy.isNone && ((s.ctx k).dbgHalt || (s.ctx k).st == .halted || (s.lease l).dbgHalt)

/-- R435. Reads a halted unit's state word into dbgdata. -/
def execDbgReadWord (view off : Nat) (val : Word) (s : State) : Out :=
  dbgWrite view off val 4 s (fun p l => (dbgTarget s view p val).bind (fun u =>
    if !dbgHalted s l u then none
    else (match u with
      | .tile k => tileStateWord (s.tile k) (dbgIndex val)
      | .ctx k => ctxStateWord (s.ctx k) (timeNs s) (dbgIndex val)).map (fun w => s.modPart p (fun x => { x with dbgdata := w }))))

/-- R435. Writes dbgdata into a halted unit's state word. -/
def execDbgWriteWord (view off : Nat) (val : Word) (s : State) : Out :=
  dbgWrite view off val 5 s (fun p l => (dbgTarget s view p val).bind (fun u =>
    let v := (s.part p).dbgdata
    if !dbgHalted s l u then none
    else match u with
      | .tile k => (tileSetWord (s.tile k) (dbgIndex val) v).map (fun t => s.setTile k t)
      | .ctx k => (ctxSetWord (s.ctx k) (dbgIndex val) v).map (fun c => s.setCtx k c)))

/-! ### Alarm classes, measurements, quarantine (R437, R439, R440) -/

/-- R439. Raises an alarm source's class; sources 5 to 7 are fixed. -/
def execAsrcWrite (view off : Nat) (val : Word) (s : State) : Out :=
  atOwner view off s (fun o => (arrayIdx o 0x40 8 8).isSome) (fun o =>
    match arrayIdx o 0x40 8 8 with
    | none => s
    | some i =>
      if 5 ≤ i || val.fld 0 2 < alarmClass s i then s
      else { s with pkg := { s.pkg with asrc := Tbl.set 0 s.pkg.asrc i ((Tbl.get (0 : Word) s.pkg.asrc i).put 0 2 (val.fld 0 2)) } })

/-- R437. Extends a measurement register, 8 to 15, with mdig. -/
def execMext (view off : Nat) (val : Word) (s : State) : Out :=
  atOwner view off s (fun o => o == 0xA0) (fun _ =>
    if val.toNat < 8 || 15 < val.toNat then s
    else
      let i := val.toNat
      { s with pkg := { s.pkg with meas := Tbl.set 0 s.pkg.meas i (extendMeas (Tbl.get 0 s.pkg.meas i) s.pkg.mdig) } })

/-- The partition that a quarctl write names. -/
def quarPart (v : Word) : Option Nat :=
  let c := v.fld 0 5
  let r := v.fld 5 5
  if clearFrom v 11 && 1 ≤ c && 1 ≤ r && r ≤ 30 then some (32 * r + c) else none

/-- R440. quarctl imposes a quarantine on a partition. -/
def execQuarantine (view off : Nat) (val : Word) (s : State) : Out :=
  atOwner view off s (fun o => o == 0xA8) (fun _ =>
    match quarPart val with
    | none => s
    | some p => if val.fld 10 1 = 1 then quarantine s p else s)

/-- R440. quarctl lifts a partition's quarantine; its leases stay frozen until their faults are replied to. -/
def execQuarantineLift (view off : Nat) (val : Word) (s : State) : Out :=
  atOwner view off s (fun o => o == 0xA8) (fun _ =>
    match quarPart val with
    | none => s
    | some p => if val.fld 10 1 = 0 then s.modPart p (fun x => { x with quar := 0 }) else s)

/-! ### SPDM mailboxes (R438; log entry 12) -/

/-- The request codes of SPDM 1.4 that a mailbox supports: GET_VERSION, GET_CAPABILITIES, NEGOTIATE_ALGORITHMS,
GET_CERTIFICATE, CHALLENGE and GET_MEASUREMENTS. -/
def spdmCodes : List Nat := [0x84, 0xE1, 0xE3, 0x82, 0x83, 0xE0]

/-- The bytes of the request in a mailbox, as many as mbctl gives. -/
def Mailbox.request (m : Mailbox) : List Byte := (List.range (m.ctl.fld 0 12)).map (fun i => m.buf.read i)

/-- A mailbox with a response ready. -/
def Mailbox.answer (m : Mailbox) (r : List Byte) : Mailbox :=
  { m with
    buf := (r.mapIdx (fun i b => (i, b))).foldl (fun (b : Memory) e => b.write e.1 e.2) m.buf
    sta := BitVec.ofNat 64 (2 + r.length % 4096 * 2 ^ 16) }

/-- The codes answered, with one more: GET_VERSION begins an exchange anew. -/
def Mailbox.after (m : Mailbox) (code : Nat) : List Nat :=
  if code = 0x84 then [code] else if m.past.contains code then m.past else m.past ++ [code]

/-- ERROR UnsupportedRequest to a request of a code. -/
def spdmError (code : Nat) : List Byte := [0x14, 0x7F, 0x07, BitVec.ofNat 8 code]

/-- Words as bytes, lowest first. -/
def bytesOfWords (ws : List Word) : List Byte := ws.flatMap (fun w => (List.range 8).map (fun i => BitVec.ofNat 8 (w.fld (8 * i) 8)))

/-- R438: the measurement blocks of a mailbox: the registers, and for a partition the digest of its rights, hbase, hlimit,
dietab and allot. -/
def measBlocks (s : State) (box : Option Nat) : List (BitVec 256) :=
  (List.range 16).map (fun i => Tbl.get 0 s.pkg.meas i) ++ (match box with
    | none => []
    | some p =>
      let x := s.part p
      [sha256 (bytesOfWords ([x.rights, x.hbase, x.hlimit, x.dietab] ++ (List.range 32).map (fun i => Tbl.get 0 x.allot i)))])

/-- R438: whether a mailbox may sign. -/
def maySign (s : State) : Option Nat → Bool
  | none => s.pkg.keys
  | some p => (s.part p).rights.fld 5 1 == 1 && (s.part p).key

/-- The mailbox of the owner or of a block. -/
def mailbox (s : State) : Option Nat → Mailbox
  | none => s.pkg.mb
  | some p => (s.part p).mb

def setMailbox (s : State) (box : Option Nat) (m : Mailbox) : State :=
  match box with
  | none => { s with pkg := { s.pkg with mb := m } }
  | some p => s.modPart p (fun x => { x with mb := m })

/-- R439: the alarm of an SPDM request with a bad length or state. -/
def spdmAlarm (s : State) (box : Option Nat) : State :=
  alarm s 4 (match box with
    | none => 0
    | some p => mkTag p 63) 0

/-- R438: a request is answered. One too short to hold a code, or whose length or state SPDM does not allow, raises alarm 4 (R439, log
entry 12). Requests that need a signature get an error where the mailbox may not sign. -/
def spdmServe (s : State) (box : Option Nat) (req : List Byte) : State :=
  let m := mailbox s box
  let code := (req.getD 1 0).toNat
  let needs := code == 0x83 || (code == 0xE0 && (req.getD 2 0).toNat % 2 == 1)
  if req.length < 4 then spdmAlarm (setMailbox s box (m.answer (spdmError 0))) box
  else if !spdmCodes.contains code || (needs && !maySign s box) then setMailbox s box (m.answer (spdmError code))
  else
    let id := match box with
      | none => 0
      | some p => p
    let r := Config.spdmResponse id m.past req (measBlocks s box) (needs && maySign s box)
    if Config.spdmBad m.past req then spdmAlarm (setMailbox s box (m.answer r)) box
    else setMailbox s box (({ m with past := m.after code } : Mailbox).answer r)

/-- R438. The request that a write of `val` to mbctl, at an offset of a view, has put to a mailbox is answered, if the mailbox is still
busy with it. `own` says which requests a constructor stands for. -/
def spdmTake (view off : Nat) (val : Word) (s : State) (own : List Byte → Bool) : Out :=
  let go (b : Option Nat) : State :=
    let m := mailbox s b
    if ready s && m.busy && m.ctl == val && own m.request then spdmServe s b m.request else s
  .next (match spotOf view off with
    | .owner 0x700 => go none
    | .block p 0x700 => go (some p)
    | _ => s)

/-- Whether a request has a code. -/
def hasCode (code : Nat) (r : List Byte) : Bool := 4 ≤ r.length && (r.getD 1 0).toNat == code

/-- R438. SPDM GET_VERSION request. -/
def execGetVersion (view off : Nat) (val : Word) (s : State) : Out := spdmTake view off val s (hasCode 0x84)

/-- R438. SPDM GET_CAPABILITIES request. -/
def execGetCapabilities (view off : Nat) (val : Word) (s : State) : Out := spdmTake view off val s (hasCode 0xE1)

/-- R438. SPDM NEGOTIATE_ALGORITHMS request. -/
def execNegotiateAlgorithms (view off : Nat) (val : Word) (s : State) : Out := spdmTake view off val s (hasCode 0xE3)

/-- R438. SPDM GET_CERTIFICATE request. -/
def execGetCertificate (view off : Nat) (val : Word) (s : State) : Out := spdmTake view off val s (hasCode 0x82)

/-- R438. SPDM CHALLENGE request signed with the partition or alias key. -/
def execChallenge (view off : Nat) (val : Word) (s : State) : Out := spdmTake view off val s (hasCode 0x83)

/-- R438. SPDM GET_MEASUREMENTS request. -/
def execGetMeasurements (view off : Nat) (val : Word) (s : State) : Out := spdmTake view off val s (hasCode 0xE0)

/-- R438. Any other SPDM request gets ERROR UnsupportedRequest. -/
def execSpdmUnsupportedRequest (view off : Nat) (val : Word) (s : State) : Out := spdmTake view off val s (fun r => r.length < 4 || !spdmCodes.contains (r.getD 1 0).toNat)

/-! ### Boot and the package's own alarms (R437, R439, R441, R442) -/

/-- R437: the measurement register of each firmware image in order, with the boot step that loads it. -/
def bootImages : List (Nat × Nat) :=
  [(1, 0), (2, 1), (3, 2), (4, 3), (5, 4)] ++ List.replicate 8 (6, 5) ++ [(7, 6), (8, 7)]

/-- R437: images are loaded, checked and extended in order; the first whose signature fails stops the boot at its step. -/
def bootRun (i : Nat) (meas : Tbl (BitVec 256)) : List (Nat × Nat) → Nat × Bool × Tbl (BitVec 256)
  | [] => (12, true, meas)
  | (step, r) :: rest =>
    if Config.bootSigned i then
      bootRun (i + 1) (Tbl.set 0 meas r (extendMeas (Tbl.get 0 meas r) (Config.bootDigest i))) rest
    else (step, false, meas)

/-- R442. The package leaves reset and runs its boot stages. Everything of the package is as after reset but what HBM holds
(log entry 4); host memory and the model's own schedule stay. -/
def execPackageReset (s : State) : Out :=
  let b := bootRun 0 [] bootImages
  .next { State.reset with
    agenda := s.agenda, fc := s.fc, ordn := s.ordn, freeN := s.freeN, mem := s.mem, host := s.host
    pkg := { State.reset.pkg with stage := b.1, state := if b.2.1 then 1 else 0, meas := b.2.2 } }

/-- R439. A clock glitch raises a class 3 alarm. -/
def execClockGlitch (s : State) : Out := .next (alarm s 5 0 0)

/-- R439. A supply voltage glitch raises a class 3 alarm. -/
def execSupplyGlitch (s : State) : Out := .next (alarm s 6 0 0)

/-- R439. The package tamper mesh raises a class 3 alarm. -/
def execTamperMesh (s : State) : Out := .next (alarm s 7 0 0)

/-- R441. A junction above 110 °C halts the package, without the key erase. -/
def execThermalTrip (die : Nat) (s : State) : Out := .next (if die < 8 then haltPackage s false else s)

end Sys2Proof.Machine
end

