-- ==== Sys2Proof/Machine/Links.lean ====
section
/-! DEFINITION. The fabric control region's units: seam status (12 R398), photonic circuits (12 R400 to R403), the damper (12 R406 to R409), Gorisk ports and system requests (12 R410 to R415), and period budgets (11 R357, R358). -/

namespace Sys2Proof.Machine

/-! ### Seam modules (R398) -/

/-- Both effects of an mstat write. -/
def mstatSet (s : State) (k : Nat) (v : Word) : State :=
  let s1 := if v.fld 1 1 = 1 then startRetrain s k true else s
  if v.fld 0 1 = 1 then setSeamMod s1 k { seamMod s1 k with mstat := (seamMod s1 k).mstat.put 16 48 0 } else s1

/-- A write of mstat that a condition on its value selects. -/
def mstatWrite (view off : Nat) (val : Word) (s : State) (mine : Bool) : Out :=
  atFab view off s (fun o => (arrayIdx o 0x1000 8 160).isSome) (fun o =>
    match arrayIdx o 0x1000 8 160 with
    | none => s
    | some k => if mine then mstatSet s k val else s)

/-- R398. Asks a seam module to retrain at 64 lanes. -/
def execMstatFullRetrain (view off : Nat) (val : Word) (s : State) : Out := mstatWrite view off val s (val.fld 1 1 == 1)

/-- R398. Clears a module's counters. -/
def execMstatClear (view off : Nat) (val : Word) (s : State) : Out :=
  mstatWrite view off val s (val.fld 0 1 == 1 && val.fld 1 1 == 0)

/-! ### Photonic circuits (R401, R402) -/

def connSt (w : Word) : Nat := w.fld 61 2
def connV (w : Word) : Bool := w.fld 63 1 == 1
def connSrc (w : Word) : Nat := w.fld 32 3
def connDst (w : Word) : Nat := w.fld 35 3
/-- The first wavelength of an entry and the one after its last. -/
def connWl (w : Word) : Nat × Nat := (w.fld 42 6, w.fld 42 6 + w.fld 38 4 + 1)

/-- The fields that software writes, with a status. -/
def connFields (v : Word) (st : Nat) : Word := ((v.put 61 2 st).put 54 7 0).put 0 32 0

/-- R402: the checks of a set-up. -/
def connOk (s : State) (i : Nat) (v : Word) : Bool :=
  let w := connWl v
  v.fld 54 7 == 0 && v.fld 0 32 == 0 && v.fld 48 6 != 0 && v.fld 48 1 == 0 && v.fld 51 1 == 0 && w.2 ≤ 64
    && connSrc v != connDst v && (seamOf (connSrc v) (connDst v)).isNone
    && !s.fab.conn.any (fun e => e.1 != i && (connSt e.2 == 1 || connSt e.2 == 2) && connSrc e.2 == connSrc v
          && (connWl e.2).1 < w.2 && w.1 < (connWl e.2).2)

/-- Writes an entry and the fc at which its change began. -/
def setConn (s : State) (i : Nat) (w : Word) (t : Nat) : State :=
  { s with fab := { s.fab with conn := Tbl.set 0 s.fab.conn i w, connT := Tbl.set 0 s.fab.connT i t } }

/-- The entry that a write names. -/
def connWrite (view off : Nat) (s : State) (f : Nat → Word → State) : Out :=
  atFab view off s (fun o => (arrayIdx o 0 8 256).isSome) (fun o =>
    match arrayIdx o 0 8 256 with
    | none => s
    | some i => f i (Tbl.get (0 : Word) s.fab.conn i))

/-- R402. A connection entry written with v = 1 starts circuit set-up or is refused. -/
def execConnSetup (view off : Nat) (val : Word) (s : State) : Out :=
  connWrite view off s (fun i old =>
    if !connV val || connSt old = 1 || connSt old = 2 then s
    else if connOk s i val then setConn s i (connFields val 1) s.fc
    else setConn s i (connFields val 3) 0)

/-- R402. A connection entry written with v = 0 tears the circuit down; one that is setting up completes first. -/
def execConnTeardown (view off : Nat) (val : Word) (s : State) : Out :=
  connWrite view off s (fun i old =>
    if connV val then s
    else if connSt old = 0 || connSt old = 3 then setConn s i (connFields val 0) 0
    else if connSt old = 1 then setConn s i (old.put 63 1 0) (Tbl.get 0 s.fab.connT i)
    else setConn s i (old.put 63 1 0) s.fc)

/-- R402. After 3,150 fc a circuit comes up and the MSI is raised. -/
def execCircuitSetupDone (entry : Nat) (s : State) : Out :=
  let w := Tbl.get (0 : Word) s.fab.conn entry
  .next (if connSt w ≠ 1 || s.fc < Tbl.get 0 s.fab.connT entry + 3150 then s
    else msiWrite (setConn s entry (w.put 61 2 2) s.fc) s.pkg.hq)

/-- R402. A torn-down circuit returns to idle, once the packets on it have been delivered. -/
def execCircuitTeardownDone (entry : Nat) (s : State) : Out :=
  let w := Tbl.get (0 : Word) s.fab.conn entry
  .next (if connSt w ≠ 2 || connV w || s.reqs.any (fun r => r.way.head? == some (circuitHop entry)) then s
    else setConn s entry (w.put 61 2 0) 0)

/-! ### The damper (R406 to R409) -/

/-- R406. Sets the damper current budget. -/
def execDcfgWrite (view off : Nat) (val : Word) (s : State) : Out :=
  atFab view off s (fun o => o == 0x2000) (fun _ =>
    if clearFrom val 12 && 1 ≤ val.toNat && val.toNat ≤ 3400 then { s with fab := { s.fab with dcfg := val } } else s)

def dieDamp (s : State) (d : Nat) : DieDamp := Tbl.get {} s.fab.dies d
def setDieDamp (s : State) (d : Nat) (x : DieDamp) : State := { s with fab := { s.fab with dies := Tbl.set {} s.fab.dies d x } }

/-- R406: the damper's units for n operations of a kind on a die (log entry 13). -/
def charge (s : State) (die kind n : Nat) : State :=
  if 8 ≤ die then s
  else
    let x := dieDamp s die
    setDieDamp s die { x with spent := x.spent + n * Config.damperCost kind }

/-- R406: the operations of the slices in a step: kind 6. -/
def chargeHits (s : State) : State := (s.hits.foldl (fun s e => charge s e.1 6 e.2) { s with hits := [] })

/-- R407: water-filling of units over (die, demand) pairs, within n rounds: (die, grant) pairs. -/
def waterFill (rem : Nat) (dies : List (Nat × Nat)) : Nat → List (Nat × Nat)
  | 0 => []
  | n + 1 =>
    let c := dies.length
    if c = 0 then []
    else
      let share := rem / c
      let small := dies.filter (fun e => e.2 ≤ share)
      if small.isEmpty then dies.mapIdx (fun i e => (e.1, share + (if i < rem - share * c then 1 else 0)))
      else small ++ waterFill (rem - small.foldl (fun a e => a + e.2) 0) (dies.filter (fun e => share < e.2)) n

/-- R407: a die's demand: what it spent in the last period, and what its throttling held back, which no rule counts (log
entry 13). -/
def dieDemand (s : State) (d : Nat) : Nat :=
  let x := dieDamp s d
  x.spent + (if x.slowed then Config.freeNat (s.freeN + d) else 0)

/-- R407, R409. Each 1 µs period the damper grants units by water-filling, and takes the mean rail current of the last one. -/
def execDamperPeriod (s : State) : Out :=
  let ds := List.range 8
  let demand (d : Nat) : Nat := dieDemand s d
  let imax := s.fab.dcfg.fld 0 12
  let gs := waterFill (2 * imax) (ds.map (fun d => (d, demand d))) 9
  let total := ds.foldl (fun a d => a + (dieDamp s d).spent) 0
  let tens := if 22 * imax < 10 * total then s.fab.tenths + 1 else 0
  let s1 := ds.foldl (fun s d =>
    let x := dieDamp s d
    setDieDamp s d { x with demand := demand d, grant := lookup gs d, spent := 0, tick := 0, slowed := x.level != 0 }) { s with freeN := s.freeN + 8 }
  let s2 : State := { s1 with fab := { s1.fab with amps := total / 2, tenths := if tens = 10 then 0 else tens } }
  .next (if !ready s || s.fc % 2100 ≠ 0 then s else if tens = 10 then alarm s2 2 0 0 else s2)

/-- R408. Each 210 fc tick a die adjusts its throttle level. -/
def execDamperTick (die : Nat) (s : State) : Out :=
  let x := dieDamp s die
  let j := x.tick + 1
  let level :=
    if 2 * x.grant * j + x.grant < 20 * x.spent then min 4 (x.level + 1)
    else if 20 * x.spent + x.grant < 2 * x.grant * j then x.level - 1
    else x.level
  .next (if 8 ≤ die || 10 < j || !ready s || s.fc % 2100 ≠ 210 * j % 2100 then s else setDieDamp s die { x with tick := j, level, slowed := x.slowed || level != 0 })

/-! ### Gorisk ports (R410, R411) -/

def gport (s : State) (i : Nat) : GPort := Tbl.get {} s.fab.ports i
def setGport (s : State) (i : Nat) (g : GPort) : State := { s with fab := { s.fab with ports := Tbl.set {} s.fab.ports i g } }

/-- The state of a port: 0 down, 1 training, 2 up, 3 disabled. -/
def GPort.st (g : GPort) : Nat := g.gstat.fld 6 2
def GPort.lanes (g : GPort) : Nat := g.gstat.fld 8 3
def GPort.en (g : GPort) : Bool := g.gstat.fld 5 1 == 1
def GPort.put (g : GPort) (st lanes : Nat) : GPort := { g with gstat := (g.gstat.put 6 2 st).put 8 3 lanes }
def GPort.dir (g : GPort) (d : Nat) : LinkDir := if d = 0 then g.d0 else g.d1
def GPort.setDir (g : GPort) (d : Nat) (x : LinkDir) : GPort := if d = 0 then { g with d0 := x } else { g with d1 := x }

/-- R410. Sets the package number on the Gorisk fabric; ports that waited for it start to train. -/
def execPkgidWrite (view off : Nat) (val : Word) (s : State) : Out :=
  atFab view off s (fun o => o == 0x3000) (fun _ =>
    if !clearFrom val 12 || s.fab.ports.any (fun e => e.2.st == 2) then s
    else { s with fab := { s.fab with
      pkgid := val, pkgidSet := true
      ports := s.fab.ports.map (fun e => if e.2.en && e.2.st ≠ 1 then (e.1, e.2.put 1 0) else e) } })

/-- R413: a port that is up no more sends nothing; its unanswered requests go out again over the others. -/
def portDown (s : State) (i st : Nat) : State :=
  let g := gport s i
  let s1 := setGport s i { g.put st 0 with d0 := {}, d1 := {} }
  let mine := s1.fab.greqs.filter (fun q => q.port == i)
  mine.foldl (fun s q =>
    let r := routeRemote s q
    { r.1 with fab := { r.1.fab with greqs := r.1.fab.greqs.map (fun x => if x.txn = q.txn then r.2 else x) } }) s1

/-- Both effects of a gstat write (R411). -/
def gstatSet (s : State) (i : Nat) (v : Word) : State :=
  let g := gport s i
  let on := v.fld 5 1 == 1
  let g1 := if v.fld 0 1 = 1 then { g with gstat := g.gstat.put 32 32 0 } else g
  let g2 := { g1 with gstat := g1.gstat.put 5 1 (v.fld 5 1) }
  if on == g.en then setGport s i g2
  else if on then setGport s i (if s.fab.pkgidSet then g2.put 1 0 else g2)
  else portDown (setGport s i g2) i 3

/-- A write of gstat that a condition on the change of en selects. -/
def gstatWrite (view off : Nat) (val : Word) (s : State) (mine : Bool → Bool) : Out :=
  atFab view off s (fun o => (arrayIdx o 0x3100 8 36).isSome) (fun o =>
    match arrayIdx o 0x3100 8 36 with
    | none => s
    | some i => if val.fld 1 4 = 0 && mine ((val.fld 5 1 == 1) != (gport s i).en) then gstatSet s i val else s)

/-- R411. Enables or disables a Gorisk port. -/
def execGstatEnable (view off : Nat) (val : Word) (s : State) : Out := gstatWrite view off val s (fun c => c)

/-- R411. Clears a Gorisk port's counters. -/
def execGstatClear (view off : Nat) (val : Word) (s : State) : Out :=
  gstatWrite view off val s (fun c => !c && val.fld 0 1 == 1)

/-- R410, R411. A Gorisk port finishes training, or falls back from 4 lanes to 2, to 1, and down; its state and lanes change. -/
def execGoriskPortTrainingDone (port lanes : Nat) (s : State) : Out :=
  let g := gport s port
  let may := g.st == 1 || (g.st == 2 && lanes == g.lanes / 2)
  .next (if 36 ≤ port || !may || !(lanes == 0 || lanes == 1 || lanes == 2 || lanes == 4) then s
    else if lanes = 0 then alarm (portDown s port 0) 3 0 0
    else setGport s port (g.put 2 lanes))

/-! ### System requests (R413, R414) -/

/-- R138: a load extends what a remote package replies as its form says; nothing of it beyond the load's width counts. -/
def AccOp.extend (op : AccOp) (r : AccRes) : AccRes :=
  match op, r with
  | .load _ n sgn, .val v => .val (loadVal n sgn (v.toNat % 2 ^ (8 * n)))
  | .atom _ n _ _ _ _ _ _, .val v => .val (BitVec.ofNat 64 (v.toNat % 2 ^ (8 * n)))
  | _, r => r

/-- The result of a system request reaches the access that made it. -/
def endRemote (s : State) (txn : Nat) (r : AccRes) : State :=
  match s.fab.greqs.find? (fun q => q.txn == txn) with
  | none => s
  | some q =>
    let rs := match s.reqs.findIdx? (fun x => x.ctx == q.ctx && x.attr.sysw && x.res.isNone) with
      | none => s.reqs
      | some i => match s.reqs[i]? with
        | none => s.reqs
        | some x => s.reqs.set i { x with res := some (x.op.extend r) }
    { s with reqs := rs, fab := { s.fab with greqs := s.fab.greqs.filter (fun x => x.txn != txn) } }

/-- R413: the first reply that a package keeps of a transaction of another. -/
def keptReply (t : Tbl (List (Nat × AccRes))) (pkg txn : Nat) : Option AccRes :=
  ((Tbl.get [] t pkg).find? (fun e => e.1 == txn)).map (fun e => e.2)

/-- R413: a package keeps a reply, among those of the 4,096 most recent transactions of the other. -/
def keepReply (t : Tbl (List (Nat × AccRes))) (pkg txn : Nat) (r : AccRes) : Tbl (List (Nat × AccRes)) :=
  let seen := ((Tbl.get [] t pkg).filter (fun e => e.1 != txn)) ++ [(txn, r)]
  Tbl.set [] t pkg (seen.drop (seen.length - 4096))

/-- The first reply that a remote package gave to an outstanding transaction. -/
def firstReply (s : State) (txn : Nat) : Option AccRes :=
  (s.fab.greqs.find? (fun q => q.txn == txn)).bind (fun q => keptReply s.fab.gseen q.pkg txn)

/-- R410: the flit that comes next on a direction of a port. A port sends none while its replay buffer of 2,048 flits is full. -/
def nextPortFlit (s : State) (port dir : Nat) : Option (LinkDir × LinkDir) :=
  let g := gport s port
  if (g.dir dir).wire.isEmpty then fillFlit 2048 4096 s.fc (fun _ => 0) (g.dir dir) (g.dir (1 - dir))
  else some (g.dir dir, g.dir (1 - dir))

/-- R410. A Gorisk port accepts or replays a flit. Direction 0 carries requests, direction 1 replies. -/
def execGoriskFlitReceive (port dir : Nat) (crcOk : Bool) (s : State) : Out :=
  let g := gport s port
  .next (if 36 ≤ port || 2 ≤ dir || g.st ≠ 2 then s
    else match nextPortFlit s port dir with
      | none => s
      | some (d, r) =>
        if crcOk then
          let h := receiveGood 4096 s.fc d r
          let g1 := (g.setDir dir h.d).setDir (1 - dir) h.r
          let s1 := setGport s port (if h.replays then { g1 with gstat := bump16 g1.gstat 32 } else g1)
          if dir = 0 then s1
          else h.toks.foldl (fun s x => match firstReply s x.tile with
            | none => s
            | some v => endRemote s x.tile v) s1
        else setGport s port { (g.setDir dir d.reject).setDir (1 - dir) r with gstat := bump16 g.gstat 48 })

/-- R410. A Gorisk port whose acknowledgements have not advanced resends from its oldest unacknowledged flit. -/
def execGoriskReplayTimeout (port dir : Nat) (s : State) : Out :=
  let g := gport s port
  let d := g.dir dir
  .next (if 36 ≤ port || 2 ≤ dir || g.st ≠ 2 || !d.overdue s.fc then s
    else setGport s port { g.setDir dir (d.timeout (g.dir (1 - dir)) 4096 s.fc) with gstat := bump16 g.gstat 32 })

/-- R326, R413: what a request of another package does at the base die of its frame, as a memory-side access. -/
def applyIn (s : State) (q : GIn) : State × AccRes :=
  match q.op with
  | .load _ n _ => (s, .val (BitVec.ofNat 64 (s.mem.readN q.pa n)))
  | .store n v => ({ s with mem := s.mem.writeN q.pa n v.toNat }, .val 0)
  | .atom fn n _ x c _ _ _ =>
    let m := s.mem.readN q.pa n
    ({ s with mem := s.mem.writeN q.pa n (atomNew fn n m (x.toNat % 2 ^ (8 * n)) (c.toNat % 2 ^ (8 * n))) }, .val (BitVec.ofNat 64 m))
  | _ => (s, .trap 0x07)

/-- R413, R414: a request of another package, if it has not been applied already: the base die checks its tag, and a mismatch is refused
with an alarm here. -/
def serveIn (s : State) (q : GIn) : State × AccRes :=
  match keptReply s.fab.gdone q.src q.txn with
  | some r => (s, r)
  | none =>
    let t : State × AccRes :=
      if paTop ≤ q.pa then (s, .trap 0x06)
      else if admits (frameTag s q.pa) q.tag then applyIn s q
      else (alarm s 1 q.tag 0, .trap 0x08)
    ({ t.1 with fab := { t.1.fab with gdone := keepReply t.1.fab.gdone q.src q.txn t.2 } }, t.2)

/-- R413: the oldest request of another package is served, and its reply goes out by the port that it came by. A frame that migrates
holds it (R343). -/
def serveOldest (s : State) : State :=
  match s.fab.gin with
  | [] => s
  | q :: r =>
    if migrates s q.pa then s
    else
      let s1 := (serveIn s q).1
      let g := gport s1 q.port
      let s2 := setGport s1 q.port { g with d0 := g.d0.sendTxn 2 q.txn }
      { s2 with fab := { s2.fab with gin := r } }

/-- R413: the remote package applies a request of this one once and replies; one that it has applied already gets its first reply
again. What it gives is a free value (log entry 13). -/
def serveRemote (s : State) (txn : Nat) : State :=
  match s.fab.greqs.find? (fun q => q.txn == txn) with
  | none => s
  | some q =>
    let g := gport s q.port
    if g.st ≠ 2 || g.d0.undelivered.any (fun x => x.cls == 1 && x.tile == txn) then s
    else
      let r := (keptReply s.fab.gseen q.pkg txn).getD (Config.remoteReply q.pkg q.rpa txn q.op)
      let s1 := setGport s q.port { g with d1 := g.d1.sendTxn 2 txn }
      { s1 with fab := { s1.fab with gseen := keepReply s.fab.gseen q.pkg txn r } }

/-- R413. A package applies a request of another once and replies: a remote one that of this package with a transaction number, or, for
a number beyond those of 16 bits, this one the oldest that has reached it. -/
def execGoriskRemoteRequest (txn : Nat) (s : State) : Out :=
  .next (if txn < 65536 then serveRemote s txn else if ready s then serveOldest s else s)

/-- R414. An unanswered system request ends with fault 0x06, and so does one for which no port is up. -/
def execGoriskRequestTimeout (txn : Nat) (s : State) : Out :=
  .next (match s.fab.greqs.find? (fun q => q.txn == txn) with
    | none => s
    | some q => if q.sent + 2 ^ 21 ≤ s.fc || (upPorts s).isEmpty then endRemote s txn (.trap 0x06) else s)

/-! ### Period budgets (R357, R358) -/

/-- R357. A 10 µs period starts and lease budgets renew. -/
def execBudgetPeriod (s : State) : Out :=
  .next (if s.fc % 21000 ≠ 0 then s else { s with leases := s.leases.map (fun e => (e.1, { e.2 with limit := e.2.budget, used := 0, localUse := [] })) })

/-- Adds two uses, each half saturating. -/
def addUse (a b : Word) : Word :=
  BitVec.ofNat 64 (min (a.fld 0 32 + b.fld 0 32) (2 ^ 32 - 1) + min (a.fld 32 32 + b.fld 32 32) (2 ^ 32 - 1) * 2 ^ 32)

/-- R358. Each die reports budget use to the hearth every 1 µs. -/
def execBudgetReport (die : Nat) (s : State) : Out :=
  .next (if s.fc % 2100 ≠ 0 then s else { s with leases := s.leases.map (fun e =>
    (e.1, { e.2 with used := addUse e.2.used (Tbl.get 0 e.2.localUse die), localUse := Tbl.set 0 e.2.localUse die 0 })) })

end Sys2Proof.Machine
end

