-- ==== Sys2Proof/Machine/LoadStore.lean ====
section
/-! DEFINITION. Loads and stores: majors 0x14 to 0x22 (05 R137 to R141). -/

namespace Sys2Proof.Machine

/-- R137, R138: a load into a general register. -/
def loadG (s : State) (d : BitVec 5) (r : BitVec 3) (i : BitVec 18) (w : Nat) (sgn : Bool) : State :=
  access s (.load (.g d) w sgn) (eaM s.cc r i)

/-- R137, R138: a store of the low w bytes of a value. -/
def storeW (s : State) (v : Word) (r : BitVec 3) (i : BitVec 18) (w : Nat) : State :=
  access s (.store w v) (eaM s.cc r i)

/-- R138. Loads a sign-extended byte. -/
def execLdb (d : BitVec 5) (r : BitVec 3) (i : BitVec 18) (s : State) : Out := .next (loadG s d r i 1 true)
/-- R138. Loads a zero-extended byte. -/
def execLdbu (d : BitVec 5) (r : BitVec 3) (i : BitVec 18) (s : State) : Out := .next (loadG s d r i 1 false)
/-- R138. Loads a sign-extended halfword. -/
def execLdh (d : BitVec 5) (r : BitVec 3) (i : BitVec 18) (s : State) : Out := .next (loadG s d r i 2 true)
/-- R138. Loads a zero-extended halfword. -/
def execLdhu (d : BitVec 5) (r : BitVec 3) (i : BitVec 18) (s : State) : Out := .next (loadG s d r i 2 false)
/-- R138. Loads a sign-extended word. -/
def execLdw (d : BitVec 5) (r : BitVec 3) (i : BitVec 18) (s : State) : Out := .next (loadG s d r i 4 true)
/-- R138. Loads a zero-extended word. -/
def execLdwu (d : BitVec 5) (r : BitVec 3) (i : BitVec 18) (s : State) : Out := .next (loadG s d r i 4 false)
/-- R138. Loads a doubleword. -/
def execLdd (d : BitVec 5) (r : BitVec 3) (i : BitVec 18) (s : State) : Out := .next (loadG s d r i 8 false)
/-- R138. Stores the low byte of g[d]. -/
def execStb (d : BitVec 5) (r : BitVec 3) (i : BitVec 18) (s : State) : Out := .next (storeW s (s.cc.rg d) r i 1)
/-- R138. Stores the low halfword of g[d]. -/
def execSth (d : BitVec 5) (r : BitVec 3) (i : BitVec 18) (s : State) : Out := .next (storeW s (s.cc.rg d) r i 2)
/-- R138. Stores the low word of g[d]. -/
def execStw (d : BitVec 5) (r : BitVec 3) (i : BitVec 18) (s : State) : Out := .next (storeW s (s.cc.rg d) r i 4)
/-- R138. Stores the doubleword g[d]. -/
def execStd (d : BitVec 5) (r : BitVec 3) (i : BitVec 18) (s : State) : Out := .next (storeW s (s.cc.rg d) r i 8)
/-- R139. Loads 4 bytes into f[d][31:0] with upper bits set to ones. -/
def execFldw (d : BitVec 5) (r : BitVec 3) (i : BitVec 18) (s : State) : Out :=
  .next (access s (.load (.fw d) 4 false) (eaM s.cc r i))
/-- R139. Loads 8 bytes into f[d]. -/
def execFldd (d : BitVec 5) (r : BitVec 3) (i : BitVec 18) (s : State) : Out :=
  .next (access s (.load (.fd d) 8 false) (eaM s.cc r i))
/-- R139. Stores f[d][31:0]. -/
def execFstw (d : BitVec 5) (r : BitVec 3) (i : BitVec 18) (s : State) : Out := .next (storeW s (s.cc.rf d) r i 4)
/-- R139. Stores all 64 bits of f[d]. -/
def execFstd (d : BitVec 5) (r : BitVec 3) (i : BitVec 18) (s : State) : Out := .next (storeW s (s.cc.rf d) r i 8)

end Sys2Proof.Machine
end

