-- ==== Sys2Proof/Machine/Fetch.lean ====
section
/-! DEFINITION. Instruction fetch (05 R161, R162), the round robin of a stoker (01 R48), and the REP prefix: which
fields of a following word may step, and by what modulus (04 R117, 05 R163 to R166). -/

namespace Sys2Proof.Machine

/-- The modulus of each steppable field, 0 where the field is no register field of the form (R164). -/
structure RepForm where
  d : Nat := 0
  a : Nat := 0
  b : Nat := 0
deriving DecidableEq, Repr, Inhabited

/-- R117, R164: the register fields that may step; none where the instruction may not follow a REP: a branch, a jump,
another prefix, a SYS or a SNAP form, or a word that fails decode. -/
def repForm (i : Instr) : Option RepForm :=
  match i with
  | .add _ _ _ => some { d := 32, a := 32, b := 32 }
  | .sub _ _ _ => some { d := 32, a := 32, b := 32 }
  | .and _ _ _ => some { d := 32, a := 32, b := 32 }
  | .or _ _ _ => some { d := 32, a := 32, b := 32 }
  | .xor _ _ _ => some { d := 32, a := 32, b := 32 }
  | .andn _ _ _ => some { d := 32, a := 32, b := 32 }
  | .shl _ _ _ => some { d := 32, a := 32, b := 32 }
  | .shr _ _ _ => some { d := 32, a := 32, b := 32 }
  | .sra _ _ _ => some { d := 32, a := 32, b := 32 }
  | .rol _ _ _ => some { d := 32, a := 32, b := 32 }
  | .ror _ _ _ => some { d := 32, a := 32, b := 32 }
  | .slt _ _ _ => some { d := 32, a := 32, b := 32 }
  | .sltu _ _ _ => some { d := 32, a := 32, b := 32 }
  | .min _ _ _ => some { d := 32, a := 32, b := 32 }
  | .max _ _ _ => some { d := 32, a := 32, b := 32 }
  | .minu _ _ _ => some { d := 32, a := 32, b := 32 }
  | .maxu _ _ _ => some { d := 32, a := 32, b := 32 }
  | .mul _ _ _ => some { d := 32, a := 32, b := 32 }
  | .mulh _ _ _ => some { d := 32, a := 32, b := 32 }
  | .mulhu _ _ _ => some { d := 32, a := 32, b := 32 }
  | .div _ _ _ => some { d := 32, a := 32, b := 32 }
  | .divu _ _ _ => some { d := 32, a := 32, b := 32 }
  | .rem _ _ _ => some { d := 32, a := 32, b := 32 }
  | .remu _ _ _ => some { d := 32, a := 32, b := 32 }
  | .clz _ _ => some { d := 32, a := 32 }
  | .ctz _ _ => some { d := 32, a := 32 }
  | .popc _ _ => some { d := 32, a := 32 }
  | .brev _ _ => some { d := 32, a := 32 }
  | .bswap _ _ => some { d := 32, a := 32 }
  | .sel _ _ _ _ => some { d := 32, a := 32, b := 32 }
  | .addw _ _ _ => some { d := 32, a := 32, b := 32 }
  | .subw _ _ _ => some { d := 32, a := 32, b := 32 }
  | .satadd _ _ _ => some { d := 32, a := 32, b := 32 }
  | .satsub _ _ _ => some { d := 32, a := 32, b := 32 }
  | .muladd _ _ _ _ => some { d := 32, a := 32, b := 32 }
  | .addi _ _ _ => some { d := 32, a := 32 }
  | .andi _ _ _ => some { d := 32, a := 32 }
  | .ori _ _ _ => some { d := 32, a := 32 }
  | .xori _ _ _ => some { d := 32, a := 32 }
  | .slti _ _ _ => some { d := 32, a := 32 }
  | .sltiu _ _ _ => some { d := 32, a := 32 }
  | .shli _ _ _ => some { d := 32, a := 32 }
  | .shri _ _ _ => some { d := 32, a := 32 }
  | .srai _ _ _ => some { d := 32, a := 32 }
  | .lui _ _ => some { d := 32 }
  | .insh _ _ _ => some { d := 32 }
  | .addpc _ _ => some { d := 32 }
  | .ldb _ _ _ => some { d := 32, a := 8 }
  | .ldbu _ _ _ => some { d := 32, a := 8 }
  | .ldh _ _ _ => some { d := 32, a := 8 }
  | .ldhu _ _ _ => some { d := 32, a := 8 }
  | .ldw _ _ _ => some { d := 32, a := 8 }
  | .ldwu _ _ _ => some { d := 32, a := 8 }
  | .ldd _ _ _ => some { d := 32, a := 8 }
  | .stb _ _ _ => some { d := 32, a := 8 }
  | .sth _ _ _ => some { d := 32, a := 8 }
  | .stw _ _ _ => some { d := 32, a := 8 }
  | .std _ _ _ => some { d := 32, a := 8 }
  | .fldw _ _ _ => some { d := 32, a := 8 }
  | .fldd _ _ _ => some { d := 32, a := 8 }
  | .fstw _ _ _ => some { d := 32, a := 8 }
  | .fstd _ _ _ => some { d := 32, a := 8 }
  | .amov _ _ => some { d := 8, a := 8 }
  | .aadd _ _ _ => some { d := 8, a := 8, b := 32 }
  | .aset _ _ _ => some { d := 8, a := 32, b := 32 }
  | .agetl _ _ => some { d := 32, a := 8 }
  | .ageth _ _ => some { d := 32, a := 8 }
  | .acmp _ _ _ => some { d := 32, a := 8, b := 8 }
  | .aaddi _ _ _ => some { d := 8, a := 8 }
  | .fadd _ _ _ _ => some { d := 32, a := 32, b := 32 }
  | .fsub _ _ _ _ => some { d := 32, a := 32, b := 32 }
  | .fmul _ _ _ _ => some { d := 32, a := 32, b := 32 }
  | .fdiv _ _ _ _ => some { d := 32, a := 32, b := 32 }
  | .fsqrt _ _ _ _ => some { d := 32, a := 32 }
  | .fmin _ _ _ _ => some { d := 32, a := 32, b := 32 }
  | .fmax _ _ _ _ => some { d := 32, a := 32, b := 32 }
  | .ffma _ _ _ _ => some { d := 32, a := 32, b := 32 }
  | .ffms _ _ _ _ => some { d := 32, a := 32, b := 32 }
  | .fneg _ _ _ => some { d := 32, a := 32 }
  | .fabs _ _ _ => some { d := 32, a := 32 }
  | .fcpys _ _ _ _ => some { d := 32, a := 32, b := 32 }
  | .feq _ _ _ _ => some { d := 32, a := 32, b := 32 }
  | .flt _ _ _ _ => some { d := 32, a := 32, b := 32 }
  | .fle _ _ _ _ => some { d := 32, a := 32, b := 32 }
  | .fcvt _ _ _ _ _ => some { d := 32, a := 32 }
  | .fcvti _ _ _ _ _ => some { d := 32, a := 32 }
  | .icvtf _ _ _ _ _ => some { d := 32, a := 32 }
  | .fmvg _ _ => some { d := 32, a := 32 }
  | .gmvf _ _ => some { d := 32, a := 32 }
  | .cfgLoad _ _ _ => some { d := 32, a := 8, b := 32 }
  | .cfgWait _ _ => some { d := 32, a := 32 }
  | .opw _ _ => some { a := 32, b := 32 }
  | .sww _ _ => some { a := 32, b := 32 }
  | .portBind _ _ _ => some { d := 32, a := 8, b := 32 }
  | .portUnbind _ _ => some { d := 32, a := 32 }
  | .inj _ _ _ => some { d := 32, a := 32, b := 32 }
  | .ext _ _ => some { d := 32, a := 32 }
  | .leaseDrain _ _ => some { d := 32, a := 32 }
  | .leaseFreeze _ _ => some { d := 32, a := 32 }
  | .leaseResume _ _ _ => some { d := 32, a := 32, b := 32 }
  | .leaseMove _ _ _ => some { d := 32, a := 32, b := 32 }
  | .sweep _ _ _ => some { d := 32, a := 8, b := 32 }
  | .ringDef _ _ _ => some { d := 32, a := 8, b := 32 }
  | .ringInj _ _ _ => some { d := 32, a := 8, b := 32 }
  | .mtWrite _ _ _ => some { d := 32, a := 32, b := 32 }
  | .mtClear _ _ => some { d := 32, a := 32 }
  | .ringGo _ _ => some { d := 32, a := 32 }
  | .ringStat _ _ => some { d := 32, a := 32 }
  | .ringStop _ _ _ => some { d := 32, a := 32, b := 32 }
  | .rcSend _ _ _ => some { d := 32, a := 32, b := 8 }
  | .rcMask _ => some { a := 32 }
  | .rcUnmask _ => some { a := 32 }
  | .rcRoute _ _ => some { a := 32, b := 32 }
  | .evPop _ => some { d := 32 }
  | .evPeek _ => some { d := 32 }
  | .evPost _ _ _ => some { d := 32, a := 32, b := 32 }
  | .phase _ => some {  }
  | .fence _ _ _ => some {  }
  | .pref _ _ _ => some { a := 8, b := 32 }
  | .discard _ _ _ => some { a := 8, b := 32 }
  | .tsread _ => some { d := 32 }
  | .atAdd _ _ _ _ _ _ _ => some { d := 32, a := 8, b := 32 }
  | .atFadd _ _ _ _ _ _ => some { d := 32, a := 8, b := 32 }
  | .atAnd _ _ _ _ _ _ _ => some { d := 32, a := 8, b := 32 }
  | .atOr _ _ _ _ _ _ _ => some { d := 32, a := 8, b := 32 }
  | .atXor _ _ _ _ _ _ _ => some { d := 32, a := 8, b := 32 }
  | .atMin _ _ _ _ _ _ _ => some { d := 32, a := 8, b := 32 }
  | .atMax _ _ _ _ _ _ _ => some { d := 32, a := 8, b := 32 }
  | .atMinn _ _ _ _ _ _ _ => some { d := 32, a := 8, b := 32 }
  | .atMaxn _ _ _ _ _ _ _ => some { d := 32, a := 8, b := 32 }
  | .atSwap _ _ _ _ _ _ _ => some { d := 32, a := 8, b := 32 }
  | .atCas _ _ _ _ _ _ _ => some { d := 32, a := 8, b := 32 }
  | .atInc _ _ _ _ _ _ _ => some { d := 32, a := 8, b := 32 }
  | .barInit _ _ _ => some { a := 8, b := 32 }
  | .barArrive _ _ _ _ => some { d := 32, a := 8, b := 32 }
  | .barDrop _ _ _ _ => some { d := 32, a := 8, b := 32 }
  | .barExpect _ _ => some { a := 8, b := 32 }
  | .barWait _ _ _ => some { a := 8, b := 32 }
  | .barTest _ _ _ _ => some { d := 32, a := 8, b := 32 }
  | .tagLook _ _ _ => some { d := 32, a := 32, b := 8 }
  | .tagFill _ _ _ => some { d := 32, a := 32, b := 8 }
  | .tagEvict _ _ => some { d := 32, a := 32 }
  | .tagClear _ => some { a := 32 }
  | .cpyLin _ _ _ _ _ _ => some { d := 32, a := 8, b := 32 }
  | .cpyTwo _ _ _ _ _ _ => some { d := 32, a := 8, b := 32 }
  | .cpyGather _ _ _ _ _ _ => some { d := 32, a := 8, b := 32 }
  | .cpyScatter _ _ _ _ _ _ => some { d := 32, a := 8, b := 32 }
  | .cpyFill _ _ _ _ _ _ => some { d := 32, a := 8, b := 32 }
  | .cpyWait _ _ => some { d := 32, a := 32 }
  | .cpyStat _ _ => some { d := 32, a := 32 }
  | .cbInit _ _ => some { d := 32, a := 8 }
  | .cbPush _ _ _ _ _ => some { d := 32, a := 8, b := 32 }
  | .cbPop _ _ _ _ _ => some { d := 32, a := 8, b := 32 }
  | .cbAvail _ _ => some { d := 32, a := 8 }
  | .cbRoom _ _ => some { d := 32, a := 8 }
  | .prsIssue _ _ _ _ _ _ => some { d := 32, a := 32, b := 32 }
  | .prsRead _ _ _ => some { d := 32, a := 32, b := 32 }
  | .flueExp2 _ _ => some { d := 32, a := 32 }
  | .flueLog2 _ _ => some { d := 32, a := 32 }
  | .flueRcp _ _ => some { d := 32, a := 32 }
  | .flueRsqrt _ _ => some { d := 32, a := 32 }
  | .flueSqrt _ _ => some { d := 32, a := 32 }
  | .flueSinpi _ _ => some { d := 32, a := 32 }
  | .flueCospi _ _ => some { d := 32, a := 32 }
  | .flueTanh _ _ => some { d := 32, a := 32 }
  | .flueSigm _ _ => some { d := 32, a := 32 }
  | _ => none

/-- R60: a stride code. -/
def strideOf (c : Nat) : Int := if c = 0 then 1 else if c = 1 then 2 else if c = 2 then 4 else -1

/-- A field stepped to repeat j: (x + j × stride) mod m, in the low bits of the field. -/
def stepField (w : Code) (lo m j : Nat) (stride : Int) : Code :=
  let k := Nat.log2 m
  w.put lo k ((((w.fld lo k : Nat) : Int) + j * stride) % (m : Int)).toNat

/-- Where the a field of a form stands: areg at [20:18] in format M, else [20:16]. -/
def aLow (w : Code) : Nat := if 0x14 ≤ w.fld 26 6 && w.fld 26 6 ≤ 0x22 then 18 else 16

/-- R163: the following word with its fields at repeat j. -/
def stepWord (w : Code) (f : RepForm) (rs : Word) (j : Nat) : Code :=
  let w1 := if rs.fld 14 1 = 1 then stepField w 21 f.d j (strideOf (rs.fld 19 2)) else w
  let w2 := if rs.fld 13 1 = 1 then stepField w1 (aLow w) f.a j (strideOf (rs.fld 17 2)) else w1
  if rs.fld 12 1 = 1 then stepField w2 11 f.b j (strideOf (rs.fld 15 2)) else w2

/-- R117: whether a word may follow a prefix with this mask. -/
def repOk (w : Code) (mask : Nat) : Bool :=
  match decodeControl w with
  | .error _ => false
  | .ok i =>
    match repForm i with
    | none => false
    | some f => (bits mask 2 1 == 0 || f.d != 0) && (bits mask 1 1 == 0 || f.a != 0) && (bits mask 0 1 == 0 || f.b != 0)

/-- The word of repeat `next` (R163). -/
def repWord (w : Code) (rs : Word) : Code :=
  match decodeControl w with
  | .error _ => w
  | .ok i =>
    match repForm i with
    | none => w
    | some f => stepWord w f rs (rs.fld 0 6)

/-! ### Fetch (R161, R162) -/

/-- A word as memory gives it to the context now: translation, fetch permission and frame tag. Each of the lines of the 64 bytes that a
fetch reads (R161) may be transferred, or stand in a slice (R358, log entry 8). R326 lists what may reach a system
window and is silent on fetches: one is refused with 0x07 (DESIGN CHOICE, log entry 28). -/
def memWord (s : State) (k va : Nat) : Except Nat (State × Code) :=
  match translateCtx s k va with
  | .error c => .error c
  | .ok (s1, e) =>
    match pageCheck s1 (ctxWho s1 k) va e { x := true, noSys := true } with
    | .error c => .error c
    | .ok pa =>
      if agentWaits s1 (ctxWho s1 k) pa e.attr then .error heldCode
      else .ok (countLines s1 (s1.ctx k).lease pa true (linesAt pa 64), BitVec.ofNat 32 (loadAt s1 (ctxWho s1 k) va pa e.attr 4))

/-- The words fetched ahead: those already held within 64 bytes after va stay, the others are read now if the page
at hand gives them. -/
def fetchAhead (s : State) (k va : Nat) : List (Nat × Code) :=
  let old := (s.ctx k).fbuf
  (List.range 15).filterMap (fun i =>
    let x := va + 4 * (i + 1)
    match old.find? (fun e => e.1 == x) with
    | some e => some e
    | none =>
      match tlbFind (s.stoker (ctxStoker k)).tlb (s.ctx k).lease x with
      | none => none
      | some _ =>
        match memWord s k x with
        | .ok (_, w) => some (x, w)
        | .error _ => none)

/-- R161: the word that the context issues at va: where a word fetched ahead differs from memory, either one (log
entry 8). -/
def fetchWord (s : State) (k va : Nat) : Except Nat (State × Code) :=
  let old := (s.ctx k).fbuf.find? (fun e => e.1 == va)
  match old, memWord s k va with
  | none, .error c => .error c
  | none, .ok (s1, w) => .ok (s1.modCtx k (fun c => { c with fbuf := fetchAhead s1 k va }), w)
  | some (_, o), .error c =>
    if s.free then .ok (s.drawn, o) else .error c
  | some (_, o), .ok (s1, w) =>
    let s2 := s1.modCtx k (fun c => { c with fbuf := fetchAhead s1 k va })
    if o = w then .ok (s2, w) else .ok (s2.drawn, if s1.free then o else w)

/-- A fetch fault (R162): tval holds the address. A fetch that waits leaves the turn to another. -/
def fetchFault (s : State) (k code va : Nat) : State := formFault s k code va

/-- R117, R156: the word that a resumed REP repeats is fetched and checked again. A word that fails the check traps at the prefix
with repstate.active clear; a fetch fault leaves repstate as it stands (R152). -/
def eretCheck (s : State) (k : Nat) : State :=
  let c := s.ctx k
  if !c.repOn || c.st != .ready then s
  else
    match fetchWord s k (c.pc + 4).toNat with
    | .error code => fetchFault s k code (c.pc + 4).toNat
    | .ok (s1, w) =>
      if repOk w (c.repstate.fld 12 3) then s1.modCtx k (fun c => { c with repW := some w })
      else trapSync (s1.modCtx k Ctx.repClear) k 0x01 (BitVec.ofNat 64 w.toNat) 0

/-! ### Issue (R48) -/

/-- A context that takes a turn: READY with nothing in flight. -/
def Ctx.canIssue (c : Ctx) : Bool := c.st == .ready && c.busy == none

/-- The next context in round robin after the one that issued last; none of a lease that the manager has halted. -/
def pickCtx (s : State) (st : Nat) : Option Nat :=
  let last := (s.stoker st).last
  ((List.range 8).map (fun i => st * 8 + (last + 1 + i) % 8)).find?
    (fun k => (s.ctx k).canIssue && !(s.lease (s.ctx k).lease).dbgHalt)

/-- The instruction that a word is, with the step's context and word; a word that is none traps (R116). -/
def issueWord (s : State) (k : Nat) (transit : Bool) (w : Code) : State × Option Instr :=
  let s1 : State := { s with cur := { ctx := k, tile := s.cur.tile, word := w, transit } }
  match decodeControl w with
  | .error _ => (raiseIll s1, none)
  | .ok i => (s1, some i)

/-- One issue turn of a stoker: the state with the step's context and word, and the instruction to run. There is none
when no context can issue, when the turn takes an asynchronous trap (R154) or a fetch fault, or when the word is no
instruction. A repeat issues the word that has been checked (R163), which a resumed REP fetches first. -/
def issueTurn (s : State) (st : Nat) (transit : Bool) : State × Option Instr :=
  match pickCtx s st with
  | none => (s, none)
  | some k =>
    let s1 := s.setStoker st { s.stoker st with last := k % 8 }
    let c := s1.ctx k
    if c.asyncDue then (s1.setCtx k c.asyncTrap, none)
    else if c.repOn then
      match c.repW with
      | some w => issueWord s1 k transit (repWord w c.repstate)
      | none => (eretCheck s1 k, none)
    else
      match fetchWord s1 k c.pc.toNat with
      | .error code => (fetchFault s1 k code c.pc.toNat, none)
      | .ok (s2, w) => issueWord s2 k transit w

end Sys2Proof.Machine
end

