-- ==== Sys2Proof/Machine/System.lean ====
section
/-! DEFINITION. System forms of major 0x26 and the REP prefix (05 R152 to R166). -/

namespace Sys2Proof.Machine

/-- R157: the CSR that an index names; an index outside R25 traps with 0x01, tval holding the word. -/
def withCsr (s : State) (c : BitVec 12) (k : Csr → State) : State :=
  match Csr.ofIdx c.toNat with
  | none => raiseIll s
  | some x => k x

/-- R26, R157: a write of a value to a CSR. -/
def writeCsr (s : State) (x : Csr) (v : Word) : State :=
  if x.ro then raise s 0x01 0 0
  else match csrBad x (s.cc.csr (timeNs s) x) v with
    | some code => raise s code 0 0
    | none => retire s (fun c => c.setCsr x v)

/-- R155. Traps with cause 0x18 and tval := code. -/
def execTrap (n : BitVec 10) (s : State) : Out := .next (raise s 0x18 (zx n) 0)
/-- R157. Reads a CSR into g[d]. -/
def execCsrr (d : BitVec 5) (c : BitVec 12) (s : State) : Out :=
  .next (withCsr s c (fun x => retireG s d (s.cc.csr (timeNs s) x)))
/-- R157. Writes g into a CSR. -/
def execCsrw (r : BitVec 5) (c : BitVec 12) (s : State) : Out :=
  .next (withCsr s c (fun x => writeCsr s x (s.cc.rg r)))
/-- R157. Sets CSR bits from g. -/
def execCsrs (r : BitVec 5) (c : BitVec 12) (s : State) : Out :=
  .next (withCsr s c (fun x => writeCsr s x (s.cc.csr (timeNs s) x ||| s.cc.rg r)))
/-- R157. Clears CSR bits from g. -/
def execCsrc (r : BitVec 5) (c : BitVec 12) (s : State) : Out :=
  .next (withCsr s c (fun x => writeCsr s x (s.cc.csr (timeNs s) x &&& ~~~(s.cc.rg r))))
/-- R156. Returns from a trap, resuming a REP if active. -/
def execEret (s : State) : Out :=
  let k := s.cur.ctx
  if s.cc.status.fld 2 1 = 0 then .next (raise s 0x01 0 0)
  else .next (eretCheck (complete s k Ctx.eret) k)
/-- R159. Waits for an event in the context's queue. -/
def execWfe (s : State) : Out :=
  if s.cc.evq.isEmpty then .next (s.modC (fun c => { c with st := .waiting, wait := some .wfe }))
  else .next (retire s id)
/-- R160. Puts the context in HALTED. -/
def execHalt (s : State) : Out :=
  .next (retire s (fun c => { c with st := .halted }))
/-- R155. Breakpoint: halts the context for the debug level or traps with 0x17. Where pc stands in a halt is not stated: it stays at
the BRK, as epc does for its trap, so that a resume runs it again (DESIGN CHOICE, log entry 28). -/
def execBrk (s : State) : Out :=
  match debugLevel s s.cc.lease with
  | some lv => .next (debugStop s s.cur.ctx 0x17 lv)
  | none => .next (raise s 0x17 0 0)
/-- R161. Discards the context's prefetched instruction words. -/
def execIfence (s : State) : Out := .next (retire s (fun c => { c with fbuf := [] }))
/-- R163. Repeats the next instruction with stepped register fields. Whether the prefix itself counts as a completed instruction
for status.step is not stated: it does not, and each repeat does (DESIGN CHOICE, log entry 28). -/
def execRep (c : BitVec 6) (d a b : BitVec 1) (e f g : BitVec 2) (s : State) : Out :=
  let k := s.cur.ctx
  let mask := 4 * d.toNat + 2 * a.toNat + b.toNat
  let va := (s.cc.pc + 4).toNat
  match fetchWord s k va with
  | .error code => .next (if code = heldCode then s else fetchFault (s.modCtx k Ctx.repClear) k code va)
  | .ok (s1, w) =>
    if !repOk w mask then .next (trapSync (s1.modCtx k Ctx.repClear) k 0x01 (BitVec.ofNat 64 w.toNat) 0)
    else
      let rs : Word := BitVec.ofNat 64
        (2 ^ 31 + e.toNat * 2 ^ 19 + f.toNat * 2 ^ 17 + g.toNat * 2 ^ 15 + mask * 2 ^ 12 + c.toNat * 2 ^ 6)
      let s2 := s1.modCtx k (fun x => { x with repstate := rs, status := x.status.put 4 1 1, repOn := true, repW := some w })
      .next (progress s2 s.cc.lease)

end Sys2Proof.Machine
end

