-- ==== Sys2Proof/Machine/Dispatch.lean ====
section
/-! DEFINITION. The meaning of every instruction and step, one arm per constructor of Instr. -/

namespace Sys2Proof.Machine

def exec (i : Instr) (s : State) : Host.Outcome State Fault Refusal :=
  match i with
  | .illegal x => Sys2Proof.Machine.execIllegal x s
  | .add d a b => Sys2Proof.Machine.execAdd d a b s
  | .sub d a b => Sys2Proof.Machine.execSub d a b s
  | .and d a b => Sys2Proof.Machine.execAnd d a b s
  | .or d a b => Sys2Proof.Machine.execOr d a b s
  | .xor d a b => Sys2Proof.Machine.execXor d a b s
  | .andn d a b => Sys2Proof.Machine.execAndn d a b s
  | .shl d a b => Sys2Proof.Machine.execShl d a b s
  | .shr d a b => Sys2Proof.Machine.execShr d a b s
  | .sra d a b => Sys2Proof.Machine.execSra d a b s
  | .rol d a b => Sys2Proof.Machine.execRol d a b s
  | .ror d a b => Sys2Proof.Machine.execRor d a b s
  | .slt d a b => Sys2Proof.Machine.execSlt d a b s
  | .sltu d a b => Sys2Proof.Machine.execSltu d a b s
  | .min d a b => Sys2Proof.Machine.execMin d a b s
  | .max d a b => Sys2Proof.Machine.execMax d a b s
  | .minu d a b => Sys2Proof.Machine.execMinu d a b s
  | .maxu d a b => Sys2Proof.Machine.execMaxu d a b s
  | .mul d a b => Sys2Proof.Machine.execMul d a b s
  | .mulh d a b => Sys2Proof.Machine.execMulh d a b s
  | .mulhu d a b => Sys2Proof.Machine.execMulhu d a b s
  | .div d a b => Sys2Proof.Machine.execDiv d a b s
  | .divu d a b => Sys2Proof.Machine.execDivu d a b s
  | .rem d a b => Sys2Proof.Machine.execRem d a b s
  | .remu d a b => Sys2Proof.Machine.execRemu d a b s
  | .clz d a => Sys2Proof.Machine.execClz d a s
  | .ctz d a => Sys2Proof.Machine.execCtz d a s
  | .popc d a => Sys2Proof.Machine.execPopc d a s
  | .brev d a => Sys2Proof.Machine.execBrev d a s
  | .bswap d a => Sys2Proof.Machine.execBswap d a s
  | .sel d a b c => Sys2Proof.Machine.execSel d a b c s
  | .addw d a b => Sys2Proof.Machine.execAddw d a b s
  | .subw d a b => Sys2Proof.Machine.execSubw d a b s
  | .satadd d a b => Sys2Proof.Machine.execSatadd d a b s
  | .satsub d a b => Sys2Proof.Machine.execSatsub d a b s
  | .muladd d a b c => Sys2Proof.Machine.execMuladd d a b c s
  | .addi d a im => Sys2Proof.Machine.execAddi d a im s
  | .andi d a im => Sys2Proof.Machine.execAndi d a im s
  | .ori d a im => Sys2Proof.Machine.execOri d a im s
  | .xori d a im => Sys2Proof.Machine.execXori d a im s
  | .slti d a im => Sys2Proof.Machine.execSlti d a im s
  | .sltiu d a im => Sys2Proof.Machine.execSltiu d a im s
  | .shli d a n => Sys2Proof.Machine.execShli d a n s
  | .shri d a n => Sys2Proof.Machine.execShri d a n s
  | .srai d a n => Sys2Proof.Machine.execSrai d a n s
  | .lui d im => Sys2Proof.Machine.execLui d im s
  | .insh d p im => Sys2Proof.Machine.execInsh d p im s
  | .addpc d im => Sys2Proof.Machine.execAddpc d im s
  | .beq a b im => Sys2Proof.Machine.execBeq a b im s
  | .bne a b im => Sys2Proof.Machine.execBne a b im s
  | .blt a b im => Sys2Proof.Machine.execBlt a b im s
  | .bge a b im => Sys2Proof.Machine.execBge a b im s
  | .bltu a b im => Sys2Proof.Machine.execBltu a b im s
  | .bgeu a b im => Sys2Proof.Machine.execBgeu a b im s
  | .jal d im => Sys2Proof.Machine.execJal d im s
  | .jalr d a im => Sys2Proof.Machine.execJalr d a im s
  | .ldb d r im => Sys2Proof.Machine.execLdb d r im s
  | .ldbu d r im => Sys2Proof.Machine.execLdbu d r im s
  | .ldh d r im => Sys2Proof.Machine.execLdh d r im s
  | .ldhu d r im => Sys2Proof.Machine.execLdhu d r im s
  | .ldw d r im => Sys2Proof.Machine.execLdw d r im s
  | .ldwu d r im => Sys2Proof.Machine.execLdwu d r im s
  | .ldd d r im => Sys2Proof.Machine.execLdd d r im s
  | .stb d r im => Sys2Proof.Machine.execStb d r im s
  | .sth d r im => Sys2Proof.Machine.execSth d r im s
  | .stw d r im => Sys2Proof.Machine.execStw d r im s
  | .std d r im => Sys2Proof.Machine.execStd d r im s
  | .fldw d r im => Sys2Proof.Machine.execFldw d r im s
  | .fldd d r im => Sys2Proof.Machine.execFldd d r im s
  | .fstw d r im => Sys2Proof.Machine.execFstw d r im s
  | .fstd d r im => Sys2Proof.Machine.execFstd d r im s
  | .amov d a => Sys2Proof.Machine.execAmov d a s
  | .aadd d a b => Sys2Proof.Machine.execAadd d a b s
  | .aset d a b => Sys2Proof.Machine.execAset d a b s
  | .agetl d a => Sys2Proof.Machine.execAgetl d a s
  | .ageth d a => Sys2Proof.Machine.execAgeth d a s
  | .acmp d a b => Sys2Proof.Machine.execAcmp d a b s
  | .aaddi d a im => Sys2Proof.Machine.execAaddi d a im s
  | .fadd d a b t => Sys2Proof.Machine.execFadd d a b t s
  | .fsub d a b t => Sys2Proof.Machine.execFsub d a b t s
  | .fmul d a b t => Sys2Proof.Machine.execFmul d a b t s
  | .fdiv d a b t => Sys2Proof.Machine.execFdiv d a b t s
  | .fsqrt d a m t => Sys2Proof.Machine.execFsqrt d a m t s
  | .fmin d a b t => Sys2Proof.Machine.execFmin d a b t s
  | .fmax d a b t => Sys2Proof.Machine.execFmax d a b t s
  | .ffma d a b t => Sys2Proof.Machine.execFfma d a b t s
  | .ffms d a b t => Sys2Proof.Machine.execFfms d a b t s
  | .fneg d a t => Sys2Proof.Machine.execFneg d a t s
  | .fabs d a t => Sys2Proof.Machine.execFabs d a t s
  | .fcpys d a b t => Sys2Proof.Machine.execFcpys d a b t s
  | .feq d a b t => Sys2Proof.Machine.execFeq d a b t s
  | .flt d a b t => Sys2Proof.Machine.execFlt d a b t s
  | .fle d a b t => Sys2Proof.Machine.execFle d a b t s
  | .fcvt d a m x y => Sys2Proof.Machine.execFcvt d a m x y s
  | .fcvti d a m x y => Sys2Proof.Machine.execFcvti d a m x y s
  | .icvtf d a m x y => Sys2Proof.Machine.execIcvtf d a m x y s
  | .fmvg d a => Sys2Proof.Machine.execFmvg d a s
  | .gmvf d a => Sys2Proof.Machine.execGmvf d a s
  | .trap n => Sys2Proof.Machine.execTrap n s
  | .csrr d c => Sys2Proof.Machine.execCsrr d c s
  | .csrw xs c => Sys2Proof.Machine.execCsrw xs c s
  | .csrs xs c => Sys2Proof.Machine.execCsrs xs c s
  | .csrc xs c => Sys2Proof.Machine.execCsrc xs c s
  | .cfgLoad d a b => Sys2Proof.Machine.execCfgLoad d a b s
  | .cfgWait d a => Sys2Proof.Machine.execCfgWait d a s
  | .opw a b => Sys2Proof.Machine.execOpw a b s
  | .sww a b => Sys2Proof.Machine.execSww a b s
  | .portBind d a b => Sys2Proof.Machine.execPortBind d a b s
  | .portUnbind d a => Sys2Proof.Machine.execPortUnbind d a s
  | .inj d a b => Sys2Proof.Machine.execInj d a b s
  | .ext d a => Sys2Proof.Machine.execExt d a s
  | .leaseDrain d a => Sys2Proof.Machine.execLeaseDrain d a s
  | .leaseFreeze d a => Sys2Proof.Machine.execLeaseFreeze d a s
  | .leaseResume d a b => Sys2Proof.Machine.execLeaseResume d a b s
  | .leaseMove d a b => Sys2Proof.Machine.execLeaseMove d a b s
  | .sweep d a b => Sys2Proof.Machine.execSweep d a b s
  | .ringDef d a b => Sys2Proof.Machine.execRingDef d a b s
  | .ringInj d a b => Sys2Proof.Machine.execRingInj d a b s
  | .mtWrite d a b => Sys2Proof.Machine.execMtWrite d a b s
  | .mtClear d a => Sys2Proof.Machine.execMtClear d a s
  | .ringGo d a => Sys2Proof.Machine.execRingGo d a s
  | .ringStat d a => Sys2Proof.Machine.execRingStat d a s
  | .ringStop d a b => Sys2Proof.Machine.execRingStop d a b s
  | .rcSend d a b => Sys2Proof.Machine.execRcSend d a b s
  | .rcMask a => Sys2Proof.Machine.execRcMask a s
  | .rcUnmask a => Sys2Proof.Machine.execRcUnmask a s
  | .rcRoute a b => Sys2Proof.Machine.execRcRoute a b s
  | .evPop d => Sys2Proof.Machine.execEvPop d s
  | .evPeek d => Sys2Proof.Machine.execEvPeek d s
  | .evPost d a b => Sys2Proof.Machine.execEvPost d a b s
  | .phase xs => Sys2Proof.Machine.execPhase xs s
  | .fence xs q r => Sys2Proof.Machine.execFence xs q r s
  | .pref a b xs => Sys2Proof.Machine.execPref a b xs s
  | .discard a b xs => Sys2Proof.Machine.execDiscard a b xs s
  | .tsread d => Sys2Proof.Machine.execTsread d s
  | .atAdd d a b xs q r w => Sys2Proof.Machine.execAtAdd d a b xs q r w s
  | .atFadd d a b xs q r => Sys2Proof.Machine.execAtFadd d a b xs q r s
  | .atAnd d a b xs q r w => Sys2Proof.Machine.execAtAnd d a b xs q r w s
  | .atOr d a b xs q r w => Sys2Proof.Machine.execAtOr d a b xs q r w s
  | .atXor d a b xs q r w => Sys2Proof.Machine.execAtXor d a b xs q r w s
  | .atMin d a b xs q r w => Sys2Proof.Machine.execAtMin d a b xs q r w s
  | .atMax d a b xs q r w => Sys2Proof.Machine.execAtMax d a b xs q r w s
  | .atMinn d a b xs q r w => Sys2Proof.Machine.execAtMinn d a b xs q r w s
  | .atMaxn d a b xs q r w => Sys2Proof.Machine.execAtMaxn d a b xs q r w s
  | .atSwap d a b xs q r w => Sys2Proof.Machine.execAtSwap d a b xs q r w s
  | .atCas d a b xs q r w => Sys2Proof.Machine.execAtCas d a b xs q r w s
  | .atInc d a b xs q r w => Sys2Proof.Machine.execAtInc d a b xs q r w s
  | .barInit a b xs => Sys2Proof.Machine.execBarInit a b xs s
  | .barArrive d a b r => Sys2Proof.Machine.execBarArrive d a b r s
  | .barDrop d a b r => Sys2Proof.Machine.execBarDrop d a b r s
  | .barExpect a b => Sys2Proof.Machine.execBarExpect a b s
  | .barWait a b q => Sys2Proof.Machine.execBarWait a b q s
  | .barTest d a b q => Sys2Proof.Machine.execBarTest d a b q s
  | .snapOpen d a b xs => Sys2Proof.Machine.execSnapOpen d a b xs s
  | .snapAdd d a b => Sys2Proof.Machine.execSnapAdd d a b s
  | .snapKeep d a => Sys2Proof.Machine.execSnapKeep d a s
  | .snapDrop d a => Sys2Proof.Machine.execSnapDrop d a s
  | .snapQuery d a => Sys2Proof.Machine.execSnapQuery d a s
  | .tagLook d a b => Sys2Proof.Machine.execTagLook d a b s
  | .tagFill d a b => Sys2Proof.Machine.execTagFill d a b s
  | .tagEvict d a => Sys2Proof.Machine.execTagEvict d a s
  | .tagClear a => Sys2Proof.Machine.execTagClear a s
  | .cpyLin d a b xs q r => Sys2Proof.Machine.execCpyLin d a b xs q r s
  | .cpyTwo d a b xs q r => Sys2Proof.Machine.execCpyTwo d a b xs q r s
  | .cpyGather d a b xs q r => Sys2Proof.Machine.execCpyGather d a b xs q r s
  | .cpyScatter d a b xs q r => Sys2Proof.Machine.execCpyScatter d a b xs q r s
  | .cpyFill d a b xs q r => Sys2Proof.Machine.execCpyFill d a b xs q r s
  | .cpyWait d a => Sys2Proof.Machine.execCpyWait d a s
  | .cpyStat d a => Sys2Proof.Machine.execCpyStat d a s
  | .cbInit d a => Sys2Proof.Machine.execCbInit d a s
  | .cbPush d a b xs r => Sys2Proof.Machine.execCbPush d a b xs r s
  | .cbPop d a b xs q => Sys2Proof.Machine.execCbPop d a b xs q s
  | .cbAvail d a => Sys2Proof.Machine.execCbAvail d a s
  | .cbRoom d a => Sys2Proof.Machine.execCbRoom d a s
  | .prsIssue d a b xs q r => Sys2Proof.Machine.execPrsIssue d a b xs q r s
  | .prsRead d a b => Sys2Proof.Machine.execPrsRead d a b s
  | .flueExp2 d a => Sys2Proof.Machine.execFlueExp2 d a s
  | .flueLog2 d a => Sys2Proof.Machine.execFlueLog2 d a s
  | .flueRcp d a => Sys2Proof.Machine.execFlueRcp d a s
  | .flueRsqrt d a => Sys2Proof.Machine.execFlueRsqrt d a s
  | .flueSqrt d a => Sys2Proof.Machine.execFlueSqrt d a s
  | .flueSinpi d a => Sys2Proof.Machine.execFlueSinpi d a s
  | .flueCospi d a => Sys2Proof.Machine.execFlueCospi d a s
  | .flueTanh d a => Sys2Proof.Machine.execFlueTanh d a s
  | .flueSigm d a => Sys2Proof.Machine.execFlueSigm d a s
  | .rep c d a b e f g => Sys2Proof.Machine.execRep c d a b e f g s
  | .elemNop e => Sys2Proof.Machine.execElemNop e s
  | .elemAdd a b d t xs e p => Sys2Proof.Machine.execElemAdd a b d t xs e p s
  | .elemSub a b d t xs e p => Sys2Proof.Machine.execElemSub a b d t xs e p s
  | .elemMul a b d t xs e p => Sys2Proof.Machine.execElemMul a b d t xs e p s
  | .elemMulh a b d t e p => Sys2Proof.Machine.execElemMulh a b d t e p s
  | .elemMac a b d t xs e p => Sys2Proof.Machine.execElemMac a b d t xs e p s
  | .elemMin a b d t e p => Sys2Proof.Machine.execElemMin a b d t e p s
  | .elemMax a b d t e p => Sys2Proof.Machine.execElemMax a b d t e p s
  | .elemAbs a d t xs e p => Sys2Proof.Machine.execElemAbs a d t xs e p s
  | .elemNeg a d t xs e p => Sys2Proof.Machine.execElemNeg a d t xs e p s
  | .elemAnd a b d t e p => Sys2Proof.Machine.execElemAnd a b d t e p s
  | .elemOr a b d t e p => Sys2Proof.Machine.execElemOr a b d t e p s
  | .elemXor a b d t e p => Sys2Proof.Machine.execElemXor a b d t e p s
  | .elemNot a d t e p => Sys2Proof.Machine.execElemNot a d t e p s
  | .elemShl a b d t xs e p => Sys2Proof.Machine.execElemShl a b d t xs e p s
  | .elemShr a b d t e p => Sys2Proof.Machine.execElemShr a b d t e p s
  | .elemSra a b d t e p => Sys2Proof.Machine.execElemSra a b d t e p s
  | .elemClz a d t e p => Sys2Proof.Machine.execElemClz a d t e p s
  | .elemPopc a d t e p => Sys2Proof.Machine.execElemPopc a d t e p s
  | .elemFadd a b d t r xs e p => Sys2Proof.Machine.execElemFadd a b d t r xs e p s
  | .elemFsub a b d t r xs e p => Sys2Proof.Machine.execElemFsub a b d t r xs e p s
  | .elemFmul a b d t r xs e p => Sys2Proof.Machine.execElemFmul a b d t r xs e p s
  | .elemFfma a b d t r xs e p => Sys2Proof.Machine.execElemFfma a b d t r xs e p s
  | .elemFmin a b d t r xs e p => Sys2Proof.Machine.execElemFmin a b d t r xs e p s
  | .elemFmax a b d t r xs e p => Sys2Proof.Machine.execElemFmax a b d t r xs e p s
  | .elemFabs a d t r e p => Sys2Proof.Machine.execElemFabs a d t r e p s
  | .elemFneg a d t r e p => Sys2Proof.Machine.execElemFneg a d t r e p s
  | .elemCmpeq a b d t r xs e p => Sys2Proof.Machine.execElemCmpeq a b d t r xs e p s
  | .elemCmpne a b d t r xs e p => Sys2Proof.Machine.execElemCmpne a b d t r xs e p s
  | .elemCmplt a b d t r xs e p => Sys2Proof.Machine.execElemCmplt a b d t r xs e p s
  | .elemCmple a b d t r xs e p => Sys2Proof.Machine.execElemCmple a b d t r xs e p s
  | .elemPack a b d xs e p => Sys2Proof.Machine.execElemPack a b d xs e p s
  | .elemUnpkl a d e p => Sys2Proof.Machine.execElemUnpkl a d e p s
  | .elemUnpkh a d e p => Sys2Proof.Machine.execElemUnpkh a d e p s
  | .elemPass a d t r e p => Sys2Proof.Machine.execElemPass a d t r e p s
  | .elemDup a d t r e p => Sys2Proof.Machine.execElemDup a d t r e p s
  | .elemSteert a b d t r e p => Sys2Proof.Machine.execElemSteert a b d t r e p s
  | .elemSteerf a b d t r e p => Sys2Proof.Machine.execElemSteerf a b d t r e p s
  | .elemMerge a b d t r e p => Sys2Proof.Machine.execElemMerge a b d t r e p s
  | .elemSelect a b d t r e p => Sys2Proof.Machine.execElemSelect a b d t r e p s
  | .elemConst a d t r e p => Sys2Proof.Machine.execElemConst a d t r e p s
  | .elemIter a b d t e p => Sys2Proof.Machine.execElemIter a b d t e p s
  | .elemCvth a d t r xs e p => Sys2Proof.Machine.execElemCvth a d t r xs e p s
  | .elemCvti a d t r xs e p => Sys2Proof.Machine.execElemCvti a d t r xs e p s
  | .elemCvtf a d t r xs e p => Sys2Proof.Machine.execElemCvtf a d t r xs e p s
  | .elemCvts a d t r xs e p => Sys2Proof.Machine.execElemCvts a d t r xs e p s
  | .elemHdrGet a d e p => Sys2Proof.Machine.execElemHdrGet a d e p s
  | .elemHdrPut a d e p => Sys2Proof.Machine.execElemHdrPut a d e p s
  | .elemLmac a b d e p => Sys2Proof.Machine.execElemLmac a b d e p s
  | .elemLfin a d e p => Sys2Proof.Machine.execElemLfin a d e p s
  | .elemBound a b d e p => Sys2Proof.Machine.execElemBound a b d e p s
  | .elemErrgen a d e p => Sys2Proof.Machine.execElemErrgen a d e p s
  | .elemSink a t r e p => Sys2Proof.Machine.execElemSink a t r e p s
  | .elemTlook a d e p => Sys2Proof.Machine.execElemTlook a d e p s
  | .elemRcsend a b d t r e p => Sys2Proof.Machine.execElemRcsend a b d t r e p s
  | .elemPhasen a d e p => Sys2Proof.Machine.execElemPhasen a d e p s
  | .elemThread a d e p => Sys2Proof.Machine.execElemThread a d e p s
  | .elemCtok a d e p => Sys2Proof.Machine.execElemCtok a d e p s
  | .bld asrc dsrc dst typ off seq pre suc first last => Sys2Proof.Machine.execBld asrc dsrc dst typ off seq pre suc first last s
  | .bst asrc dsrc dst typ off seq pre suc first last => Sys2Proof.Machine.execBst asrc dsrc dst typ off seq pre suc first last s
  | .mld asrc dsrc dst typ off seq pre suc first last => Sys2Proof.Machine.execMld asrc dsrc dst typ off seq pre suc first last s
  | .mst asrc dsrc dst typ off seq pre suc first last => Sys2Proof.Machine.execMst asrc dsrc dst typ off seq pre suc first last s
  | .matAdd asrc dsrc dst typ off seq pre suc first last => Sys2Proof.Machine.execMatAdd asrc dsrc dst typ off seq pre suc first last s
  | .matFadd asrc dsrc dst typ off seq pre suc first last => Sys2Proof.Machine.execMatFadd asrc dsrc dst typ off seq pre suc first last s
  | .matAnd asrc dsrc dst typ off seq pre suc first last => Sys2Proof.Machine.execMatAnd asrc dsrc dst typ off seq pre suc first last s
  | .matOr asrc dsrc dst typ off seq pre suc first last => Sys2Proof.Machine.execMatOr asrc dsrc dst typ off seq pre suc first last s
  | .matMin asrc dsrc dst typ off seq pre suc first last => Sys2Proof.Machine.execMatMin asrc dsrc dst typ off seq pre suc first last s
  | .matMax asrc dsrc dst typ off seq pre suc first last => Sys2Proof.Machine.execMatMax asrc dsrc dst typ off seq pre suc first last s
  | .matSwap asrc dsrc dst typ off seq pre suc first last => Sys2Proof.Machine.execMatSwap asrc dsrc dst typ off seq pre suc first last s
  | .routerTokenHop tile port cls vc => Sys2Proof.Machine.execRouterTokenHop tile port cls vc s
  | .actorFiringStart tile => Sys2Proof.Machine.execActorFiringStart tile s
  | .firingStep tile => Sys2Proof.Machine.execFiringStep tile s
  | .waveArrival ctx ticket tile => Sys2Proof.Machine.execWaveArrival ctx ticket tile s
  | .tileReconfigure tile => Sys2Proof.Machine.execTileReconfigure tile s
  | .configLoadComplete ctx ticket => Sys2Proof.Machine.execConfigLoadComplete ctx ticket s
  | .configLoadRefused ctx ticket => Sys2Proof.Machine.execConfigLoadRefused ctx ticket s
  | .threadEnqueue tile queue => Sys2Proof.Machine.execThreadEnqueue tile queue s
  | .blockSchedulerSelect lease => Sys2Proof.Machine.execBlockSchedulerSelect lease s
  | .memNodePerform lease idx => Sys2Proof.Machine.execMemNodePerform lease idx s
  | .memNodeReturn lease idx => Sys2Proof.Machine.execMemNodeReturn lease idx s
  | .edgeReadElement lease port => Sys2Proof.Machine.execEdgeReadElement lease port s
  | .edgeWriteCommit lease port => Sys2Proof.Machine.execEdgeWriteCommit lease port s
  | .wideEngineBeat lease port => Sys2Proof.Machine.execWideEngineBeat lease port s
  | .ringBeat lease ring => Sys2Proof.Machine.execRingBeat lease ring s
  | .kindleHandoff lease ring stop => Sys2Proof.Machine.execKindleHandoff lease ring stop s
  | .pressMma tile => Sys2Proof.Machine.execPressMma tile s
  | .pressMmaBeat tile => Sys2Proof.Machine.execPressMmaBeat tile s
  | .pressRead tile => Sys2Proof.Machine.execPressRead tile s
  | .pressDrain tile => Sys2Proof.Machine.execPressDrain tile s
  | .pressDrainBeat tile => Sys2Proof.Machine.execPressDrainBeat tile s
  | .pressZero tile => Sys2Proof.Machine.execPressZero tile s
  | .pressLoadw tile => Sys2Proof.Machine.execPressLoadw tile s
  | .flueTokenExp2 flue => Sys2Proof.Machine.execFlueTokenExp2 flue s
  | .flueTokenLog2 flue => Sys2Proof.Machine.execFlueTokenLog2 flue s
  | .flueTokenRcp flue => Sys2Proof.Machine.execFlueTokenRcp flue s
  | .flueTokenRsqrt flue => Sys2Proof.Machine.execFlueTokenRsqrt flue s
  | .flueTokenSqrt flue => Sys2Proof.Machine.execFlueTokenSqrt flue s
  | .flueTokenSinpi flue => Sys2Proof.Machine.execFlueTokenSinpi flue s
  | .flueTokenCospi flue => Sys2Proof.Machine.execFlueTokenCospi flue s
  | .flueTokenTanh flue => Sys2Proof.Machine.execFlueTokenTanh flue s
  | .flueTokenSigm flue => Sys2Proof.Machine.execFlueTokenSigm flue s
  | .flueTokenMalformed flue => Sys2Proof.Machine.execFlueTokenMalformed flue s
  | .flueReply flue => Sys2Proof.Machine.execFlueReply flue s
  | .copyUnit ctx ticket => Sys2Proof.Machine.execCopyUnit ctx ticket s
  | .stokerAccessComplete ctx => Sys2Proof.Machine.execStokerAccessComplete ctx s
  | .memorySideApply stack => Sys2Proof.Machine.execMemorySideApply stack s
  | .phasedWriteAtHome stack => Sys2Proof.Machine.execPhasedWriteAtHome stack s
  | .sweeperReturn die part => Sys2Proof.Machine.execSweeperReturn die part s
  | .phaseBoundaryComplete lease scope tile => Sys2Proof.Machine.execPhaseBoundaryComplete lease scope tile s
  | .contextWake ctx => Sys2Proof.Machine.execContextWake ctx s
  | .asyncEventTrap ctx => Sys2Proof.Machine.execAsyncEventTrap ctx s
  | .watchdogExpiry lease => Sys2Proof.Machine.execWatchdogExpiry lease s
  | .drainComplete lease => Sys2Proof.Machine.execDrainComplete lease s
  | .drainEscalation lease => Sys2Proof.Machine.execDrainEscalation lease s
  | .freezeReadoutComplete lease => Sys2Proof.Machine.execFreezeReadoutComplete lease s
  | .relocationComplete lease => Sys2Proof.Machine.execRelocationComplete lease s
  | .placerServe part => Sys2Proof.Machine.execPlacerServe part s
  | .leaseEnd lease => Sys2Proof.Machine.execLeaseEnd lease s
  | .launch part queue => Sys2Proof.Machine.execLaunch part queue s
  | .indirect part queue => Sys2Proof.Machine.execIndirect part queue s
  | .pred part queue => Sys2Proof.Machine.execPred part queue s
  | .loop part queue => Sys2Proof.Machine.execLoop part queue s
  | .waitPacket part queue => Sys2Proof.Machine.execWaitPacket part queue s
  | .waitPacketSatisfied part queue => Sys2Proof.Machine.execWaitPacketSatisfied part queue s
  | .waitPacketTimeout part queue => Sys2Proof.Machine.execWaitPacketTimeout part queue s
  | .signal part queue => Sys2Proof.Machine.execSignal part queue s
  | .copyPacket part queue => Sys2Proof.Machine.execCopyPacket part queue s
  | .prefetchPacket part queue => Sys2Proof.Machine.execPrefetchPacket part queue s
  | .discardPacket part queue => Sys2Proof.Machine.execDiscardPacket part queue s
  | .fetchFence part queue => Sys2Proof.Machine.execFetchFence part queue s
  | .commandProcessorRestart proc => Sys2Proof.Machine.execCommandProcessorRestart proc s
  | .registerWrite view off val => Sys2Proof.Machine.execRegisterWrite view off val s
  | .pcfgWrite view off val => Sys2Proof.Machine.execPcfgWrite view off val s
  | .rightsWrite view off val => Sys2Proof.Machine.execRightsWrite view off val s
  | .dietabWrite view off val => Sys2Proof.Machine.execDietabWrite view off val s
  | .allotWrite view off val => Sys2Proof.Machine.execAllotWrite view off val s
  | .poolsegWrite view off val => Sys2Proof.Machine.execPoolsegWrite view off val s
  | .ivcmd view off val => Sys2Proof.Machine.execIvcmd view off val s
  | .ivcmdDone part => Sys2Proof.Machine.execIvcmdDone part s
  | .migrateFrame part src dst => Sys2Proof.Machine.execMigrateFrame part src dst s
  | .lend view off val => Sys2Proof.Machine.execLend view off val s
  | .queueEnable view off val => Sys2Proof.Machine.execQueueEnable view off val s
  | .queueDisable view off val => Sys2Proof.Machine.execQueueDisable view off val s
  | .queueResume view off val => Sys2Proof.Machine.execQueueResume view off val s
  | .qtailDoorbell view off val => Sys2Proof.Machine.execQtailDoorbell view off val s
  | .cringHeadWrite view off val => Sys2Proof.Machine.execCringHeadWrite view off val s
  | .hqheadWrite view off val => Sys2Proof.Machine.execHqheadWrite view off val s
  | .faultReplyResume view off val => Sys2Proof.Machine.execFaultReplyResume view off val s
  | .faultReplySave view off val => Sys2Proof.Machine.execFaultReplySave view off val s
  | .faultReplyEnd view off val => Sys2Proof.Machine.execFaultReplyEnd view off val s
  | .dbgHaltUnit view off val => Sys2Proof.Machine.execDbgHaltUnit view off val s
  | .dbgResumeUnit view off val => Sys2Proof.Machine.execDbgResumeUnit view off val s
  | .dbgHaltLease view off val => Sys2Proof.Machine.execDbgHaltLease view off val s
  | .dbgResumeLease view off val => Sys2Proof.Machine.execDbgResumeLease view off val s
  | .dbgReadWord view off val => Sys2Proof.Machine.execDbgReadWord view off val s
  | .dbgWriteWord view off val => Sys2Proof.Machine.execDbgWriteWord view off val s
  | .mstatFullRetrain view off val => Sys2Proof.Machine.execMstatFullRetrain view off val s
  | .mstatClear view off val => Sys2Proof.Machine.execMstatClear view off val s
  | .dcfgWrite view off val => Sys2Proof.Machine.execDcfgWrite view off val s
  | .pkgidWrite view off val => Sys2Proof.Machine.execPkgidWrite view off val s
  | .gstatEnable view off val => Sys2Proof.Machine.execGstatEnable view off val s
  | .gstatClear view off val => Sys2Proof.Machine.execGstatClear view off val s
  | .connSetup view off val => Sys2Proof.Machine.execConnSetup view off val s
  | .connTeardown view off val => Sys2Proof.Machine.execConnTeardown view off val s
  | .circuitSetupDone entry => Sys2Proof.Machine.execCircuitSetupDone entry s
  | .circuitTeardownDone entry => Sys2Proof.Machine.execCircuitTeardownDone entry s
  | .asrcWrite view off val => Sys2Proof.Machine.execAsrcWrite view off val s
  | .mext view off val => Sys2Proof.Machine.execMext view off val s
  | .quarantine view off val => Sys2Proof.Machine.execQuarantine view off val s
  | .quarantineLift view off val => Sys2Proof.Machine.execQuarantineLift view off val s
  | .ftcmd view off val => Sys2Proof.Machine.execFtcmd view off val s
  | .ftcmdDone => Sys2Proof.Machine.execFtcmdDone s
  | .getVersion view off val => Sys2Proof.Machine.execGetVersion view off val s
  | .getCapabilities view off val => Sys2Proof.Machine.execGetCapabilities view off val s
  | .negotiateAlgorithms view off val => Sys2Proof.Machine.execNegotiateAlgorithms view off val s
  | .getCertificate view off val => Sys2Proof.Machine.execGetCertificate view off val s
  | .challenge view off val => Sys2Proof.Machine.execChallenge view off val s
  | .getMeasurements view off val => Sys2Proof.Machine.execGetMeasurements view off val s
  | .spdmUnsupportedRequest view off val => Sys2Proof.Machine.execSpdmUnsupportedRequest view off val s
  | .seamFlitReceive module dir crcOk faulty => Sys2Proof.Machine.execSeamFlitReceive module dir crcOk faulty s
  | .seamReplayTimeout module dir => Sys2Proof.Machine.execSeamReplayTimeout module dir s
  | .seamRetrainEnd module faulty => Sys2Proof.Machine.execSeamRetrainEnd module faulty s
  | .goriskFlitReceive port dir crcOk => Sys2Proof.Machine.execGoriskFlitReceive port dir crcOk s
  | .goriskRemoteRequest txn => Sys2Proof.Machine.execGoriskRemoteRequest txn s
  | .goriskRequestTimeout txn => Sys2Proof.Machine.execGoriskRequestTimeout txn s
  | .damperPeriod => Sys2Proof.Machine.execDamperPeriod s
  | .damperTick die => Sys2Proof.Machine.execDamperTick die s
  | .budgetPeriod => Sys2Proof.Machine.execBudgetPeriod s
  | .budgetReport die => Sys2Proof.Machine.execBudgetReport die s
  | .packageReset => Sys2Proof.Machine.execPackageReset s
  | .clockGlitch => Sys2Proof.Machine.execClockGlitch s
  | .supplyGlitch => Sys2Proof.Machine.execSupplyGlitch s
  | .tamperMesh => Sys2Proof.Machine.execTamperMesh s
  | .thermalTrip die => Sys2Proof.Machine.execThermalTrip die s
  | .goriskPortTrainingDone port lanes => Sys2Proof.Machine.execGoriskPortTrainingDone port lanes s
  | .goriskReplayTimeout port dir => Sys2Proof.Machine.execGoriskReplayTimeout port dir s
  | .frameMigrationComplete idx => Sys2Proof.Machine.execFrameMigrationComplete idx s
  | .resumeDone lease => Sys2Proof.Machine.execResumeDone lease s
  | .eret => Sys2Proof.Machine.execEret s
  | .wfe => Sys2Proof.Machine.execWfe s
  | .halt => Sys2Proof.Machine.execHalt s
  | .brk => Sys2Proof.Machine.execBrk s
  | .ifence => Sys2Proof.Machine.execIfence s

end Sys2Proof.Machine
end

