-- ==== Sys2Proof/Machine/Turn.lean ====
section
/-! DEFINITION. Which unit acts in a step and what it does (log entry 1): the agenda, the passing of time (01 R55), the damper's
account (12 R406), and the words that a test places. -/

namespace Sys2Proof.Machine

/-- What is left to do in a step: nothing, an instruction, or the packet in progress on a queue. -/
inductive Todo where
  | idle
  | instr (i : Instr)
  | packet (p q : Nat)
deriving DecidableEq, Repr

/-- R367: dt cycles pass for a lease whose units could make progress: none is halted by a debugger (R55, R378). -/
def leaseWait (s : State) (l : Nat) (x : Lease) (dt : Nat) : Lease :=
  if x.st = .running && !dbgStopped s l && !throttled x then { x with prog := x.prog + dt } else x

/-- The end of an fc for the units that act: its dues, and the ready actors of each tile (R46). -/
def turnFc (s : State) : State :=
  let t := endFc s
  { t with tiles := t.tiles.map (fun e => (e.1, e.2.age)) }

/-- dt fabric cycles pass: the present one ends, and the next begin. In a halted package no count runs but the clock (R440). -/
def advance (s : State) (dt : Nat) : State :=
  let s0 := if dt = 0 || s.pkg.state = 2 then s else turnFc s
  let s1 : State := { s0 with fc := s.fc + dt, ordn := s.ordn + 1 }
  if s.pkg.state = 2 || dt = 0 then s1 else { s1 with leases := s0.leases.map (fun e => (e.1, leaseWait s0 e.1 e.2 dt)) }

/-- The next act, and the state in which it takes place: the head of the agenda, or, where that is empty, a free one. -/
def dueAct (s : State) : What × State :=
  match s.agenda with
  | a :: r => (a.what, advance { s with agenda := r } a.dt)
  | [] => ((Config.freeAct s.freeN).what, advance { s with freeN := s.freeN + 1 } (Config.freeAct s.freeN).dt)

/-- The step that a halted package takes (R440, R441). -/
def Instr.isReset (i : Instr) : Bool :=
  match i with
  | .packageReset => true
  | _ => false

/-- A unit's turn: what it does before an instruction runs, and what runs. An instruction that a word encodes runs only from
its word. -/
def turn (w : What) (s : State) : State × Todo :=
  match w with
  | .issue st transit =>
    if s.pkg.state = 2 then (s, .idle)
    else match issueTurn s st transit with
      | (s1, some i) => (s1, .instr i)
      | (s1, none) => (s1, .idle)
  | .lane k =>
    if s.pkg.state = 2 then (s, .idle)
    else match laneTurn s k with
      | (s1, some i) => (s1, .instr i)
      | (s1, none) => (s1, .idle)
  | .cmd p =>
    if s.pkg.state = 2 then (s, .idle)
    else match cmdTurn s p with
      | (s1, some (a, b)) => (s1, .packet a b)
      | (s1, none) => (s1, .idle)
  | .event i =>
    if s.pkg.state = 2 && !Instr.isReset i then (s, .idle)
    else if (encode i).isEmpty then (s, .instr i)
    else (s, .idle)

/-- The die of the tile of an engine. -/
def engineDie (s : State) (l p : Nat) : Nat := tileDie (Tbl.get {} (s.lease l).engines p).tile

/-- R406: the die that spends units for an event, and the kind of the work: routers 1, seam modules 2 (the receiving side), press tiles 3,
flues 4, engines 5. The slices, 6, are charged by line. -/
def eventSpend (s : State) (i : Instr) : Option (Nat × Nat) :=
  match i with
  | .routerTokenHop t _ _ _ => some (tileDie t, 1)
  | .seamFlitReceive m dir _ _ => some (if dir = 0 then (seamDies (m / 16)).2 else (seamDies (m / 16)).1, 2)
  | .pressMma t => some (tileDie t, 3)
  | .pressMmaBeat t => some (tileDie t, 3)
  | .pressRead t => some (tileDie t, 3)
  | .pressDrain t => some (tileDie t, 3)
  | .pressDrainBeat t => some (tileDie t, 3)
  | .pressZero t => some (tileDie t, 3)
  | .pressLoadw t => some (tileDie t, 3)
  | .flueTokenExp2 f => some (f / 32, 4)
  | .flueTokenLog2 f => some (f / 32, 4)
  | .flueTokenRcp f => some (f / 32, 4)
  | .flueTokenRsqrt f => some (f / 32, 4)
  | .flueTokenSqrt f => some (f / 32, 4)
  | .flueTokenSinpi f => some (f / 32, 4)
  | .flueTokenCospi f => some (f / 32, 4)
  | .flueTokenTanh f => some (f / 32, 4)
  | .flueTokenSigm f => some (f / 32, 4)
  | .edgeReadElement l p => some (engineDie s l p, 5)
  | .edgeWriteCommit l p => some (engineDie s l p, 5)
  | .wideEngineBeat l p => some (engineDie s l p, 5)
  | .memNodePerform l i => some (engineDie s l ((((s.lease l).nodes[i]?).map (fun q => q.lane)).getD 0), 5)
  | .copyUnit k _ => some (ctxDie k, 5)
  | _ => none

/-- R406: the die that spends units for an act, and the kind of the work: lanes 0. -/
def spendOf (s : State) (w : What) : Option (Nat × Nat) :=
  match w with
  | .issue _ _ => none
  | .lane k => some (tileDie k, 0)
  | .cmd _ => none
  | .event i => eventSpend s i

/-- R366: the records of each freeze whose units have all stopped. -/
def noteLate (s : State) : State :=
  s.leases.foldl (fun s e => if !e.2.late.isEmpty && sentDone s e.1 then writeLate s e.1 else s) s

/-- The end of a step: the units that an act which changed anything spent, the records of a freeze, and the waiting packets whose words
changed; nothing follows in a halted package (R440). -/
def settle (w : What) (s t : State) : State :=
  if t.pkg.state = 2 then t
  else noteWaits (noteLate (chargeHits <| match spendOf s w with
    | none => t
    | some (die, kind) => if t = s then t else charge t die kind 1))

/-! ### A placed word (log entry 9) -/

/-- The package after its boot, with lease 1 of a partition running on die 0 (log entry 9). -/
def State.placed (s : State) : State :=
  { s with
    pkg := { s.pkg with state := 1 }
    parts := Tbl.set {} s.parts 33 { s.part 33 with pcfg := 1#64 }
    leases := Tbl.set {} s.leases 1 { s.lease 1 with st := .running, part := 33 }
    tiles := Tbl.set {} s.tiles 0 { s.tile 0 with lease := some 1, configured := true } }

/-- A control word at the address that context 0 of stoker 0 fetches next. -/
def State.withControl (s : State) (w : Code) : State :=
  let c := s.ctx 0
  let st := s.stoker 0
  let pa := c.pc.toNat % 65536
  let page : TlbEnt :=
    { lease := 1, va := c.pc.toNat - pa, size := 65536, pa := 0, attr := { r := true, w := true, x := true } }
  { s.placed with
    agenda := [{ what := .issue 0 false }]
    ctxs := Tbl.set {} s.ctxs 0 { c with
      st := .ready, lease := 1, busy := none, repOn := false, fbuf := [], dbgHalt := false, evq := [] }
    stokers := Tbl.set {} s.stokers 0 { st with last := 7, tlb := [page] }
    tags := Tbl.set 0xFFFF s.tags 0 (BitVec.ofNat 16 (mkTag 33 0))
    mem := s.mem.writeN pa 4 w.toNat }

/-- An operation word at the lane that tile 0 runs next, with two data tokens in each input queue. -/
def State.withElement (s : State) (w : Code) : State :=
  let q : List Token := [{}, {}]
  let t : Tile := { lease := some 1, configured := true
                    ops := Tbl.set 0 [] 0 w
                    actors := Tbl.set 0 [] 0 ((0 : BitVec 64).put 63 1 1)
                    inq := [(0, q), (1, q), (2, q), (3, q)]
                    firing := some {} }
  { s.placed with agenda := [{ what := .lane 0 }], tiles := Tbl.set {} s.tiles 0 t }

end Sys2Proof.Machine
end

