-- ==== Sys2Proof/Machine/Step.lean ====
section
/-! DEFINITION. One step of the machine: the unit that the agenda names takes its turn, and what it runs runs. -/

namespace Sys2Proof.Machine

/-- The end of a step whose instruction has answered. -/
def finish (w : What) (s : State) (o : Out) : Out :=
  match o with
  | .next t => .next (settle w s t)
  | .fault e => .fault e
  | .refused e => .refused e

def step (s : State) : Host.Outcome State Fault Refusal :=
  match turn (dueAct s).1 (dueAct s).2 with
  | (s1, .idle) => .next (settle (dueAct s).1 (dueAct s).2 s1)
  | (s1, .instr i) => finish (dueAct s).1 s1 (exec i s1)
  | (s1, .packet p q) => finish (dueAct s).1 s1 (runPacket s1 p q)

/-- s with an instruction of nbits bits stored where step fetches its next instruction: a control word at the pc of context 0,
or an operation word at the lane that tile 0 runs next. -/
def State.withFetchWord (s : State) (nbits w : Nat) : State :=
  let c := BitVec.ofNat 32 (w % 2 ^ nbits)
  if Decode.isIllegal (decodeControl c) then
    match decodeElement c with
    | .ok _ => s.withElement c
    | .error _ => s.withControl c
  else s.withControl c

end Sys2Proof.Machine
end

