-- ==== Sys2Proof/WellFormed.lean ====
section
/-! DEFINITION. Which instructions are well formed: the conditions that the widths of an instruction's fields do
not already state. A control word: modes, formats, scopes, orders and strides (R60, R113, R115). An element word
and a memory node: the loader's conditions (R65, R66, R118, R119). A step that no word encodes is well formed
whatever it names: one that cannot take place changes nothing (log entry 1). -/

namespace Sys2Proof

/-- R58 to R66, R113 to R119: the instruction has an encoding that the part accepts. -/
def Instr.wf (i : Instr) : Bool :=
  match i with
  | .illegal _ => true
  | .add _ _ _ => true
  | .sub _ _ _ => true
  | .and _ _ _ => true
  | .or _ _ _ => true
  | .xor _ _ _ => true
  | .andn _ _ _ => true
  | .shl _ _ _ => true
  | .shr _ _ _ => true
  | .sra _ _ _ => true
  | .rol _ _ _ => true
  | .ror _ _ _ => true
  | .slt _ _ _ => true
  | .sltu _ _ _ => true
  | .min _ _ _ => true
  | .max _ _ _ => true
  | .minu _ _ _ => true
  | .maxu _ _ _ => true
  | .mul _ _ _ => true
  | .mulh _ _ _ => true
  | .mulhu _ _ _ => true
  | .div _ _ _ => true
  | .divu _ _ _ => true
  | .rem _ _ _ => true
  | .remu _ _ _ => true
  | .clz _ _ => true
  | .ctz _ _ => true
  | .popc _ _ => true
  | .brev _ _ => true
  | .bswap _ _ => true
  | .sel _ _ _ _ => true
  | .addw _ _ _ => true
  | .subw _ _ _ => true
  | .satadd _ _ _ => true
  | .satsub _ _ _ => true
  | .muladd _ _ _ _ => true
  | .addi _ _ _ => true
  | .andi _ _ _ => true
  | .ori _ _ _ => true
  | .xori _ _ _ => true
  | .slti _ _ _ => true
  | .sltiu _ _ _ => true
  | .shli _ _ _ => true
  | .shri _ _ _ => true
  | .srai _ _ _ => true
  | .lui _ _ => true
  | .insh _ _ _ => true
  | .addpc _ _ => true
  | .beq _ _ _ => true
  | .bne _ _ _ => true
  | .blt _ _ _ => true
  | .bge _ _ _ => true
  | .bltu _ _ _ => true
  | .bgeu _ _ _ => true
  | .jal _ _ => true
  | .jalr _ _ _ => true
  | .ldb _ _ _ => true
  | .ldbu _ _ _ => true
  | .ldh _ _ _ => true
  | .ldhu _ _ _ => true
  | .ldw _ _ _ => true
  | .ldwu _ _ _ => true
  | .ldd _ _ _ => true
  | .stb _ _ _ => true
  | .sth _ _ _ => true
  | .stw _ _ _ => true
  | .std _ _ _ => true
  | .fldw _ _ _ => true
  | .fldd _ _ _ => true
  | .fstw _ _ _ => true
  | .fstd _ _ _ => true
  | .amov _ _ => true
  | .aadd _ _ _ => true
  | .aset _ _ _ => true
  | .agetl _ _ => true
  | .ageth _ _ => true
  | .acmp _ _ _ => true
  | .aaddi _ _ _ => true
  | .fadd _ _ _ _ => true
  | .fsub _ _ _ _ => true
  | .fmul _ _ _ _ => true
  | .fdiv _ _ _ _ => true
  | .fsqrt _ _ m _ => (Form.modeOk m)
  | .fmin _ _ _ _ => true
  | .fmax _ _ _ _ => true
  | .ffma _ _ _ _ => true
  | .ffms _ _ _ _ => true
  | .fneg _ _ _ => true
  | .fabs _ _ _ => true
  | .fcpys _ _ _ _ => true
  | .feq _ _ _ _ => true
  | .flt _ _ _ _ => true
  | .fle _ _ _ _ => true
  | .fcvt _ _ m x y => (Form.modeOk m) && (x != 3 && y != 3 && x != y)
  | .fcvti _ _ m _ y => (Form.modeOk m) && (y != 3)
  | .icvtf _ _ m x _ => (Form.modeOk m) && (x != 3)
  | .fmvg _ _ => true
  | .gmvf _ _ => true
  | .trap _ => true
  | .eret => true
  | .csrr _ _ => true
  | .csrw _ _ => true
  | .csrs _ _ => true
  | .csrc _ _ => true
  | .wfe => true
  | .halt => true
  | .brk => true
  | .ifence => true
  | .cfgLoad _ _ _ => true
  | .cfgWait _ _ => true
  | .opw _ _ => true
  | .sww _ _ => true
  | .portBind _ _ _ => true
  | .portUnbind _ _ => true
  | .inj _ _ _ => true
  | .ext _ _ => true
  | .leaseDrain _ _ => true
  | .leaseFreeze _ _ => true
  | .leaseResume _ _ _ => true
  | .leaseMove _ _ _ => true
  | .sweep _ _ _ => true
  | .ringDef _ _ _ => true
  | .ringInj _ _ _ => true
  | .mtWrite _ _ _ => true
  | .mtClear _ _ => true
  | .ringGo _ _ => true
  | .ringStat _ _ => true
  | .ringStop _ _ _ => true
  | .rcSend _ _ _ => true
  | .rcMask _ => true
  | .rcUnmask _ => true
  | .rcRoute _ _ => true
  | .evPop _ => true
  | .evPeek _ => true
  | .evPost _ _ _ => true
  | .phase s => (Form.scope06 s)
  | .fence s q r => (Form.scope06 s) && (q == 1 || r == 1)
  | .pref _ _ s => (Form.scope14 s)
  | .discard _ _ s => (Form.scope14 s)
  | .tsread _ => true
  | .atAdd _ _ _ _ _ _ _ => true
  | .atFadd _ _ _ _ _ _ => true
  | .atAnd _ _ _ _ _ _ _ => true
  | .atOr _ _ _ _ _ _ _ => true
  | .atXor _ _ _ _ _ _ _ => true
  | .atMin _ _ _ _ _ _ _ => true
  | .atMax _ _ _ _ _ _ _ => true
  | .atMinn _ _ _ _ _ _ _ => true
  | .atMaxn _ _ _ _ _ _ _ => true
  | .atSwap _ _ _ _ _ _ _ => true
  | .atCas _ _ _ _ _ _ _ => true
  | .atInc _ _ _ _ _ _ _ => true
  | .barInit _ _ s => (Form.scope06 s)
  | .barArrive _ _ _ _ => true
  | .barDrop _ _ _ _ => true
  | .barExpect _ _ => true
  | .barWait _ _ _ => true
  | .barTest _ _ _ _ => true
  | .snapOpen _ _ _ s => (Form.scope06 s)
  | .snapAdd _ _ _ => true
  | .snapKeep _ _ => true
  | .snapDrop _ _ => true
  | .snapQuery _ _ => true
  | .tagLook _ _ _ => true
  | .tagFill _ _ _ => true
  | .tagEvict _ _ => true
  | .tagClear _ => true
  | .cpyLin _ _ _ _ _ _ => true
  | .cpyTwo _ _ _ _ _ _ => true
  | .cpyGather _ _ _ _ _ _ => true
  | .cpyScatter _ _ _ _ _ _ => true
  | .cpyFill _ _ _ _ _ _ => true
  | .cpyWait _ _ => true
  | .cpyStat _ _ => true
  | .cbInit _ _ => true
  | .cbPush _ _ _ s r => (Form.scopeOrd s (r == 1))
  | .cbPop _ _ _ s q => (Form.scopeOrd s (q == 1))
  | .cbAvail _ _ => true
  | .cbRoom _ _ => true
  | .prsIssue _ _ _ s q r => (Form.scopeOrd s (q == 1 || r == 1))
  | .prsRead _ _ _ => true
  | .flueExp2 _ _ => true
  | .flueLog2 _ _ => true
  | .flueRcp _ _ => true
  | .flueRsqrt _ _ => true
  | .flueSqrt _ _ => true
  | .flueSinpi _ _ => true
  | .flueCospi _ _ => true
  | .flueTanh _ _ => true
  | .flueSigm _ _ => true
  | .rep _ d a b e f g => (Form.strideOk d e && Form.strideOk a f && Form.strideOk b g)
  | .elemNop _ => Form.elemBad 0x00 0 0 0 0 0 0 0 == none
  | .elemAdd a b d t s _ p => Form.elemBad 0x01 a b d t 0 s p == none
  | .elemSub a b d t s _ p => Form.elemBad 0x02 a b d t 0 s p == none
  | .elemMul a b d t s _ p => Form.elemBad 0x03 a b d t 0 s p == none
  | .elemMulh a b d t _ p => Form.elemBad 0x04 a b d t 0 0 p == none
  | .elemMac a b d t s _ p => Form.elemBad 0x05 a b d t 0 s p == none
  | .elemMin a b d t _ p => Form.elemBad 0x06 a b d t 0 0 p == none
  | .elemMax a b d t _ p => Form.elemBad 0x07 a b d t 0 0 p == none
  | .elemAbs a d t s _ p => Form.elemBad 0x08 a 0 d t 0 s p == none
  | .elemNeg a d t s _ p => Form.elemBad 0x09 a 0 d t 0 s p == none
  | .elemAnd a b d t _ p => Form.elemBad 0x0A a b d t 0 0 p == none
  | .elemOr a b d t _ p => Form.elemBad 0x0B a b d t 0 0 p == none
  | .elemXor a b d t _ p => Form.elemBad 0x0C a b d t 0 0 p == none
  | .elemNot a d t _ p => Form.elemBad 0x0D a 0 d t 0 0 p == none
  | .elemShl a b d t s _ p => Form.elemBad 0x0E a b d t 0 s p == none
  | .elemShr a b d t _ p => Form.elemBad 0x0F a b d t 0 0 p == none
  | .elemSra a b d t _ p => Form.elemBad 0x10 a b d t 0 0 p == none
  | .elemClz a d t _ p => Form.elemBad 0x11 a 0 d t 0 0 p == none
  | .elemPopc a d t _ p => Form.elemBad 0x12 a 0 d t 0 0 p == none
  | .elemFadd a b d t r s _ p => Form.elemBad 0x18 a b d t r s p == none
  | .elemFsub a b d t r s _ p => Form.elemBad 0x19 a b d t r s p == none
  | .elemFmul a b d t r s _ p => Form.elemBad 0x1A a b d t r s p == none
  | .elemFfma a b d t r s _ p => Form.elemBad 0x1B a b d t r s p == none
  | .elemFmin a b d t r s _ p => Form.elemBad 0x1C a b d t r s p == none
  | .elemFmax a b d t r s _ p => Form.elemBad 0x1D a b d t r s p == none
  | .elemFabs a d t r _ p => Form.elemBad 0x1E a 0 d t r 0 p == none
  | .elemFneg a d t r _ p => Form.elemBad 0x1F a 0 d t r 0 p == none
  | .elemCmpeq a b d t r s _ p => Form.elemBad 0x20 a b d t r s p == none
  | .elemCmpne a b d t r s _ p => Form.elemBad 0x21 a b d t r s p == none
  | .elemCmplt a b d t r s _ p => Form.elemBad 0x22 a b d t r s p == none
  | .elemCmple a b d t r s _ p => Form.elemBad 0x23 a b d t r s p == none
  | .elemPack a b d s _ p => Form.elemBad 0x24 a b d 9 0 s p == none
  | .elemUnpkl a d _ p => Form.elemBad 0x25 a 0 d 9 0 0 p == none
  | .elemUnpkh a d _ p => Form.elemBad 0x26 a 0 d 9 0 0 p == none
  | .elemPass a d t r _ p => Form.elemBad 0x28 a 0 d t r 0 p == none
  | .elemDup a d t r _ p => Form.elemBad 0x29 a 0 d t r 0 p == none
  | .elemSteert a b d t r _ p => Form.elemBad 0x2A a b d t r 0 p == none
  | .elemSteerf a b d t r _ p => Form.elemBad 0x2B a b d t r 0 p == none
  | .elemMerge a b d t r _ p => Form.elemBad 0x2C a b d t r 0 p == none
  | .elemSelect a b d t r _ p => Form.elemBad 0x2D a b d t r 0 p == none
  | .elemConst a d t r _ p => Form.elemBad 0x30 a 0 d t r 0 p == none
  | .elemIter a b d t _ p => Form.elemBad 0x31 a b d t 0 0 p == none
  | .elemCvth a d t r s _ p => Form.elemBad 0x38 a 0 d t r s p == none
  | .elemCvti a d t r s _ p => Form.elemBad 0x39 a 0 d t r s p == none
  | .elemCvtf a d t r s _ p => Form.elemBad 0x3A a 0 d t r s p == none
  | .elemCvts a d t r s _ p => Form.elemBad 0x3B a 0 d t r s p == none
  | .elemHdrGet a d _ p => Form.elemBad 0x3C a 0 d 2 0 0 p == none
  | .elemHdrPut a d _ p => Form.elemBad 0x3D a 0 d 2 0 0 p == none
  | .elemLmac a b d _ p => Form.elemBad 0x40 a b d 8 0 0 p == none
  | .elemLfin a d _ p => Form.elemBad 0x41 a 0 d 8 0 0 p == none
  | .bld asrc dsrc dst typ off seq pre suc first last => Form.nodeBad 0x48 asrc dsrc dst typ off seq pre suc first last == none
  | .bst asrc dsrc dst typ off seq pre suc first last => Form.nodeBad 0x49 asrc dsrc dst typ off seq pre suc first last == none
  | .mld asrc dsrc dst typ off seq pre suc first last => Form.nodeBad 0x4A asrc dsrc dst typ off seq pre suc first last == none
  | .mst asrc dsrc dst typ off seq pre suc first last => Form.nodeBad 0x4B asrc dsrc dst typ off seq pre suc first last == none
  | .matAdd asrc dsrc dst typ off seq pre suc first last => Form.nodeBad 0x4C asrc dsrc dst typ off seq pre suc first last == none
  | .matFadd asrc dsrc dst typ off seq pre suc first last => Form.nodeBad 0x4D asrc dsrc dst typ off seq pre suc first last == none
  | .matAnd asrc dsrc dst typ off seq pre suc first last => Form.nodeBad 0x4E asrc dsrc dst typ off seq pre suc first last == none
  | .matOr asrc dsrc dst typ off seq pre suc first last => Form.nodeBad 0x4F asrc dsrc dst typ off seq pre suc first last == none
  | .matMin asrc dsrc dst typ off seq pre suc first last => Form.nodeBad 0x50 asrc dsrc dst typ off seq pre suc first last == none
  | .matMax asrc dsrc dst typ off seq pre suc first last => Form.nodeBad 0x51 asrc dsrc dst typ off seq pre suc first last == none
  | .matSwap asrc dsrc dst typ off seq pre suc first last => Form.nodeBad 0x52 asrc dsrc dst typ off seq pre suc first last == none
  | .elemBound a b d _ p => Form.elemBad 0x58 a b d 2 0 0 p == none
  | .elemErrgen a d _ p => Form.elemBad 0x59 a 0 d 2 0 0 p == none
  | .elemSink a t r _ p => Form.elemBad 0x5A a 0 7 t r 0 p == none
  | .elemTlook a d _ p => Form.elemBad 0x5C a 0 d 2 0 0 p == none
  | .elemRcsend a b d t r _ p => Form.elemBad 0x60 a b d t r 0 p == none
  | .elemPhasen a d _ p => Form.elemBad 0x61 a 0 d 2 0 0 p == none
  | .elemThread a d _ p => Form.elemBad 0x62 a 0 d 2 0 0 p == none
  | .elemCtok a d _ p => Form.elemBad 0x63 a 0 d 2 0 0 p == none
  | .routerTokenHop _ _ _ _ => true
  | .actorFiringStart _ => true
  | .firingStep _ => true
  | .waveArrival _ _ _ => true
  | .tileReconfigure _ => true
  | .configLoadComplete _ _ => true
  | .configLoadRefused _ _ => true
  | .threadEnqueue _ _ => true
  | .blockSchedulerSelect _ => true
  | .memNodePerform _ _ => true
  | .memNodeReturn _ _ => true
  | .edgeReadElement _ _ => true
  | .edgeWriteCommit _ _ => true
  | .wideEngineBeat _ _ => true
  | .ringBeat _ _ => true
  | .kindleHandoff _ _ _ => true
  | .pressMma _ => true
  | .pressMmaBeat _ => true
  | .pressRead _ => true
  | .pressDrain _ => true
  | .pressDrainBeat _ => true
  | .pressZero _ => true
  | .pressLoadw _ => true
  | .flueTokenExp2 _ => true
  | .flueTokenLog2 _ => true
  | .flueTokenRcp _ => true
  | .flueTokenRsqrt _ => true
  | .flueTokenSqrt _ => true
  | .flueTokenSinpi _ => true
  | .flueTokenCospi _ => true
  | .flueTokenTanh _ => true
  | .flueTokenSigm _ => true
  | .flueTokenMalformed _ => true
  | .flueReply _ => true
  | .copyUnit _ _ => true
  | .stokerAccessComplete _ => true
  | .memorySideApply _ => true
  | .phasedWriteAtHome _ => true
  | .sweeperReturn _ _ => true
  | .phaseBoundaryComplete _ _ _ => true
  | .contextWake _ => true
  | .asyncEventTrap _ => true
  | .watchdogExpiry _ => true
  | .drainComplete _ => true
  | .drainEscalation _ => true
  | .freezeReadoutComplete _ => true
  | .relocationComplete _ => true
  | .placerServe _ => true
  | .leaseEnd _ => true
  | .launch _ _ => true
  | .indirect _ _ => true
  | .pred _ _ => true
  | .loop _ _ => true
  | .waitPacket _ _ => true
  | .waitPacketSatisfied _ _ => true
  | .waitPacketTimeout _ _ => true
  | .signal _ _ => true
  | .copyPacket _ _ => true
  | .prefetchPacket _ _ => true
  | .discardPacket _ _ => true
  | .fetchFence _ _ => true
  | .commandProcessorRestart _ => true
  | .registerWrite _ _ _ => true
  | .pcfgWrite _ _ _ => true
  | .rightsWrite _ _ _ => true
  | .dietabWrite _ _ _ => true
  | .allotWrite _ _ _ => true
  | .poolsegWrite _ _ _ => true
  | .ivcmd _ _ _ => true
  | .ivcmdDone _ => true
  | .migrateFrame _ _ _ => true
  | .lend _ _ _ => true
  | .queueEnable _ _ _ => true
  | .queueDisable _ _ _ => true
  | .queueResume _ _ _ => true
  | .qtailDoorbell _ _ _ => true
  | .cringHeadWrite _ _ _ => true
  | .hqheadWrite _ _ _ => true
  | .faultReplyResume _ _ _ => true
  | .faultReplySave _ _ _ => true
  | .faultReplyEnd _ _ _ => true
  | .dbgHaltUnit _ _ _ => true
  | .dbgResumeUnit _ _ _ => true
  | .dbgHaltLease _ _ _ => true
  | .dbgResumeLease _ _ _ => true
  | .dbgReadWord _ _ _ => true
  | .dbgWriteWord _ _ _ => true
  | .mstatFullRetrain _ _ _ => true
  | .mstatClear _ _ _ => true
  | .dcfgWrite _ _ _ => true
  | .pkgidWrite _ _ _ => true
  | .gstatEnable _ _ _ => true
  | .gstatClear _ _ _ => true
  | .connSetup _ _ _ => true
  | .connTeardown _ _ _ => true
  | .circuitSetupDone _ => true
  | .circuitTeardownDone _ => true
  | .asrcWrite _ _ _ => true
  | .mext _ _ _ => true
  | .quarantine _ _ _ => true
  | .quarantineLift _ _ _ => true
  | .ftcmd _ _ _ => true
  | .ftcmdDone => true
  | .getVersion _ _ _ => true
  | .getCapabilities _ _ _ => true
  | .negotiateAlgorithms _ _ _ => true
  | .getCertificate _ _ _ => true
  | .challenge _ _ _ => true
  | .getMeasurements _ _ _ => true
  | .spdmUnsupportedRequest _ _ _ => true
  | .seamFlitReceive _ _ _ _ => true
  | .seamReplayTimeout _ _ => true
  | .seamRetrainEnd _ _ => true
  | .goriskFlitReceive _ _ _ => true
  | .goriskRemoteRequest _ => true
  | .goriskRequestTimeout _ => true
  | .damperPeriod => true
  | .damperTick _ => true
  | .budgetPeriod => true
  | .budgetReport _ => true
  | .packageReset => true
  | .clockGlitch => true
  | .supplyGlitch => true
  | .tamperMesh => true
  | .thermalTrip _ => true
  | .goriskPortTrainingDone _ _ => true
  | .goriskReplayTimeout _ _ => true
  | .frameMigrationComplete _ => true
  | .resumeDone _ => true

end Sys2Proof
end

