-- ==== Sys2Proof/Laws/PerInstr.lean ====
section
/-! SUPPORT. Statements made for each instruction. RoundTrip: what carries an instruction reads back as that instruction. -/

set_option Elab.async false

open Sys2Proof Sys2Proof.Form

namespace Sys2Proof.Laws.RoundTrip

/-- The words of a memory node read back as the node. -/
def NodeBack (i : Instr) (ws : List Code) : Prop :=
  match ws with
  | [u, v] => ∃ n, i.asNode = some n ∧ ∀ rest, decodeNodeBytes (wordBytes u ++ wordBytes v ++ rest) = .ok (n, rest)
  | _ => False

/-- One word reads back as the instruction, whatever follows it. -/
def WordBack (dec : List Byte → Except Reject (Instr × List Byte)) (i : Instr) (ws : List Code) : Prop :=
  match ws with
  | [w] => ∀ rest, dec (wordBytes w ++ rest) = .ok (i, rest)
  | _ => False

/-- A well-formed instruction is read back from its bytes with every operand, by the decoder of what carries it; a step that no
word carries has no word. -/
def Statement (i : Instr) : Prop :=
  i.wf = true →
  match i.carrier with
  | .control => WordBack decodeBytes i (encode i)
  | .element => WordBack decodeElemBytes i (encode i)
  | .node => NodeBack i (encode i)
  | .step => encode i = []

/-! ### Fields of an appended word -/

variable {m n : Nat} {x : BitVec m} {y : BitVec n} {a k : Nat} {v : BitVec k}

/-- A field that lies in the low part. -/
theorem lo (e : y.extractLsb' a k = v) (h : a + k ≤ n := by decide) : (x ++ y).extractLsb' a k = v :=
  (BitVec.extractLsb'_append_eq_of_add_le h).trans e

/-- A field that lies in the high part. -/
theorem hi (e : x.extractLsb' (a - n) k = v) (h : n ≤ a := by decide) : (x ++ y).extractLsb' a k = v :=
  (BitVec.extractLsb'_append_eq_of_le h).trans e

/-- The whole of a part. -/
theorem all_ {n : Nat} {x : BitVec n} : x.extractLsb' 0 n = x := by simp

/-- A word is the word that its bytes spell. -/
theorem bytes_word (w : Code) : bytesWord (fld w 0 8) (fld w 8 8) (fld w 16 8) (fld w 24 8) = w := by
  apply BitVec.eq_of_getLsbD_eq
  intro i hi
  simp only [bytesWord, fld, BitVec.getLsbD_append, BitVec.getLsbD_extractLsb']
  rcases Nat.lt_or_ge i 8 with h | h
  · simp [h]
  · rcases Nat.lt_or_ge i 16 with h1 | h1
    · have e : 8 + (i - 8) = i := by omega
      have f : i - 8 < 8 := by omega
      simp [Nat.not_lt.mpr h, f, e]
    · rcases Nat.lt_or_ge i 24 with h2 | h2
      · have e : 16 + (i - 16) = i := by omega
        have f : i - 16 < 8 := by omega
        have g : ¬ i - 8 < 8 := by omega
        have k : i - 8 - 8 = i - 16 := by omega
        simp [Nat.not_lt.mpr h, f, e, g, k]
      · have e : 24 + (i - 24) = i := by omega
        have f : i - 24 < 8 := by omega
        have g : ¬ i - 8 < 8 := by omega
        have k : i - 8 - 8 - 8 = i - 24 := by omega
        have l : ¬ i - 8 - 8 < 8 := by omega
        simp [Nat.not_lt.mpr h, f, e, g, k, l]

theorem control_back {w : Code} {i : Instr} (h : decodeControl w = .ok i) : WordBack decodeBytes i [w] := by
  intro rest
  simp only [wordBytes, List.cons_append, List.nil_append, decodeBytes, bytes_word, h]
  rfl

theorem element_back {w : Code} {i : Instr} (h : decodeElement w = .ok i) : WordBack decodeElemBytes i [w] := by
  intro rest
  simp only [wordBytes, List.cons_append, List.nil_append, decodeElemBytes, bytes_word, h]
  rfl

/-- The loader's conditions of an operation word. -/
theorem elem_ok {w : Code} {opc : Nat} {i : Instr} (h : elemBad opc (fld w 22 3) (fld w 19 3) (fld w 16 3) (fld w 12 4)
    (fld w 10 2) (fld w 9 1) (fld w 0 8) = none) : Decode.elemIf w opc i = .ok i := by
  simp only [Decode.elemIf, h]

theorem node_back {u v : Code} {i : Instr} (n : NodeForm) (hi : i.asNode = some n) (hb : (NodeForm.ofWords u v).bad = none)
    (hn : NodeForm.ofWords u v = n := by rfl) : NodeBack i [u, v] := by
  refine ⟨n, hi, fun rest => ?_⟩
  have hn' : n.bad = none := hn ▸ hb
  simp only [wordBytes, List.cons_append, List.nil_append, decodeNodeBytes, bytes_word, decodeNode, hn, hn']
  rfl

/-! ### One lemma per constructor -/

end Sys2Proof.Laws.RoundTrip

open Sys2Proof.Laws.RoundTrip

theorem Sys2Proof.Laws.RoundTrip.illegal (x : BitVec 26) : Statement (.illegal x) := by
  intro hwf
  refine control_back ?_
  obtain ⟨cw, hw⟩ : ∃ cw : Code, cw = 0#6 ++ x := ⟨_, rfl⟩
  rw [← hw]
  have h26_6 : fld cw 26 6 = 0#6 := hw ▸ hi rfl
  have h0_26 : fld cw 0 26 = x := hw ▸ lo all_
  clear hw
  refine (show decodeControl cw = .ok (.illegal (fld cw 0 26)) by unfold decodeControl; rw [h26_6]; rfl).trans ?_
  simp only [h0_26]

theorem Sys2Proof.Laws.RoundTrip.add (d : BitVec 5) (a : BitVec 5) (b : BitVec 5) : Statement (.add d a b) := by
  intro hwf
  refine control_back ?_
  obtain ⟨cw, hw⟩ : ∃ cw : Code, cw = 1#6 ++ d ++ a ++ b ++ 0#11 := ⟨_, rfl⟩
  rw [← hw]
  have h26_6 : fld cw 26 6 = 1#6 := hw ▸ hi (hi (hi (hi rfl)))
  have h0_6 : fld cw 0 6 = 0#6 := hw ▸ lo rfl
  have h6_5 : fld cw 6 5 = 0#5 := hw ▸ lo rfl
  have h21_5 : fld cw 21 5 = d := hw ▸ hi (hi (hi (lo all_)))
  have h16_5 : fld cw 16 5 = a := hw ▸ hi (hi (lo all_))
  have h11_5 : fld cw 11 5 = b := hw ▸ hi (lo all_)
  clear hw
  refine (show decodeControl cw = Decode.alu cw by unfold decodeControl; rw [h26_6]; rfl).trans ?_
  refine (show Decode.alu cw = Decode.need (fld cw 6 5 == 0) .unusedField (.ok (.add (fld cw 21 5) (fld cw 16 5) (fld cw 11 5))) by unfold Decode.alu; rw [h0_6]; rfl).trans ?_
  simp only [h6_5, h21_5, h16_5, h11_5]
  rfl

theorem Sys2Proof.Laws.RoundTrip.sub (d : BitVec 5) (a : BitVec 5) (b : BitVec 5) : Statement (.sub d a b) := by
  intro hwf
  refine control_back ?_
  obtain ⟨cw, hw⟩ : ∃ cw : Code, cw = 1#6 ++ d ++ a ++ b ++ 1#11 := ⟨_, rfl⟩
  rw [← hw]
  have h26_6 : fld cw 26 6 = 1#6 := hw ▸ hi (hi (hi (hi rfl)))
  have h0_6 : fld cw 0 6 = 1#6 := hw ▸ lo rfl
  have h6_5 : fld cw 6 5 = 0#5 := hw ▸ lo rfl
  have h21_5 : fld cw 21 5 = d := hw ▸ hi (hi (hi (lo all_)))
  have h16_5 : fld cw 16 5 = a := hw ▸ hi (hi (lo all_))
  have h11_5 : fld cw 11 5 = b := hw ▸ hi (lo all_)
  clear hw
  refine (show decodeControl cw = Decode.alu cw by unfold decodeControl; rw [h26_6]; rfl).trans ?_
  refine (show Decode.alu cw = Decode.need (fld cw 6 5 == 0) .unusedField (.ok (.sub (fld cw 21 5) (fld cw 16 5) (fld cw 11 5))) by unfold Decode.alu; rw [h0_6]; rfl).trans ?_
  simp only [h6_5, h21_5, h16_5, h11_5]
  rfl

theorem Sys2Proof.Laws.RoundTrip.and (d : BitVec 5) (a : BitVec 5) (b : BitVec 5) : Statement (.and d a b) := by
  intro hwf
  refine control_back ?_
  obtain ⟨cw, hw⟩ : ∃ cw : Code, cw = 1#6 ++ d ++ a ++ b ++ 2#11 := ⟨_, rfl⟩
  rw [← hw]
  have h26_6 : fld cw 26 6 = 1#6 := hw ▸ hi (hi (hi (hi rfl)))
  have h0_6 : fld cw 0 6 = 2#6 := hw ▸ lo rfl
  have h6_5 : fld cw 6 5 = 0#5 := hw ▸ lo rfl
  have h21_5 : fld cw 21 5 = d := hw ▸ hi (hi (hi (lo all_)))
  have h16_5 : fld cw 16 5 = a := hw ▸ hi (hi (lo all_))
  have h11_5 : fld cw 11 5 = b := hw ▸ hi (lo all_)
  clear hw
  refine (show decodeControl cw = Decode.alu cw by unfold decodeControl; rw [h26_6]; rfl).trans ?_
  refine (show Decode.alu cw = Decode.need (fld cw 6 5 == 0) .unusedField (.ok (.and (fld cw 21 5) (fld cw 16 5) (fld cw 11 5))) by unfold Decode.alu; rw [h0_6]; rfl).trans ?_
  simp only [h6_5, h21_5, h16_5, h11_5]
  rfl

theorem Sys2Proof.Laws.RoundTrip.or (d : BitVec 5) (a : BitVec 5) (b : BitVec 5) : Statement (.or d a b) := by
  intro hwf
  refine control_back ?_
  obtain ⟨cw, hw⟩ : ∃ cw : Code, cw = 1#6 ++ d ++ a ++ b ++ 3#11 := ⟨_, rfl⟩
  rw [← hw]
  have h26_6 : fld cw 26 6 = 1#6 := hw ▸ hi (hi (hi (hi rfl)))
  have h0_6 : fld cw 0 6 = 3#6 := hw ▸ lo rfl
  have h6_5 : fld cw 6 5 = 0#5 := hw ▸ lo rfl
  have h21_5 : fld cw 21 5 = d := hw ▸ hi (hi (hi (lo all_)))
  have h16_5 : fld cw 16 5 = a := hw ▸ hi (hi (lo all_))
  have h11_5 : fld cw 11 5 = b := hw ▸ hi (lo all_)
  clear hw
  refine (show decodeControl cw = Decode.alu cw by unfold decodeControl; rw [h26_6]; rfl).trans ?_
  refine (show Decode.alu cw = Decode.need (fld cw 6 5 == 0) .unusedField (.ok (.or (fld cw 21 5) (fld cw 16 5) (fld cw 11 5))) by unfold Decode.alu; rw [h0_6]; rfl).trans ?_
  simp only [h6_5, h21_5, h16_5, h11_5]
  rfl

theorem Sys2Proof.Laws.RoundTrip.xor (d : BitVec 5) (a : BitVec 5) (b : BitVec 5) : Statement (.xor d a b) := by
  intro hwf
  refine control_back ?_
  obtain ⟨cw, hw⟩ : ∃ cw : Code, cw = 1#6 ++ d ++ a ++ b ++ 4#11 := ⟨_, rfl⟩
  rw [← hw]
  have h26_6 : fld cw 26 6 = 1#6 := hw ▸ hi (hi (hi (hi rfl)))
  have h0_6 : fld cw 0 6 = 4#6 := hw ▸ lo rfl
  have h6_5 : fld cw 6 5 = 0#5 := hw ▸ lo rfl
  have h21_5 : fld cw 21 5 = d := hw ▸ hi (hi (hi (lo all_)))
  have h16_5 : fld cw 16 5 = a := hw ▸ hi (hi (lo all_))
  have h11_5 : fld cw 11 5 = b := hw ▸ hi (lo all_)
  clear hw
  refine (show decodeControl cw = Decode.alu cw by unfold decodeControl; rw [h26_6]; rfl).trans ?_
  refine (show Decode.alu cw = Decode.need (fld cw 6 5 == 0) .unusedField (.ok (.xor (fld cw 21 5) (fld cw 16 5) (fld cw 11 5))) by unfold Decode.alu; rw [h0_6]; rfl).trans ?_
  simp only [h6_5, h21_5, h16_5, h11_5]
  rfl

theorem Sys2Proof.Laws.RoundTrip.andn (d : BitVec 5) (a : BitVec 5) (b : BitVec 5) : Statement (.andn d a b) := by
  intro hwf
  refine control_back ?_
  obtain ⟨cw, hw⟩ : ∃ cw : Code, cw = 1#6 ++ d ++ a ++ b ++ 5#11 := ⟨_, rfl⟩
  rw [← hw]
  have h26_6 : fld cw 26 6 = 1#6 := hw ▸ hi (hi (hi (hi rfl)))
  have h0_6 : fld cw 0 6 = 5#6 := hw ▸ lo rfl
  have h6_5 : fld cw 6 5 = 0#5 := hw ▸ lo rfl
  have h21_5 : fld cw 21 5 = d := hw ▸ hi (hi (hi (lo all_)))
  have h16_5 : fld cw 16 5 = a := hw ▸ hi (hi (lo all_))
  have h11_5 : fld cw 11 5 = b := hw ▸ hi (lo all_)
  clear hw
  refine (show decodeControl cw = Decode.alu cw by unfold decodeControl; rw [h26_6]; rfl).trans ?_
  refine (show Decode.alu cw = Decode.need (fld cw 6 5 == 0) .unusedField (.ok (.andn (fld cw 21 5) (fld cw 16 5) (fld cw 11 5))) by unfold Decode.alu; rw [h0_6]; rfl).trans ?_
  simp only [h6_5, h21_5, h16_5, h11_5]
  rfl

theorem Sys2Proof.Laws.RoundTrip.shl (d : BitVec 5) (a : BitVec 5) (b : BitVec 5) : Statement (.shl d a b) := by
  intro hwf
  refine control_back ?_
  obtain ⟨cw, hw⟩ : ∃ cw : Code, cw = 1#6 ++ d ++ a ++ b ++ 6#11 := ⟨_, rfl⟩
  rw [← hw]
  have h26_6 : fld cw 26 6 = 1#6 := hw ▸ hi (hi (hi (hi rfl)))
  have h0_6 : fld cw 0 6 = 6#6 := hw ▸ lo rfl
  have h6_5 : fld cw 6 5 = 0#5 := hw ▸ lo rfl
  have h21_5 : fld cw 21 5 = d := hw ▸ hi (hi (hi (lo all_)))
  have h16_5 : fld cw 16 5 = a := hw ▸ hi (hi (lo all_))
  have h11_5 : fld cw 11 5 = b := hw ▸ hi (lo all_)
  clear hw
  refine (show decodeControl cw = Decode.alu cw by unfold decodeControl; rw [h26_6]; rfl).trans ?_
  refine (show Decode.alu cw = Decode.need (fld cw 6 5 == 0) .unusedField (.ok (.shl (fld cw 21 5) (fld cw 16 5) (fld cw 11 5))) by unfold Decode.alu; rw [h0_6]; rfl).trans ?_
  simp only [h6_5, h21_5, h16_5, h11_5]
  rfl

theorem Sys2Proof.Laws.RoundTrip.shr (d : BitVec 5) (a : BitVec 5) (b : BitVec 5) : Statement (.shr d a b) := by
  intro hwf
  refine control_back ?_
  obtain ⟨cw, hw⟩ : ∃ cw : Code, cw = 1#6 ++ d ++ a ++ b ++ 7#11 := ⟨_, rfl⟩
  rw [← hw]
  have h26_6 : fld cw 26 6 = 1#6 := hw ▸ hi (hi (hi (hi rfl)))
  have h0_6 : fld cw 0 6 = 7#6 := hw ▸ lo rfl
  have h6_5 : fld cw 6 5 = 0#5 := hw ▸ lo rfl
  have h21_5 : fld cw 21 5 = d := hw ▸ hi (hi (hi (lo all_)))
  have h16_5 : fld cw 16 5 = a := hw ▸ hi (hi (lo all_))
  have h11_5 : fld cw 11 5 = b := hw ▸ hi (lo all_)
  clear hw
  refine (show decodeControl cw = Decode.alu cw by unfold decodeControl; rw [h26_6]; rfl).trans ?_
  refine (show Decode.alu cw = Decode.need (fld cw 6 5 == 0) .unusedField (.ok (.shr (fld cw 21 5) (fld cw 16 5) (fld cw 11 5))) by unfold Decode.alu; rw [h0_6]; rfl).trans ?_
  simp only [h6_5, h21_5, h16_5, h11_5]
  rfl

theorem Sys2Proof.Laws.RoundTrip.sra (d : BitVec 5) (a : BitVec 5) (b : BitVec 5) : Statement (.sra d a b) := by
  intro hwf
  refine control_back ?_
  obtain ⟨cw, hw⟩ : ∃ cw : Code, cw = 1#6 ++ d ++ a ++ b ++ 8#11 := ⟨_, rfl⟩
  rw [← hw]
  have h26_6 : fld cw 26 6 = 1#6 := hw ▸ hi (hi (hi (hi rfl)))
  have h0_6 : fld cw 0 6 = 8#6 := hw ▸ lo rfl
  have h6_5 : fld cw 6 5 = 0#5 := hw ▸ lo rfl
  have h21_5 : fld cw 21 5 = d := hw ▸ hi (hi (hi (lo all_)))
  have h16_5 : fld cw 16 5 = a := hw ▸ hi (hi (lo all_))
  have h11_5 : fld cw 11 5 = b := hw ▸ hi (lo all_)
  clear hw
  refine (show decodeControl cw = Decode.alu cw by unfold decodeControl; rw [h26_6]; rfl).trans ?_
  refine (show Decode.alu cw = Decode.need (fld cw 6 5 == 0) .unusedField (.ok (.sra (fld cw 21 5) (fld cw 16 5) (fld cw 11 5))) by unfold Decode.alu; rw [h0_6]; rfl).trans ?_
  simp only [h6_5, h21_5, h16_5, h11_5]
  rfl

theorem Sys2Proof.Laws.RoundTrip.rol (d : BitVec 5) (a : BitVec 5) (b : BitVec 5) : Statement (.rol d a b) := by
  intro hwf
  refine control_back ?_
  obtain ⟨cw, hw⟩ : ∃ cw : Code, cw = 1#6 ++ d ++ a ++ b ++ 9#11 := ⟨_, rfl⟩
  rw [← hw]
  have h26_6 : fld cw 26 6 = 1#6 := hw ▸ hi (hi (hi (hi rfl)))
  have h0_6 : fld cw 0 6 = 9#6 := hw ▸ lo rfl
  have h6_5 : fld cw 6 5 = 0#5 := hw ▸ lo rfl
  have h21_5 : fld cw 21 5 = d := hw ▸ hi (hi (hi (lo all_)))
  have h16_5 : fld cw 16 5 = a := hw ▸ hi (hi (lo all_))
  have h11_5 : fld cw 11 5 = b := hw ▸ hi (lo all_)
  clear hw
  refine (show decodeControl cw = Decode.alu cw by unfold decodeControl; rw [h26_6]; rfl).trans ?_
  refine (show Decode.alu cw = Decode.need (fld cw 6 5 == 0) .unusedField (.ok (.rol (fld cw 21 5) (fld cw 16 5) (fld cw 11 5))) by unfold Decode.alu; rw [h0_6]; rfl).trans ?_
  simp only [h6_5, h21_5, h16_5, h11_5]
  rfl

theorem Sys2Proof.Laws.RoundTrip.ror (d : BitVec 5) (a : BitVec 5) (b : BitVec 5) : Statement (.ror d a b) := by
  intro hwf
  refine control_back ?_
  obtain ⟨cw, hw⟩ : ∃ cw : Code, cw = 1#6 ++ d ++ a ++ b ++ 10#11 := ⟨_, rfl⟩
  rw [← hw]
  have h26_6 : fld cw 26 6 = 1#6 := hw ▸ hi (hi (hi (hi rfl)))
  have h0_6 : fld cw 0 6 = 10#6 := hw ▸ lo rfl
  have h6_5 : fld cw 6 5 = 0#5 := hw ▸ lo rfl
  have h21_5 : fld cw 21 5 = d := hw ▸ hi (hi (hi (lo all_)))
  have h16_5 : fld cw 16 5 = a := hw ▸ hi (hi (lo all_))
  have h11_5 : fld cw 11 5 = b := hw ▸ hi (lo all_)
  clear hw
  refine (show decodeControl cw = Decode.alu cw by unfold decodeControl; rw [h26_6]; rfl).trans ?_
  refine (show Decode.alu cw = Decode.need (fld cw 6 5 == 0) .unusedField (.ok (.ror (fld cw 21 5) (fld cw 16 5) (fld cw 11 5))) by unfold Decode.alu; rw [h0_6]; rfl).trans ?_
  simp only [h6_5, h21_5, h16_5, h11_5]
  rfl

theorem Sys2Proof.Laws.RoundTrip.slt (d : BitVec 5) (a : BitVec 5) (b : BitVec 5) : Statement (.slt d a b) := by
  intro hwf
  refine control_back ?_
  obtain ⟨cw, hw⟩ : ∃ cw : Code, cw = 1#6 ++ d ++ a ++ b ++ 11#11 := ⟨_, rfl⟩
  rw [← hw]
  have h26_6 : fld cw 26 6 = 1#6 := hw ▸ hi (hi (hi (hi rfl)))
  have h0_6 : fld cw 0 6 = 11#6 := hw ▸ lo rfl
  have h6_5 : fld cw 6 5 = 0#5 := hw ▸ lo rfl
  have h21_5 : fld cw 21 5 = d := hw ▸ hi (hi (hi (lo all_)))
  have h16_5 : fld cw 16 5 = a := hw ▸ hi (hi (lo all_))
  have h11_5 : fld cw 11 5 = b := hw ▸ hi (lo all_)
  clear hw
  refine (show decodeControl cw = Decode.alu cw by unfold decodeControl; rw [h26_6]; rfl).trans ?_
  refine (show Decode.alu cw = Decode.need (fld cw 6 5 == 0) .unusedField (.ok (.slt (fld cw 21 5) (fld cw 16 5) (fld cw 11 5))) by unfold Decode.alu; rw [h0_6]; rfl).trans ?_
  simp only [h6_5, h21_5, h16_5, h11_5]
  rfl

theorem Sys2Proof.Laws.RoundTrip.sltu (d : BitVec 5) (a : BitVec 5) (b : BitVec 5) : Statement (.sltu d a b) := by
  intro hwf
  refine control_back ?_
  obtain ⟨cw, hw⟩ : ∃ cw : Code, cw = 1#6 ++ d ++ a ++ b ++ 12#11 := ⟨_, rfl⟩
  rw [← hw]
  have h26_6 : fld cw 26 6 = 1#6 := hw ▸ hi (hi (hi (hi rfl)))
  have h0_6 : fld cw 0 6 = 12#6 := hw ▸ lo rfl
  have h6_5 : fld cw 6 5 = 0#5 := hw ▸ lo rfl
  have h21_5 : fld cw 21 5 = d := hw ▸ hi (hi (hi (lo all_)))
  have h16_5 : fld cw 16 5 = a := hw ▸ hi (hi (lo all_))
  have h11_5 : fld cw 11 5 = b := hw ▸ hi (lo all_)
  clear hw
  refine (show decodeControl cw = Decode.alu cw by unfold decodeControl; rw [h26_6]; rfl).trans ?_
  refine (show Decode.alu cw = Decode.need (fld cw 6 5 == 0) .unusedField (.ok (.sltu (fld cw 21 5) (fld cw 16 5) (fld cw 11 5))) by unfold Decode.alu; rw [h0_6]; rfl).trans ?_
  simp only [h6_5, h21_5, h16_5, h11_5]
  rfl

theorem Sys2Proof.Laws.RoundTrip.min (d : BitVec 5) (a : BitVec 5) (b : BitVec 5) : Statement (.min d a b) := by
  intro hwf
  refine control_back ?_
  obtain ⟨cw, hw⟩ : ∃ cw : Code, cw = 1#6 ++ d ++ a ++ b ++ 13#11 := ⟨_, rfl⟩
  rw [← hw]
  have h26_6 : fld cw 26 6 = 1#6 := hw ▸ hi (hi (hi (hi rfl)))
  have h0_6 : fld cw 0 6 = 13#6 := hw ▸ lo rfl
  have h6_5 : fld cw 6 5 = 0#5 := hw ▸ lo rfl
  have h21_5 : fld cw 21 5 = d := hw ▸ hi (hi (hi (lo all_)))
  have h16_5 : fld cw 16 5 = a := hw ▸ hi (hi (lo all_))
  have h11_5 : fld cw 11 5 = b := hw ▸ hi (lo all_)
  clear hw
  refine (show decodeControl cw = Decode.alu cw by unfold decodeControl; rw [h26_6]; rfl).trans ?_
  refine (show Decode.alu cw = Decode.need (fld cw 6 5 == 0) .unusedField (.ok (.min (fld cw 21 5) (fld cw 16 5) (fld cw 11 5))) by unfold Decode.alu; rw [h0_6]; rfl).trans ?_
  simp only [h6_5, h21_5, h16_5, h11_5]
  rfl

theorem Sys2Proof.Laws.RoundTrip.max (d : BitVec 5) (a : BitVec 5) (b : BitVec 5) : Statement (.max d a b) := by
  intro hwf
  refine control_back ?_
  obtain ⟨cw, hw⟩ : ∃ cw : Code, cw = 1#6 ++ d ++ a ++ b ++ 14#11 := ⟨_, rfl⟩
  rw [← hw]
  have h26_6 : fld cw 26 6 = 1#6 := hw ▸ hi (hi (hi (hi rfl)))
  have h0_6 : fld cw 0 6 = 14#6 := hw ▸ lo rfl
  have h6_5 : fld cw 6 5 = 0#5 := hw ▸ lo rfl
  have h21_5 : fld cw 21 5 = d := hw ▸ hi (hi (hi (lo all_)))
  have h16_5 : fld cw 16 5 = a := hw ▸ hi (hi (lo all_))
  have h11_5 : fld cw 11 5 = b := hw ▸ hi (lo all_)
  clear hw
  refine (show decodeControl cw = Decode.alu cw by unfold decodeControl; rw [h26_6]; rfl).trans ?_
  refine (show Decode.alu cw = Decode.need (fld cw 6 5 == 0) .unusedField (.ok (.max (fld cw 21 5) (fld cw 16 5) (fld cw 11 5))) by unfold Decode.alu; rw [h0_6]; rfl).trans ?_
  simp only [h6_5, h21_5, h16_5, h11_5]
  rfl

theorem Sys2Proof.Laws.RoundTrip.minu (d : BitVec 5) (a : BitVec 5) (b : BitVec 5) : Statement (.minu d a b) := by
  intro hwf
  refine control_back ?_
  obtain ⟨cw, hw⟩ : ∃ cw : Code, cw = 1#6 ++ d ++ a ++ b ++ 15#11 := ⟨_, rfl⟩
  rw [← hw]
  have h26_6 : fld cw 26 6 = 1#6 := hw ▸ hi (hi (hi (hi rfl)))
  have h0_6 : fld cw 0 6 = 15#6 := hw ▸ lo rfl
  have h6_5 : fld cw 6 5 = 0#5 := hw ▸ lo rfl
  have h21_5 : fld cw 21 5 = d := hw ▸ hi (hi (hi (lo all_)))
  have h16_5 : fld cw 16 5 = a := hw ▸ hi (hi (lo all_))
  have h11_5 : fld cw 11 5 = b := hw ▸ hi (lo all_)
  clear hw
  refine (show decodeControl cw = Decode.alu cw by unfold decodeControl; rw [h26_6]; rfl).trans ?_
  refine (show Decode.alu cw = Decode.need (fld cw 6 5 == 0) .unusedField (.ok (.minu (fld cw 21 5) (fld cw 16 5) (fld cw 11 5))) by unfold Decode.alu; rw [h0_6]; rfl).trans ?_
  simp only [h6_5, h21_5, h16_5, h11_5]
  rfl

theorem Sys2Proof.Laws.RoundTrip.maxu (d : BitVec 5) (a : BitVec 5) (b : BitVec 5) : Statement (.maxu d a b) := by
  intro hwf
  refine control_back ?_
  obtain ⟨cw, hw⟩ : ∃ cw : Code, cw = 1#6 ++ d ++ a ++ b ++ 16#11 := ⟨_, rfl⟩
  rw [← hw]
  have h26_6 : fld cw 26 6 = 1#6 := hw ▸ hi (hi (hi (hi rfl)))
  have h0_6 : fld cw 0 6 = 16#6 := hw ▸ lo rfl
  have h6_5 : fld cw 6 5 = 0#5 := hw ▸ lo rfl
  have h21_5 : fld cw 21 5 = d := hw ▸ hi (hi (hi (lo all_)))
  have h16_5 : fld cw 16 5 = a := hw ▸ hi (hi (lo all_))
  have h11_5 : fld cw 11 5 = b := hw ▸ hi (lo all_)
  clear hw
  refine (show decodeControl cw = Decode.alu cw by unfold decodeControl; rw [h26_6]; rfl).trans ?_
  refine (show Decode.alu cw = Decode.need (fld cw 6 5 == 0) .unusedField (.ok (.maxu (fld cw 21 5) (fld cw 16 5) (fld cw 11 5))) by unfold Decode.alu; rw [h0_6]; rfl).trans ?_
  simp only [h6_5, h21_5, h16_5, h11_5]
  rfl

theorem Sys2Proof.Laws.RoundTrip.mul (d : BitVec 5) (a : BitVec 5) (b : BitVec 5) : Statement (.mul d a b) := by
  intro hwf
  refine control_back ?_
  obtain ⟨cw, hw⟩ : ∃ cw : Code, cw = 1#6 ++ d ++ a ++ b ++ 17#11 := ⟨_, rfl⟩
  rw [← hw]
  have h26_6 : fld cw 26 6 = 1#6 := hw ▸ hi (hi (hi (hi rfl)))
  have h0_6 : fld cw 0 6 = 17#6 := hw ▸ lo rfl
  have h6_5 : fld cw 6 5 = 0#5 := hw ▸ lo rfl
  have h21_5 : fld cw 21 5 = d := hw ▸ hi (hi (hi (lo all_)))
  have h16_5 : fld cw 16 5 = a := hw ▸ hi (hi (lo all_))
  have h11_5 : fld cw 11 5 = b := hw ▸ hi (lo all_)
  clear hw
  refine (show decodeControl cw = Decode.alu cw by unfold decodeControl; rw [h26_6]; rfl).trans ?_
  refine (show Decode.alu cw = Decode.need (fld cw 6 5 == 0) .unusedField (.ok (.mul (fld cw 21 5) (fld cw 16 5) (fld cw 11 5))) by unfold Decode.alu; rw [h0_6]; rfl).trans ?_
  simp only [h6_5, h21_5, h16_5, h11_5]
  rfl

theorem Sys2Proof.Laws.RoundTrip.mulh (d : BitVec 5) (a : BitVec 5) (b : BitVec 5) : Statement (.mulh d a b) := by
  intro hwf
  refine control_back ?_
  obtain ⟨cw, hw⟩ : ∃ cw : Code, cw = 1#6 ++ d ++ a ++ b ++ 18#11 := ⟨_, rfl⟩
  rw [← hw]
  have h26_6 : fld cw 26 6 = 1#6 := hw ▸ hi (hi (hi (hi rfl)))
  have h0_6 : fld cw 0 6 = 18#6 := hw ▸ lo rfl
  have h6_5 : fld cw 6 5 = 0#5 := hw ▸ lo rfl
  have h21_5 : fld cw 21 5 = d := hw ▸ hi (hi (hi (lo all_)))
  have h16_5 : fld cw 16 5 = a := hw ▸ hi (hi (lo all_))
  have h11_5 : fld cw 11 5 = b := hw ▸ hi (lo all_)
  clear hw
  refine (show decodeControl cw = Decode.alu cw by unfold decodeControl; rw [h26_6]; rfl).trans ?_
  refine (show Decode.alu cw = Decode.need (fld cw 6 5 == 0) .unusedField (.ok (.mulh (fld cw 21 5) (fld cw 16 5) (fld cw 11 5))) by unfold Decode.alu; rw [h0_6]; rfl).trans ?_
  simp only [h6_5, h21_5, h16_5, h11_5]
  rfl

theorem Sys2Proof.Laws.RoundTrip.mulhu (d : BitVec 5) (a : BitVec 5) (b : BitVec 5) : Statement (.mulhu d a b) := by
  intro hwf
  refine control_back ?_
  obtain ⟨cw, hw⟩ : ∃ cw : Code, cw = 1#6 ++ d ++ a ++ b ++ 19#11 := ⟨_, rfl⟩
  rw [← hw]
  have h26_6 : fld cw 26 6 = 1#6 := hw ▸ hi (hi (hi (hi rfl)))
  have h0_6 : fld cw 0 6 = 19#6 := hw ▸ lo rfl
  have h6_5 : fld cw 6 5 = 0#5 := hw ▸ lo rfl
  have h21_5 : fld cw 21 5 = d := hw ▸ hi (hi (hi (lo all_)))
  have h16_5 : fld cw 16 5 = a := hw ▸ hi (hi (lo all_))
  have h11_5 : fld cw 11 5 = b := hw ▸ hi (lo all_)
  clear hw
  refine (show decodeControl cw = Decode.alu cw by unfold decodeControl; rw [h26_6]; rfl).trans ?_
  refine (show Decode.alu cw = Decode.need (fld cw 6 5 == 0) .unusedField (.ok (.mulhu (fld cw 21 5) (fld cw 16 5) (fld cw 11 5))) by unfold Decode.alu; rw [h0_6]; rfl).trans ?_
  simp only [h6_5, h21_5, h16_5, h11_5]
  rfl

theorem Sys2Proof.Laws.RoundTrip.div (d : BitVec 5) (a : BitVec 5) (b : BitVec 5) : Statement (.div d a b) := by
  intro hwf
  refine control_back ?_
  obtain ⟨cw, hw⟩ : ∃ cw : Code, cw = 1#6 ++ d ++ a ++ b ++ 20#11 := ⟨_, rfl⟩
  rw [← hw]
  have h26_6 : fld cw 26 6 = 1#6 := hw ▸ hi (hi (hi (hi rfl)))
  have h0_6 : fld cw 0 6 = 20#6 := hw ▸ lo rfl
  have h6_5 : fld cw 6 5 = 0#5 := hw ▸ lo rfl
  have h21_5 : fld cw 21 5 = d := hw ▸ hi (hi (hi (lo all_)))
  have h16_5 : fld cw 16 5 = a := hw ▸ hi (hi (lo all_))
  have h11_5 : fld cw 11 5 = b := hw ▸ hi (lo all_)
  clear hw
  refine (show decodeControl cw = Decode.alu cw by unfold decodeControl; rw [h26_6]; rfl).trans ?_
  refine (show Decode.alu cw = Decode.need (fld cw 6 5 == 0) .unusedField (.ok (.div (fld cw 21 5) (fld cw 16 5) (fld cw 11 5))) by unfold Decode.alu; rw [h0_6]; rfl).trans ?_
  simp only [h6_5, h21_5, h16_5, h11_5]
  rfl

theorem Sys2Proof.Laws.RoundTrip.divu (d : BitVec 5) (a : BitVec 5) (b : BitVec 5) : Statement (.divu d a b) := by
  intro hwf
  refine control_back ?_
  obtain ⟨cw, hw⟩ : ∃ cw : Code, cw = 1#6 ++ d ++ a ++ b ++ 21#11 := ⟨_, rfl⟩
  rw [← hw]
  have h26_6 : fld cw 26 6 = 1#6 := hw ▸ hi (hi (hi (hi rfl)))
  have h0_6 : fld cw 0 6 = 21#6 := hw ▸ lo rfl
  have h6_5 : fld cw 6 5 = 0#5 := hw ▸ lo rfl
  have h21_5 : fld cw 21 5 = d := hw ▸ hi (hi (hi (lo all_)))
  have h16_5 : fld cw 16 5 = a := hw ▸ hi (hi (lo all_))
  have h11_5 : fld cw 11 5 = b := hw ▸ hi (lo all_)
  clear hw
  refine (show decodeControl cw = Decode.alu cw by unfold decodeControl; rw [h26_6]; rfl).trans ?_
  refine (show Decode.alu cw = Decode.need (fld cw 6 5 == 0) .unusedField (.ok (.divu (fld cw 21 5) (fld cw 16 5) (fld cw 11 5))) by unfold Decode.alu; rw [h0_6]; rfl).trans ?_
  simp only [h6_5, h21_5, h16_5, h11_5]
  rfl

theorem Sys2Proof.Laws.RoundTrip.rem (d : BitVec 5) (a : BitVec 5) (b : BitVec 5) : Statement (.rem d a b) := by
  intro hwf
  refine control_back ?_
  obtain ⟨cw, hw⟩ : ∃ cw : Code, cw = 1#6 ++ d ++ a ++ b ++ 22#11 := ⟨_, rfl⟩
  rw [← hw]
  have h26_6 : fld cw 26 6 = 1#6 := hw ▸ hi (hi (hi (hi rfl)))
  have h0_6 : fld cw 0 6 = 22#6 := hw ▸ lo rfl
  have h6_5 : fld cw 6 5 = 0#5 := hw ▸ lo rfl
  have h21_5 : fld cw 21 5 = d := hw ▸ hi (hi (hi (lo all_)))
  have h16_5 : fld cw 16 5 = a := hw ▸ hi (hi (lo all_))
  have h11_5 : fld cw 11 5 = b := hw ▸ hi (lo all_)
  clear hw
  refine (show decodeControl cw = Decode.alu cw by unfold decodeControl; rw [h26_6]; rfl).trans ?_
  refine (show Decode.alu cw = Decode.need (fld cw 6 5 == 0) .unusedField (.ok (.rem (fld cw 21 5) (fld cw 16 5) (fld cw 11 5))) by unfold Decode.alu; rw [h0_6]; rfl).trans ?_
  simp only [h6_5, h21_5, h16_5, h11_5]
  rfl

theorem Sys2Proof.Laws.RoundTrip.remu (d : BitVec 5) (a : BitVec 5) (b : BitVec 5) : Statement (.remu d a b) := by
  intro hwf
  refine control_back ?_
  obtain ⟨cw, hw⟩ : ∃ cw : Code, cw = 1#6 ++ d ++ a ++ b ++ 23#11 := ⟨_, rfl⟩
  rw [← hw]
  have h26_6 : fld cw 26 6 = 1#6 := hw ▸ hi (hi (hi (hi rfl)))
  have h0_6 : fld cw 0 6 = 23#6 := hw ▸ lo rfl
  have h6_5 : fld cw 6 5 = 0#5 := hw ▸ lo rfl
  have h21_5 : fld cw 21 5 = d := hw ▸ hi (hi (hi (lo all_)))
  have h16_5 : fld cw 16 5 = a := hw ▸ hi (hi (lo all_))
  have h11_5 : fld cw 11 5 = b := hw ▸ hi (lo all_)
  clear hw
  refine (show decodeControl cw = Decode.alu cw by unfold decodeControl; rw [h26_6]; rfl).trans ?_
  refine (show Decode.alu cw = Decode.need (fld cw 6 5 == 0) .unusedField (.ok (.remu (fld cw 21 5) (fld cw 16 5) (fld cw 11 5))) by unfold Decode.alu; rw [h0_6]; rfl).trans ?_
  simp only [h6_5, h21_5, h16_5, h11_5]
  rfl

theorem Sys2Proof.Laws.RoundTrip.clz (d : BitVec 5) (a : BitVec 5) : Statement (.clz d a) := by
  intro hwf
  refine control_back ?_
  obtain ⟨cw, hw⟩ : ∃ cw : Code, cw = 1#6 ++ d ++ a ++ 24#16 := ⟨_, rfl⟩
  rw [← hw]
  have h26_6 : fld cw 26 6 = 1#6 := hw ▸ hi (hi (hi rfl))
  have h0_6 : fld cw 0 6 = 24#6 := hw ▸ lo rfl
  have h6_10 : fld cw 6 10 = 0#10 := hw ▸ lo rfl
  have h21_5 : fld cw 21 5 = d := hw ▸ hi (hi (lo all_))
  have h16_5 : fld cw 16 5 = a := hw ▸ hi (lo all_)
  clear hw
  refine (show decodeControl cw = Decode.alu cw by unfold decodeControl; rw [h26_6]; rfl).trans ?_
  refine (show Decode.alu cw = Decode.need (fld cw 6 10 == 0) .unusedField (.ok (.clz (fld cw 21 5) (fld cw 16 5))) by unfold Decode.alu; rw [h0_6]; rfl).trans ?_
  simp only [h6_10, h21_5, h16_5]
  rfl

theorem Sys2Proof.Laws.RoundTrip.ctz (d : BitVec 5) (a : BitVec 5) : Statement (.ctz d a) := by
  intro hwf
  refine control_back ?_
  obtain ⟨cw, hw⟩ : ∃ cw : Code, cw = 1#6 ++ d ++ a ++ 25#16 := ⟨_, rfl⟩
  rw [← hw]
  have h26_6 : fld cw 26 6 = 1#6 := hw ▸ hi (hi (hi rfl))
  have h0_6 : fld cw 0 6 = 25#6 := hw ▸ lo rfl
  have h6_10 : fld cw 6 10 = 0#10 := hw ▸ lo rfl
  have h21_5 : fld cw 21 5 = d := hw ▸ hi (hi (lo all_))
  have h16_5 : fld cw 16 5 = a := hw ▸ hi (lo all_)
  clear hw
  refine (show decodeControl cw = Decode.alu cw by unfold decodeControl; rw [h26_6]; rfl).trans ?_
  refine (show Decode.alu cw = Decode.need (fld cw 6 10 == 0) .unusedField (.ok (.ctz (fld cw 21 5) (fld cw 16 5))) by unfold Decode.alu; rw [h0_6]; rfl).trans ?_
  simp only [h6_10, h21_5, h16_5]
  rfl

theorem Sys2Proof.Laws.RoundTrip.popc (d : BitVec 5) (a : BitVec 5) : Statement (.popc d a) := by
  intro hwf
  refine control_back ?_
  obtain ⟨cw, hw⟩ : ∃ cw : Code, cw = 1#6 ++ d ++ a ++ 26#16 := ⟨_, rfl⟩
  rw [← hw]
  have h26_6 : fld cw 26 6 = 1#6 := hw ▸ hi (hi (hi rfl))
  have h0_6 : fld cw 0 6 = 26#6 := hw ▸ lo rfl
  have h6_10 : fld cw 6 10 = 0#10 := hw ▸ lo rfl
  have h21_5 : fld cw 21 5 = d := hw ▸ hi (hi (lo all_))
  have h16_5 : fld cw 16 5 = a := hw ▸ hi (lo all_)
  clear hw
  refine (show decodeControl cw = Decode.alu cw by unfold decodeControl; rw [h26_6]; rfl).trans ?_
  refine (show Decode.alu cw = Decode.need (fld cw 6 10 == 0) .unusedField (.ok (.popc (fld cw 21 5) (fld cw 16 5))) by unfold Decode.alu; rw [h0_6]; rfl).trans ?_
  simp only [h6_10, h21_5, h16_5]
  rfl

theorem Sys2Proof.Laws.RoundTrip.brev (d : BitVec 5) (a : BitVec 5) : Statement (.brev d a) := by
  intro hwf
  refine control_back ?_
  obtain ⟨cw, hw⟩ : ∃ cw : Code, cw = 1#6 ++ d ++ a ++ 27#16 := ⟨_, rfl⟩
  rw [← hw]
  have h26_6 : fld cw 26 6 = 1#6 := hw ▸ hi (hi (hi rfl))
  have h0_6 : fld cw 0 6 = 27#6 := hw ▸ lo rfl
  have h6_10 : fld cw 6 10 = 0#10 := hw ▸ lo rfl
  have h21_5 : fld cw 21 5 = d := hw ▸ hi (hi (lo all_))
  have h16_5 : fld cw 16 5 = a := hw ▸ hi (lo all_)
  clear hw
  refine (show decodeControl cw = Decode.alu cw by unfold decodeControl; rw [h26_6]; rfl).trans ?_
  refine (show Decode.alu cw = Decode.need (fld cw 6 10 == 0) .unusedField (.ok (.brev (fld cw 21 5) (fld cw 16 5))) by unfold Decode.alu; rw [h0_6]; rfl).trans ?_
  simp only [h6_10, h21_5, h16_5]
  rfl

theorem Sys2Proof.Laws.RoundTrip.bswap (d : BitVec 5) (a : BitVec 5) : Statement (.bswap d a) := by
  intro hwf
  refine control_back ?_
  obtain ⟨cw, hw⟩ : ∃ cw : Code, cw = 1#6 ++ d ++ a ++ 28#16 := ⟨_, rfl⟩
  rw [← hw]
  have h26_6 : fld cw 26 6 = 1#6 := hw ▸ hi (hi (hi rfl))
  have h0_6 : fld cw 0 6 = 28#6 := hw ▸ lo rfl
  have h6_10 : fld cw 6 10 = 0#10 := hw ▸ lo rfl
  have h21_5 : fld cw 21 5 = d := hw ▸ hi (hi (lo all_))
  have h16_5 : fld cw 16 5 = a := hw ▸ hi (lo all_)
  clear hw
  refine (show decodeControl cw = Decode.alu cw by unfold decodeControl; rw [h26_6]; rfl).trans ?_
  refine (show Decode.alu cw = Decode.need (fld cw 6 10 == 0) .unusedField (.ok (.bswap (fld cw 21 5) (fld cw 16 5))) by unfold Decode.alu; rw [h0_6]; rfl).trans ?_
  simp only [h6_10, h21_5, h16_5]
  rfl

theorem Sys2Proof.Laws.RoundTrip.sel (d : BitVec 5) (a : BitVec 5) (b : BitVec 5) (c : BitVec 5) : Statement (.sel d a b c) := by
  intro hwf
  refine control_back ?_
  obtain ⟨cw, hw⟩ : ∃ cw : Code, cw = 1#6 ++ d ++ a ++ b ++ c ++ 29#6 := ⟨_, rfl⟩
  rw [← hw]
  have h26_6 : fld cw 26 6 = 1#6 := hw ▸ hi (hi (hi (hi (hi rfl))))
  have h0_6 : fld cw 0 6 = 29#6 := hw ▸ lo rfl
  have h21_5 : fld cw 21 5 = d := hw ▸ hi (hi (hi (hi (lo all_))))
  have h16_5 : fld cw 16 5 = a := hw ▸ hi (hi (hi (lo all_)))
  have h11_5 : fld cw 11 5 = b := hw ▸ hi (hi (lo all_))
  have h6_5 : fld cw 6 5 = c := hw ▸ hi (lo all_)
  clear hw
  refine (show decodeControl cw = Decode.alu cw by unfold decodeControl; rw [h26_6]; rfl).trans ?_
  refine (show Decode.alu cw = .ok (.sel (fld cw 21 5) (fld cw 16 5) (fld cw 11 5) (fld cw 6 5)) by unfold Decode.alu; rw [h0_6]; rfl).trans ?_
  simp only [h21_5, h16_5, h11_5, h6_5]

theorem Sys2Proof.Laws.RoundTrip.addw (d : BitVec 5) (a : BitVec 5) (b : BitVec 5) : Statement (.addw d a b) := by
  intro hwf
  refine control_back ?_
  obtain ⟨cw, hw⟩ : ∃ cw : Code, cw = 1#6 ++ d ++ a ++ b ++ 30#11 := ⟨_, rfl⟩
  rw [← hw]
  have h26_6 : fld cw 26 6 = 1#6 := hw ▸ hi (hi (hi (hi rfl)))
  have h0_6 : fld cw 0 6 = 30#6 := hw ▸ lo rfl
  have h6_5 : fld cw 6 5 = 0#5 := hw ▸ lo rfl
  have h21_5 : fld cw 21 5 = d := hw ▸ hi (hi (hi (lo all_)))
  have h16_5 : fld cw 16 5 = a := hw ▸ hi (hi (lo all_))
  have h11_5 : fld cw 11 5 = b := hw ▸ hi (lo all_)
  clear hw
  refine (show decodeControl cw = Decode.alu cw by unfold decodeControl; rw [h26_6]; rfl).trans ?_
  refine (show Decode.alu cw = Decode.need (fld cw 6 5 == 0) .unusedField (.ok (.addw (fld cw 21 5) (fld cw 16 5) (fld cw 11 5))) by unfold Decode.alu; rw [h0_6]; rfl).trans ?_
  simp only [h6_5, h21_5, h16_5, h11_5]
  rfl

theorem Sys2Proof.Laws.RoundTrip.subw (d : BitVec 5) (a : BitVec 5) (b : BitVec 5) : Statement (.subw d a b) := by
  intro hwf
  refine control_back ?_
  obtain ⟨cw, hw⟩ : ∃ cw : Code, cw = 1#6 ++ d ++ a ++ b ++ 31#11 := ⟨_, rfl⟩
  rw [← hw]
  have h26_6 : fld cw 26 6 = 1#6 := hw ▸ hi (hi (hi (hi rfl)))
  have h0_6 : fld cw 0 6 = 31#6 := hw ▸ lo rfl
  have h6_5 : fld cw 6 5 = 0#5 := hw ▸ lo rfl
  have h21_5 : fld cw 21 5 = d := hw ▸ hi (hi (hi (lo all_)))
  have h16_5 : fld cw 16 5 = a := hw ▸ hi (hi (lo all_))
  have h11_5 : fld cw 11 5 = b := hw ▸ hi (lo all_)
  clear hw
  refine (show decodeControl cw = Decode.alu cw by unfold decodeControl; rw [h26_6]; rfl).trans ?_
  refine (show Decode.alu cw = Decode.need (fld cw 6 5 == 0) .unusedField (.ok (.subw (fld cw 21 5) (fld cw 16 5) (fld cw 11 5))) by unfold Decode.alu; rw [h0_6]; rfl).trans ?_
  simp only [h6_5, h21_5, h16_5, h11_5]
  rfl

theorem Sys2Proof.Laws.RoundTrip.satadd (d : BitVec 5) (a : BitVec 5) (b : BitVec 5) : Statement (.satadd d a b) := by
  intro hwf
  refine control_back ?_
  obtain ⟨cw, hw⟩ : ∃ cw : Code, cw = 1#6 ++ d ++ a ++ b ++ 32#11 := ⟨_, rfl⟩
  rw [← hw]
  have h26_6 : fld cw 26 6 = 1#6 := hw ▸ hi (hi (hi (hi rfl)))
  have h0_6 : fld cw 0 6 = 32#6 := hw ▸ lo rfl
  have h6_5 : fld cw 6 5 = 0#5 := hw ▸ lo rfl
  have h21_5 : fld cw 21 5 = d := hw ▸ hi (hi (hi (lo all_)))
  have h16_5 : fld cw 16 5 = a := hw ▸ hi (hi (lo all_))
  have h11_5 : fld cw 11 5 = b := hw ▸ hi (lo all_)
  clear hw
  refine (show decodeControl cw = Decode.alu cw by unfold decodeControl; rw [h26_6]; rfl).trans ?_
  refine (show Decode.alu cw = Decode.need (fld cw 6 5 == 0) .unusedField (.ok (.satadd (fld cw 21 5) (fld cw 16 5) (fld cw 11 5))) by unfold Decode.alu; rw [h0_6]; rfl).trans ?_
  simp only [h6_5, h21_5, h16_5, h11_5]
  rfl

theorem Sys2Proof.Laws.RoundTrip.satsub (d : BitVec 5) (a : BitVec 5) (b : BitVec 5) : Statement (.satsub d a b) := by
  intro hwf
  refine control_back ?_
  obtain ⟨cw, hw⟩ : ∃ cw : Code, cw = 1#6 ++ d ++ a ++ b ++ 33#11 := ⟨_, rfl⟩
  rw [← hw]
  have h26_6 : fld cw 26 6 = 1#6 := hw ▸ hi (hi (hi (hi rfl)))
  have h0_6 : fld cw 0 6 = 33#6 := hw ▸ lo rfl
  have h6_5 : fld cw 6 5 = 0#5 := hw ▸ lo rfl
  have h21_5 : fld cw 21 5 = d := hw ▸ hi (hi (hi (lo all_)))
  have h16_5 : fld cw 16 5 = a := hw ▸ hi (hi (lo all_))
  have h11_5 : fld cw 11 5 = b := hw ▸ hi (lo all_)
  clear hw
  refine (show decodeControl cw = Decode.alu cw by unfold decodeControl; rw [h26_6]; rfl).trans ?_
  refine (show Decode.alu cw = Decode.need (fld cw 6 5 == 0) .unusedField (.ok (.satsub (fld cw 21 5) (fld cw 16 5) (fld cw 11 5))) by unfold Decode.alu; rw [h0_6]; rfl).trans ?_
  simp only [h6_5, h21_5, h16_5, h11_5]
  rfl

theorem Sys2Proof.Laws.RoundTrip.muladd (d : BitVec 5) (a : BitVec 5) (b : BitVec 5) (c : BitVec 5) : Statement (.muladd d a b c) := by
  intro hwf
  refine control_back ?_
  obtain ⟨cw, hw⟩ : ∃ cw : Code, cw = 1#6 ++ d ++ a ++ b ++ c ++ 34#6 := ⟨_, rfl⟩
  rw [← hw]
  have h26_6 : fld cw 26 6 = 1#6 := hw ▸ hi (hi (hi (hi (hi rfl))))
  have h0_6 : fld cw 0 6 = 34#6 := hw ▸ lo rfl
  have h21_5 : fld cw 21 5 = d := hw ▸ hi (hi (hi (hi (lo all_))))
  have h16_5 : fld cw 16 5 = a := hw ▸ hi (hi (hi (lo all_)))
  have h11_5 : fld cw 11 5 = b := hw ▸ hi (hi (lo all_))
  have h6_5 : fld cw 6 5 = c := hw ▸ hi (lo all_)
  clear hw
  refine (show decodeControl cw = Decode.alu cw by unfold decodeControl; rw [h26_6]; rfl).trans ?_
  refine (show Decode.alu cw = .ok (.muladd (fld cw 21 5) (fld cw 16 5) (fld cw 11 5) (fld cw 6 5)) by unfold Decode.alu; rw [h0_6]; rfl).trans ?_
  simp only [h21_5, h16_5, h11_5, h6_5]

theorem Sys2Proof.Laws.RoundTrip.addi (d : BitVec 5) (a : BitVec 5) (i : BitVec 16) : Statement (.addi d a i) := by
  intro hwf
  refine control_back ?_
  obtain ⟨cw, hw⟩ : ∃ cw : Code, cw = 2#6 ++ d ++ a ++ i := ⟨_, rfl⟩
  rw [← hw]
  have h26_6 : fld cw 26 6 = 2#6 := hw ▸ hi (hi (hi rfl))
  have h21_5 : fld cw 21 5 = d := hw ▸ hi (hi (lo all_))
  have h16_5 : fld cw 16 5 = a := hw ▸ hi (lo all_)
  have h0_16 : fld cw 0 16 = i := hw ▸ lo all_
  clear hw
  refine (show decodeControl cw = .ok (.addi (fld cw 21 5) (fld cw 16 5) (fld cw 0 16)) by unfold decodeControl; rw [h26_6]; rfl).trans ?_
  simp only [h21_5, h16_5, h0_16]

theorem Sys2Proof.Laws.RoundTrip.andi (d : BitVec 5) (a : BitVec 5) (i : BitVec 16) : Statement (.andi d a i) := by
  intro hwf
  refine control_back ?_
  obtain ⟨cw, hw⟩ : ∃ cw : Code, cw = 3#6 ++ d ++ a ++ i := ⟨_, rfl⟩
  rw [← hw]
  have h26_6 : fld cw 26 6 = 3#6 := hw ▸ hi (hi (hi rfl))
  have h21_5 : fld cw 21 5 = d := hw ▸ hi (hi (lo all_))
  have h16_5 : fld cw 16 5 = a := hw ▸ hi (lo all_)
  have h0_16 : fld cw 0 16 = i := hw ▸ lo all_
  clear hw
  refine (show decodeControl cw = .ok (.andi (fld cw 21 5) (fld cw 16 5) (fld cw 0 16)) by unfold decodeControl; rw [h26_6]; rfl).trans ?_
  simp only [h21_5, h16_5, h0_16]

theorem Sys2Proof.Laws.RoundTrip.ori (d : BitVec 5) (a : BitVec 5) (i : BitVec 16) : Statement (.ori d a i) := by
  intro hwf
  refine control_back ?_
  obtain ⟨cw, hw⟩ : ∃ cw : Code, cw = 4#6 ++ d ++ a ++ i := ⟨_, rfl⟩
  rw [← hw]
  have h26_6 : fld cw 26 6 = 4#6 := hw ▸ hi (hi (hi rfl))
  have h21_5 : fld cw 21 5 = d := hw ▸ hi (hi (lo all_))
  have h16_5 : fld cw 16 5 = a := hw ▸ hi (lo all_)
  have h0_16 : fld cw 0 16 = i := hw ▸ lo all_
  clear hw
  refine (show decodeControl cw = .ok (.ori (fld cw 21 5) (fld cw 16 5) (fld cw 0 16)) by unfold decodeControl; rw [h26_6]; rfl).trans ?_
  simp only [h21_5, h16_5, h0_16]

theorem Sys2Proof.Laws.RoundTrip.xori (d : BitVec 5) (a : BitVec 5) (i : BitVec 16) : Statement (.xori d a i) := by
  intro hwf
  refine control_back ?_
  obtain ⟨cw, hw⟩ : ∃ cw : Code, cw = 5#6 ++ d ++ a ++ i := ⟨_, rfl⟩
  rw [← hw]
  have h26_6 : fld cw 26 6 = 5#6 := hw ▸ hi (hi (hi rfl))
  have h21_5 : fld cw 21 5 = d := hw ▸ hi (hi (lo all_))
  have h16_5 : fld cw 16 5 = a := hw ▸ hi (lo all_)
  have h0_16 : fld cw 0 16 = i := hw ▸ lo all_
  clear hw
  refine (show decodeControl cw = .ok (.xori (fld cw 21 5) (fld cw 16 5) (fld cw 0 16)) by unfold decodeControl; rw [h26_6]; rfl).trans ?_
  simp only [h21_5, h16_5, h0_16]

theorem Sys2Proof.Laws.RoundTrip.slti (d : BitVec 5) (a : BitVec 5) (i : BitVec 16) : Statement (.slti d a i) := by
  intro hwf
  refine control_back ?_
  obtain ⟨cw, hw⟩ : ∃ cw : Code, cw = 6#6 ++ d ++ a ++ i := ⟨_, rfl⟩
  rw [← hw]
  have h26_6 : fld cw 26 6 = 6#6 := hw ▸ hi (hi (hi rfl))
  have h21_5 : fld cw 21 5 = d := hw ▸ hi (hi (lo all_))
  have h16_5 : fld cw 16 5 = a := hw ▸ hi (lo all_)
  have h0_16 : fld cw 0 16 = i := hw ▸ lo all_
  clear hw
  refine (show decodeControl cw = .ok (.slti (fld cw 21 5) (fld cw 16 5) (fld cw 0 16)) by unfold decodeControl; rw [h26_6]; rfl).trans ?_
  simp only [h21_5, h16_5, h0_16]

theorem Sys2Proof.Laws.RoundTrip.sltiu (d : BitVec 5) (a : BitVec 5) (i : BitVec 16) : Statement (.sltiu d a i) := by
  intro hwf
  refine control_back ?_
  obtain ⟨cw, hw⟩ : ∃ cw : Code, cw = 7#6 ++ d ++ a ++ i := ⟨_, rfl⟩
  rw [← hw]
  have h26_6 : fld cw 26 6 = 7#6 := hw ▸ hi (hi (hi rfl))
  have h21_5 : fld cw 21 5 = d := hw ▸ hi (hi (lo all_))
  have h16_5 : fld cw 16 5 = a := hw ▸ hi (lo all_)
  have h0_16 : fld cw 0 16 = i := hw ▸ lo all_
  clear hw
  refine (show decodeControl cw = .ok (.sltiu (fld cw 21 5) (fld cw 16 5) (fld cw 0 16)) by unfold decodeControl; rw [h26_6]; rfl).trans ?_
  simp only [h21_5, h16_5, h0_16]

theorem Sys2Proof.Laws.RoundTrip.shli (d : BitVec 5) (a : BitVec 5) (n : BitVec 6) : Statement (.shli d a n) := by
  intro hwf
  refine control_back ?_
  obtain ⟨cw, hw⟩ : ∃ cw : Code, cw = 8#6 ++ d ++ a ++ 0#10 ++ n := ⟨_, rfl⟩
  rw [← hw]
  have h26_6 : fld cw 26 6 = 8#6 := hw ▸ hi (hi (hi (hi rfl)))
  have h6_2 : fld cw 6 2 = 0#2 := hw ▸ hi (lo rfl)
  have h8_8 : fld cw 8 8 = 0#8 := hw ▸ hi (lo rfl)
  have h21_5 : fld cw 21 5 = d := hw ▸ hi (hi (hi (lo all_)))
  have h16_5 : fld cw 16 5 = a := hw ▸ hi (hi (lo all_))
  have h0_6 : fld cw 0 6 = n := hw ▸ lo all_
  clear hw
  refine (show decodeControl cw = Decode.shi cw by unfold decodeControl; rw [h26_6]; rfl).trans ?_
  refine (show Decode.shi cw = Decode.need (fld cw 8 8 == 0) .unusedField (.ok (.shli (fld cw 21 5) (fld cw 16 5) (fld cw 0 6))) by unfold Decode.shi; rw [h6_2]; rfl).trans ?_
  simp only [h8_8, h21_5, h16_5, h0_6]
  rfl

theorem Sys2Proof.Laws.RoundTrip.shri (d : BitVec 5) (a : BitVec 5) (n : BitVec 6) : Statement (.shri d a n) := by
  intro hwf
  refine control_back ?_
  obtain ⟨cw, hw⟩ : ∃ cw : Code, cw = 8#6 ++ d ++ a ++ 1#10 ++ n := ⟨_, rfl⟩
  rw [← hw]
  have h26_6 : fld cw 26 6 = 8#6 := hw ▸ hi (hi (hi (hi rfl)))
  have h6_2 : fld cw 6 2 = 1#2 := hw ▸ hi (lo rfl)
  have h8_8 : fld cw 8 8 = 0#8 := hw ▸ hi (lo rfl)
  have h21_5 : fld cw 21 5 = d := hw ▸ hi (hi (hi (lo all_)))
  have h16_5 : fld cw 16 5 = a := hw ▸ hi (hi (lo all_))
  have h0_6 : fld cw 0 6 = n := hw ▸ lo all_
  clear hw
  refine (show decodeControl cw = Decode.shi cw by unfold decodeControl; rw [h26_6]; rfl).trans ?_
  refine (show Decode.shi cw = Decode.need (fld cw 8 8 == 0) .unusedField (.ok (.shri (fld cw 21 5) (fld cw 16 5) (fld cw 0 6))) by unfold Decode.shi; rw [h6_2]; rfl).trans ?_
  simp only [h8_8, h21_5, h16_5, h0_6]
  rfl

theorem Sys2Proof.Laws.RoundTrip.srai (d : BitVec 5) (a : BitVec 5) (n : BitVec 6) : Statement (.srai d a n) := by
  intro hwf
  refine control_back ?_
  obtain ⟨cw, hw⟩ : ∃ cw : Code, cw = 8#6 ++ d ++ a ++ 2#10 ++ n := ⟨_, rfl⟩
  rw [← hw]
  have h26_6 : fld cw 26 6 = 8#6 := hw ▸ hi (hi (hi (hi rfl)))
  have h6_2 : fld cw 6 2 = 2#2 := hw ▸ hi (lo rfl)
  have h8_8 : fld cw 8 8 = 0#8 := hw ▸ hi (lo rfl)
  have h21_5 : fld cw 21 5 = d := hw ▸ hi (hi (hi (lo all_)))
  have h16_5 : fld cw 16 5 = a := hw ▸ hi (hi (lo all_))
  have h0_6 : fld cw 0 6 = n := hw ▸ lo all_
  clear hw
  refine (show decodeControl cw = Decode.shi cw by unfold decodeControl; rw [h26_6]; rfl).trans ?_
  refine (show Decode.shi cw = Decode.need (fld cw 8 8 == 0) .unusedField (.ok (.srai (fld cw 21 5) (fld cw 16 5) (fld cw 0 6))) by unfold Decode.shi; rw [h6_2]; rfl).trans ?_
  simp only [h8_8, h21_5, h16_5, h0_6]
  rfl

theorem Sys2Proof.Laws.RoundTrip.lui (d : BitVec 5) (i : BitVec 16) : Statement (.lui d i) := by
  intro hwf
  refine control_back ?_
  obtain ⟨cw, hw⟩ : ∃ cw : Code, cw = 9#6 ++ d ++ 0#5 ++ i := ⟨_, rfl⟩
  rw [← hw]
  have h26_6 : fld cw 26 6 = 9#6 := hw ▸ hi (hi (hi rfl))
  have h16_5 : fld cw 16 5 = 0#5 := hw ▸ hi (lo rfl)
  have h21_5 : fld cw 21 5 = d := hw ▸ hi (hi (lo all_))
  have h0_16 : fld cw 0 16 = i := hw ▸ lo all_
  clear hw
  refine (show decodeControl cw = Decode.need (fld cw 16 5 == 0) .unusedField (.ok (.lui (fld cw 21 5) (fld cw 0 16))) by unfold decodeControl; rw [h26_6]; rfl).trans ?_
  simp only [h16_5, h21_5, h0_16]
  rfl

theorem Sys2Proof.Laws.RoundTrip.insh (d : BitVec 5) (p : BitVec 2) (i : BitVec 16) : Statement (.insh d p i) := by
  intro hwf
  refine control_back ?_
  obtain ⟨cw, hw⟩ : ∃ cw : Code, cw = 10#6 ++ d ++ 0#3 ++ p ++ i := ⟨_, rfl⟩
  rw [← hw]
  have h26_6 : fld cw 26 6 = 10#6 := hw ▸ hi (hi (hi (hi rfl)))
  have h18_3 : fld cw 18 3 = 0#3 := hw ▸ hi (hi (lo rfl))
  have h21_5 : fld cw 21 5 = d := hw ▸ hi (hi (hi (lo all_)))
  have h16_2 : fld cw 16 2 = p := hw ▸ hi (lo all_)
  have h0_16 : fld cw 0 16 = i := hw ▸ lo all_
  clear hw
  refine (show decodeControl cw = Decode.need (fld cw 18 3 == 0) .unusedField (.ok (.insh (fld cw 21 5) (fld cw 16 2) (fld cw 0 16))) by unfold decodeControl; rw [h26_6]; rfl).trans ?_
  simp only [h18_3, h21_5, h16_2, h0_16]
  rfl

theorem Sys2Proof.Laws.RoundTrip.addpc (d : BitVec 5) (i : BitVec 16) : Statement (.addpc d i) := by
  intro hwf
  refine control_back ?_
  obtain ⟨cw, hw⟩ : ∃ cw : Code, cw = 11#6 ++ d ++ 0#5 ++ i := ⟨_, rfl⟩
  rw [← hw]
  have h26_6 : fld cw 26 6 = 11#6 := hw ▸ hi (hi (hi rfl))
  have h16_5 : fld cw 16 5 = 0#5 := hw ▸ hi (lo rfl)
  have h21_5 : fld cw 21 5 = d := hw ▸ hi (hi (lo all_))
  have h0_16 : fld cw 0 16 = i := hw ▸ lo all_
  clear hw
  refine (show decodeControl cw = Decode.need (fld cw 16 5 == 0) .unusedField (.ok (.addpc (fld cw 21 5) (fld cw 0 16))) by unfold decodeControl; rw [h26_6]; rfl).trans ?_
  simp only [h16_5, h21_5, h0_16]
  rfl

theorem Sys2Proof.Laws.RoundTrip.beq (a : BitVec 5) (b : BitVec 5) (i : BitVec 16) : Statement (.beq a b i) := by
  intro hwf
  refine control_back ?_
  obtain ⟨cw, hw⟩ : ∃ cw : Code, cw = 12#6 ++ a ++ b ++ i := ⟨_, rfl⟩
  rw [← hw]
  have h26_6 : fld cw 26 6 = 12#6 := hw ▸ hi (hi (hi rfl))
  have h21_5 : fld cw 21 5 = a := hw ▸ hi (hi (lo all_))
  have h16_5 : fld cw 16 5 = b := hw ▸ hi (lo all_)
  have h0_16 : fld cw 0 16 = i := hw ▸ lo all_
  clear hw
  refine (show decodeControl cw = .ok (.beq (fld cw 21 5) (fld cw 16 5) (fld cw 0 16)) by unfold decodeControl; rw [h26_6]; rfl).trans ?_
  simp only [h21_5, h16_5, h0_16]

theorem Sys2Proof.Laws.RoundTrip.bne (a : BitVec 5) (b : BitVec 5) (i : BitVec 16) : Statement (.bne a b i) := by
  intro hwf
  refine control_back ?_
  obtain ⟨cw, hw⟩ : ∃ cw : Code, cw = 13#6 ++ a ++ b ++ i := ⟨_, rfl⟩
  rw [← hw]
  have h26_6 : fld cw 26 6 = 13#6 := hw ▸ hi (hi (hi rfl))
  have h21_5 : fld cw 21 5 = a := hw ▸ hi (hi (lo all_))
  have h16_5 : fld cw 16 5 = b := hw ▸ hi (lo all_)
  have h0_16 : fld cw 0 16 = i := hw ▸ lo all_
  clear hw
  refine (show decodeControl cw = .ok (.bne (fld cw 21 5) (fld cw 16 5) (fld cw 0 16)) by unfold decodeControl; rw [h26_6]; rfl).trans ?_
  simp only [h21_5, h16_5, h0_16]

theorem Sys2Proof.Laws.RoundTrip.blt (a : BitVec 5) (b : BitVec 5) (i : BitVec 16) : Statement (.blt a b i) := by
  intro hwf
  refine control_back ?_
  obtain ⟨cw, hw⟩ : ∃ cw : Code, cw = 14#6 ++ a ++ b ++ i := ⟨_, rfl⟩
  rw [← hw]
  have h26_6 : fld cw 26 6 = 14#6 := hw ▸ hi (hi (hi rfl))
  have h21_5 : fld cw 21 5 = a := hw ▸ hi (hi (lo all_))
  have h16_5 : fld cw 16 5 = b := hw ▸ hi (lo all_)
  have h0_16 : fld cw 0 16 = i := hw ▸ lo all_
  clear hw
  refine (show decodeControl cw = .ok (.blt (fld cw 21 5) (fld cw 16 5) (fld cw 0 16)) by unfold decodeControl; rw [h26_6]; rfl).trans ?_
  simp only [h21_5, h16_5, h0_16]

theorem Sys2Proof.Laws.RoundTrip.bge (a : BitVec 5) (b : BitVec 5) (i : BitVec 16) : Statement (.bge a b i) := by
  intro hwf
  refine control_back ?_
  obtain ⟨cw, hw⟩ : ∃ cw : Code, cw = 15#6 ++ a ++ b ++ i := ⟨_, rfl⟩
  rw [← hw]
  have h26_6 : fld cw 26 6 = 15#6 := hw ▸ hi (hi (hi rfl))
  have h21_5 : fld cw 21 5 = a := hw ▸ hi (hi (lo all_))
  have h16_5 : fld cw 16 5 = b := hw ▸ hi (lo all_)
  have h0_16 : fld cw 0 16 = i := hw ▸ lo all_
  clear hw
  refine (show decodeControl cw = .ok (.bge (fld cw 21 5) (fld cw 16 5) (fld cw 0 16)) by unfold decodeControl; rw [h26_6]; rfl).trans ?_
  simp only [h21_5, h16_5, h0_16]

theorem Sys2Proof.Laws.RoundTrip.bltu (a : BitVec 5) (b : BitVec 5) (i : BitVec 16) : Statement (.bltu a b i) := by
  intro hwf
  refine control_back ?_
  obtain ⟨cw, hw⟩ : ∃ cw : Code, cw = 16#6 ++ a ++ b ++ i := ⟨_, rfl⟩
  rw [← hw]
  have h26_6 : fld cw 26 6 = 16#6 := hw ▸ hi (hi (hi rfl))
  have h21_5 : fld cw 21 5 = a := hw ▸ hi (hi (lo all_))
  have h16_5 : fld cw 16 5 = b := hw ▸ hi (lo all_)
  have h0_16 : fld cw 0 16 = i := hw ▸ lo all_
  clear hw
  refine (show decodeControl cw = .ok (.bltu (fld cw 21 5) (fld cw 16 5) (fld cw 0 16)) by unfold decodeControl; rw [h26_6]; rfl).trans ?_
  simp only [h21_5, h16_5, h0_16]

theorem Sys2Proof.Laws.RoundTrip.bgeu (a : BitVec 5) (b : BitVec 5) (i : BitVec 16) : Statement (.bgeu a b i) := by
  intro hwf
  refine control_back ?_
  obtain ⟨cw, hw⟩ : ∃ cw : Code, cw = 17#6 ++ a ++ b ++ i := ⟨_, rfl⟩
  rw [← hw]
  have h26_6 : fld cw 26 6 = 17#6 := hw ▸ hi (hi (hi rfl))
  have h21_5 : fld cw 21 5 = a := hw ▸ hi (hi (lo all_))
  have h16_5 : fld cw 16 5 = b := hw ▸ hi (lo all_)
  have h0_16 : fld cw 0 16 = i := hw ▸ lo all_
  clear hw
  refine (show decodeControl cw = .ok (.bgeu (fld cw 21 5) (fld cw 16 5) (fld cw 0 16)) by unfold decodeControl; rw [h26_6]; rfl).trans ?_
  simp only [h21_5, h16_5, h0_16]

theorem Sys2Proof.Laws.RoundTrip.jal (d : BitVec 5) (i : BitVec 21) : Statement (.jal d i) := by
  intro hwf
  refine control_back ?_
  obtain ⟨cw, hw⟩ : ∃ cw : Code, cw = 18#6 ++ d ++ i := ⟨_, rfl⟩
  rw [← hw]
  have h26_6 : fld cw 26 6 = 18#6 := hw ▸ hi (hi rfl)
  have h21_5 : fld cw 21 5 = d := hw ▸ hi (lo all_)
  have h0_21 : fld cw 0 21 = i := hw ▸ lo all_
  clear hw
  refine (show decodeControl cw = .ok (.jal (fld cw 21 5) (fld cw 0 21)) by unfold decodeControl; rw [h26_6]; rfl).trans ?_
  simp only [h21_5, h0_21]

theorem Sys2Proof.Laws.RoundTrip.jalr (d : BitVec 5) (a : BitVec 5) (i : BitVec 16) : Statement (.jalr d a i) := by
  intro hwf
  refine control_back ?_
  obtain ⟨cw, hw⟩ : ∃ cw : Code, cw = 19#6 ++ d ++ a ++ i := ⟨_, rfl⟩
  rw [← hw]
  have h26_6 : fld cw 26 6 = 19#6 := hw ▸ hi (hi (hi rfl))
  have h21_5 : fld cw 21 5 = d := hw ▸ hi (hi (lo all_))
  have h16_5 : fld cw 16 5 = a := hw ▸ hi (lo all_)
  have h0_16 : fld cw 0 16 = i := hw ▸ lo all_
  clear hw
  refine (show decodeControl cw = .ok (.jalr (fld cw 21 5) (fld cw 16 5) (fld cw 0 16)) by unfold decodeControl; rw [h26_6]; rfl).trans ?_
  simp only [h21_5, h16_5, h0_16]

theorem Sys2Proof.Laws.RoundTrip.ldb (d : BitVec 5) (r : BitVec 3) (i : BitVec 18) : Statement (.ldb d r i) := by
  intro hwf
  refine control_back ?_
  obtain ⟨cw, hw⟩ : ∃ cw : Code, cw = 20#6 ++ d ++ r ++ i := ⟨_, rfl⟩
  rw [← hw]
  have h26_6 : fld cw 26 6 = 20#6 := hw ▸ hi (hi (hi rfl))
  have h21_5 : fld cw 21 5 = d := hw ▸ hi (hi (lo all_))
  have h18_3 : fld cw 18 3 = r := hw ▸ hi (lo all_)
  have h0_18 : fld cw 0 18 = i := hw ▸ lo all_
  clear hw
  refine (show decodeControl cw = .ok (.ldb (fld cw 21 5) (fld cw 18 3) (fld cw 0 18)) by unfold decodeControl; rw [h26_6]; rfl).trans ?_
  simp only [h21_5, h18_3, h0_18]

theorem Sys2Proof.Laws.RoundTrip.ldbu (d : BitVec 5) (r : BitVec 3) (i : BitVec 18) : Statement (.ldbu d r i) := by
  intro hwf
  refine control_back ?_
  obtain ⟨cw, hw⟩ : ∃ cw : Code, cw = 21#6 ++ d ++ r ++ i := ⟨_, rfl⟩
  rw [← hw]
  have h26_6 : fld cw 26 6 = 21#6 := hw ▸ hi (hi (hi rfl))
  have h21_5 : fld cw 21 5 = d := hw ▸ hi (hi (lo all_))
  have h18_3 : fld cw 18 3 = r := hw ▸ hi (lo all_)
  have h0_18 : fld cw 0 18 = i := hw ▸ lo all_
  clear hw
  refine (show decodeControl cw = .ok (.ldbu (fld cw 21 5) (fld cw 18 3) (fld cw 0 18)) by unfold decodeControl; rw [h26_6]; rfl).trans ?_
  simp only [h21_5, h18_3, h0_18]

theorem Sys2Proof.Laws.RoundTrip.ldh (d : BitVec 5) (r : BitVec 3) (i : BitVec 18) : Statement (.ldh d r i) := by
  intro hwf
  refine control_back ?_
  obtain ⟨cw, hw⟩ : ∃ cw : Code, cw = 22#6 ++ d ++ r ++ i := ⟨_, rfl⟩
  rw [← hw]
  have h26_6 : fld cw 26 6 = 22#6 := hw ▸ hi (hi (hi rfl))
  have h21_5 : fld cw 21 5 = d := hw ▸ hi (hi (lo all_))
  have h18_3 : fld cw 18 3 = r := hw ▸ hi (lo all_)
  have h0_18 : fld cw 0 18 = i := hw ▸ lo all_
  clear hw
  refine (show decodeControl cw = .ok (.ldh (fld cw 21 5) (fld cw 18 3) (fld cw 0 18)) by unfold decodeControl; rw [h26_6]; rfl).trans ?_
  simp only [h21_5, h18_3, h0_18]

theorem Sys2Proof.Laws.RoundTrip.ldhu (d : BitVec 5) (r : BitVec 3) (i : BitVec 18) : Statement (.ldhu d r i) := by
  intro hwf
  refine control_back ?_
  obtain ⟨cw, hw⟩ : ∃ cw : Code, cw = 23#6 ++ d ++ r ++ i := ⟨_, rfl⟩
  rw [← hw]
  have h26_6 : fld cw 26 6 = 23#6 := hw ▸ hi (hi (hi rfl))
  have h21_5 : fld cw 21 5 = d := hw ▸ hi (hi (lo all_))
  have h18_3 : fld cw 18 3 = r := hw ▸ hi (lo all_)
  have h0_18 : fld cw 0 18 = i := hw ▸ lo all_
  clear hw
  refine (show decodeControl cw = .ok (.ldhu (fld cw 21 5) (fld cw 18 3) (fld cw 0 18)) by unfold decodeControl; rw [h26_6]; rfl).trans ?_
  simp only [h21_5, h18_3, h0_18]

theorem Sys2Proof.Laws.RoundTrip.ldw (d : BitVec 5) (r : BitVec 3) (i : BitVec 18) : Statement (.ldw d r i) := by
  intro hwf
  refine control_back ?_
  obtain ⟨cw, hw⟩ : ∃ cw : Code, cw = 24#6 ++ d ++ r ++ i := ⟨_, rfl⟩
  rw [← hw]
  have h26_6 : fld cw 26 6 = 24#6 := hw ▸ hi (hi (hi rfl))
  have h21_5 : fld cw 21 5 = d := hw ▸ hi (hi (lo all_))
  have h18_3 : fld cw 18 3 = r := hw ▸ hi (lo all_)
  have h0_18 : fld cw 0 18 = i := hw ▸ lo all_
  clear hw
  refine (show decodeControl cw = .ok (.ldw (fld cw 21 5) (fld cw 18 3) (fld cw 0 18)) by unfold decodeControl; rw [h26_6]; rfl).trans ?_
  simp only [h21_5, h18_3, h0_18]

theorem Sys2Proof.Laws.RoundTrip.ldwu (d : BitVec 5) (r : BitVec 3) (i : BitVec 18) : Statement (.ldwu d r i) := by
  intro hwf
  refine control_back ?_
  obtain ⟨cw, hw⟩ : ∃ cw : Code, cw = 25#6 ++ d ++ r ++ i := ⟨_, rfl⟩
  rw [← hw]
  have h26_6 : fld cw 26 6 = 25#6 := hw ▸ hi (hi (hi rfl))
  have h21_5 : fld cw 21 5 = d := hw ▸ hi (hi (lo all_))
  have h18_3 : fld cw 18 3 = r := hw ▸ hi (lo all_)
  have h0_18 : fld cw 0 18 = i := hw ▸ lo all_
  clear hw
  refine (show decodeControl cw = .ok (.ldwu (fld cw 21 5) (fld cw 18 3) (fld cw 0 18)) by unfold decodeControl; rw [h26_6]; rfl).trans ?_
  simp only [h21_5, h18_3, h0_18]

theorem Sys2Proof.Laws.RoundTrip.ldd (d : BitVec 5) (r : BitVec 3) (i : BitVec 18) : Statement (.ldd d r i) := by
  intro hwf
  refine control_back ?_
  obtain ⟨cw, hw⟩ : ∃ cw : Code, cw = 26#6 ++ d ++ r ++ i := ⟨_, rfl⟩
  rw [← hw]
  have h26_6 : fld cw 26 6 = 26#6 := hw ▸ hi (hi (hi rfl))
  have h21_5 : fld cw 21 5 = d := hw ▸ hi (hi (lo all_))
  have h18_3 : fld cw 18 3 = r := hw ▸ hi (lo all_)
  have h0_18 : fld cw 0 18 = i := hw ▸ lo all_
  clear hw
  refine (show decodeControl cw = .ok (.ldd (fld cw 21 5) (fld cw 18 3) (fld cw 0 18)) by unfold decodeControl; rw [h26_6]; rfl).trans ?_
  simp only [h21_5, h18_3, h0_18]

theorem Sys2Proof.Laws.RoundTrip.stb (d : BitVec 5) (r : BitVec 3) (i : BitVec 18) : Statement (.stb d r i) := by
  intro hwf
  refine control_back ?_
  obtain ⟨cw, hw⟩ : ∃ cw : Code, cw = 27#6 ++ d ++ r ++ i := ⟨_, rfl⟩
  rw [← hw]
  have h26_6 : fld cw 26 6 = 27#6 := hw ▸ hi (hi (hi rfl))
  have h21_5 : fld cw 21 5 = d := hw ▸ hi (hi (lo all_))
  have h18_3 : fld cw 18 3 = r := hw ▸ hi (lo all_)
  have h0_18 : fld cw 0 18 = i := hw ▸ lo all_
  clear hw
  refine (show decodeControl cw = .ok (.stb (fld cw 21 5) (fld cw 18 3) (fld cw 0 18)) by unfold decodeControl; rw [h26_6]; rfl).trans ?_
  simp only [h21_5, h18_3, h0_18]

theorem Sys2Proof.Laws.RoundTrip.sth (d : BitVec 5) (r : BitVec 3) (i : BitVec 18) : Statement (.sth d r i) := by
  intro hwf
  refine control_back ?_
  obtain ⟨cw, hw⟩ : ∃ cw : Code, cw = 28#6 ++ d ++ r ++ i := ⟨_, rfl⟩
  rw [← hw]
  have h26_6 : fld cw 26 6 = 28#6 := hw ▸ hi (hi (hi rfl))
  have h21_5 : fld cw 21 5 = d := hw ▸ hi (hi (lo all_))
  have h18_3 : fld cw 18 3 = r := hw ▸ hi (lo all_)
  have h0_18 : fld cw 0 18 = i := hw ▸ lo all_
  clear hw
  refine (show decodeControl cw = .ok (.sth (fld cw 21 5) (fld cw 18 3) (fld cw 0 18)) by unfold decodeControl; rw [h26_6]; rfl).trans ?_
  simp only [h21_5, h18_3, h0_18]

theorem Sys2Proof.Laws.RoundTrip.stw (d : BitVec 5) (r : BitVec 3) (i : BitVec 18) : Statement (.stw d r i) := by
  intro hwf
  refine control_back ?_
  obtain ⟨cw, hw⟩ : ∃ cw : Code, cw = 29#6 ++ d ++ r ++ i := ⟨_, rfl⟩
  rw [← hw]
  have h26_6 : fld cw 26 6 = 29#6 := hw ▸ hi (hi (hi rfl))
  have h21_5 : fld cw 21 5 = d := hw ▸ hi (hi (lo all_))
  have h18_3 : fld cw 18 3 = r := hw ▸ hi (lo all_)
  have h0_18 : fld cw 0 18 = i := hw ▸ lo all_
  clear hw
  refine (show decodeControl cw = .ok (.stw (fld cw 21 5) (fld cw 18 3) (fld cw 0 18)) by unfold decodeControl; rw [h26_6]; rfl).trans ?_
  simp only [h21_5, h18_3, h0_18]

theorem Sys2Proof.Laws.RoundTrip.std (d : BitVec 5) (r : BitVec 3) (i : BitVec 18) : Statement (.std d r i) := by
  intro hwf
  refine control_back ?_
  obtain ⟨cw, hw⟩ : ∃ cw : Code, cw = 30#6 ++ d ++ r ++ i := ⟨_, rfl⟩
  rw [← hw]
  have h26_6 : fld cw 26 6 = 30#6 := hw ▸ hi (hi (hi rfl))
  have h21_5 : fld cw 21 5 = d := hw ▸ hi (hi (lo all_))
  have h18_3 : fld cw 18 3 = r := hw ▸ hi (lo all_)
  have h0_18 : fld cw 0 18 = i := hw ▸ lo all_
  clear hw
  refine (show decodeControl cw = .ok (.std (fld cw 21 5) (fld cw 18 3) (fld cw 0 18)) by unfold decodeControl; rw [h26_6]; rfl).trans ?_
  simp only [h21_5, h18_3, h0_18]

theorem Sys2Proof.Laws.RoundTrip.fldw (d : BitVec 5) (r : BitVec 3) (i : BitVec 18) : Statement (.fldw d r i) := by
  intro hwf
  refine control_back ?_
  obtain ⟨cw, hw⟩ : ∃ cw : Code, cw = 31#6 ++ d ++ r ++ i := ⟨_, rfl⟩
  rw [← hw]
  have h26_6 : fld cw 26 6 = 31#6 := hw ▸ hi (hi (hi rfl))
  have h21_5 : fld cw 21 5 = d := hw ▸ hi (hi (lo all_))
  have h18_3 : fld cw 18 3 = r := hw ▸ hi (lo all_)
  have h0_18 : fld cw 0 18 = i := hw ▸ lo all_
  clear hw
  refine (show decodeControl cw = .ok (.fldw (fld cw 21 5) (fld cw 18 3) (fld cw 0 18)) by unfold decodeControl; rw [h26_6]; rfl).trans ?_
  simp only [h21_5, h18_3, h0_18]

theorem Sys2Proof.Laws.RoundTrip.fldd (d : BitVec 5) (r : BitVec 3) (i : BitVec 18) : Statement (.fldd d r i) := by
  intro hwf
  refine control_back ?_
  obtain ⟨cw, hw⟩ : ∃ cw : Code, cw = 32#6 ++ d ++ r ++ i := ⟨_, rfl⟩
  rw [← hw]
  have h26_6 : fld cw 26 6 = 32#6 := hw ▸ hi (hi (hi rfl))
  have h21_5 : fld cw 21 5 = d := hw ▸ hi (hi (lo all_))
  have h18_3 : fld cw 18 3 = r := hw ▸ hi (lo all_)
  have h0_18 : fld cw 0 18 = i := hw ▸ lo all_
  clear hw
  refine (show decodeControl cw = .ok (.fldd (fld cw 21 5) (fld cw 18 3) (fld cw 0 18)) by unfold decodeControl; rw [h26_6]; rfl).trans ?_
  simp only [h21_5, h18_3, h0_18]

theorem Sys2Proof.Laws.RoundTrip.fstw (d : BitVec 5) (r : BitVec 3) (i : BitVec 18) : Statement (.fstw d r i) := by
  intro hwf
  refine control_back ?_
  obtain ⟨cw, hw⟩ : ∃ cw : Code, cw = 33#6 ++ d ++ r ++ i := ⟨_, rfl⟩
  rw [← hw]
  have h26_6 : fld cw 26 6 = 33#6 := hw ▸ hi (hi (hi rfl))
  have h21_5 : fld cw 21 5 = d := hw ▸ hi (hi (lo all_))
  have h18_3 : fld cw 18 3 = r := hw ▸ hi (lo all_)
  have h0_18 : fld cw 0 18 = i := hw ▸ lo all_
  clear hw
  refine (show decodeControl cw = .ok (.fstw (fld cw 21 5) (fld cw 18 3) (fld cw 0 18)) by unfold decodeControl; rw [h26_6]; rfl).trans ?_
  simp only [h21_5, h18_3, h0_18]

theorem Sys2Proof.Laws.RoundTrip.fstd (d : BitVec 5) (r : BitVec 3) (i : BitVec 18) : Statement (.fstd d r i) := by
  intro hwf
  refine control_back ?_
  obtain ⟨cw, hw⟩ : ∃ cw : Code, cw = 34#6 ++ d ++ r ++ i := ⟨_, rfl⟩
  rw [← hw]
  have h26_6 : fld cw 26 6 = 34#6 := hw ▸ hi (hi (hi rfl))
  have h21_5 : fld cw 21 5 = d := hw ▸ hi (hi (lo all_))
  have h18_3 : fld cw 18 3 = r := hw ▸ hi (lo all_)
  have h0_18 : fld cw 0 18 = i := hw ▸ lo all_
  clear hw
  refine (show decodeControl cw = .ok (.fstd (fld cw 21 5) (fld cw 18 3) (fld cw 0 18)) by unfold decodeControl; rw [h26_6]; rfl).trans ?_
  simp only [h21_5, h18_3, h0_18]

theorem Sys2Proof.Laws.RoundTrip.amov (d : BitVec 3) (a : BitVec 3) : Statement (.amov d a) := by
  intro hwf
  refine control_back ?_
  obtain ⟨cw, hw⟩ : ∃ cw : Code, cw = 35#6 ++ 0#2 ++ d ++ 0#2 ++ a ++ 0#16 := ⟨_, rfl⟩
  rw [← hw]
  have h26_6 : fld cw 26 6 = 35#6 := hw ▸ hi (hi (hi (hi (hi rfl))))
  have h0_6 : fld cw 0 6 = 0#6 := hw ▸ lo rfl
  have h6_10 : fld cw 6 10 = 0#10 := hw ▸ lo rfl
  have h19_2 : fld cw 19 2 = 0#2 := hw ▸ hi (hi (lo rfl))
  have h24_2 : fld cw 24 2 = 0#2 := hw ▸ hi (hi (hi (hi (lo rfl))))
  have h21_3 : fld cw 21 3 = d := hw ▸ hi (hi (hi (lo all_)))
  have h16_3 : fld cw 16 3 = a := hw ▸ hi (lo all_)
  clear hw
  refine (show decodeControl cw = Decode.adr cw by unfold decodeControl; rw [h26_6]; rfl).trans ?_
  refine (show Decode.adr cw = Decode.need (fld cw 6 10 == 0 && fld cw 19 2 == 0 && fld cw 24 2 == 0) .unusedField (.ok (.amov (fld cw 21 3) (fld cw 16 3))) by unfold Decode.adr; rw [h0_6]; rfl).trans ?_
  simp only [h6_10, h19_2, h24_2, h21_3, h16_3]
  rfl

theorem Sys2Proof.Laws.RoundTrip.aadd (d : BitVec 3) (a : BitVec 3) (b : BitVec 5) : Statement (.aadd d a b) := by
  intro hwf
  refine control_back ?_
  obtain ⟨cw, hw⟩ : ∃ cw : Code, cw = 35#6 ++ 0#2 ++ d ++ 0#2 ++ a ++ b ++ 1#11 := ⟨_, rfl⟩
  rw [← hw]
  have h26_6 : fld cw 26 6 = 35#6 := hw ▸ hi (hi (hi (hi (hi (hi rfl)))))
  have h0_6 : fld cw 0 6 = 1#6 := hw ▸ lo rfl
  have h6_5 : fld cw 6 5 = 0#5 := hw ▸ lo rfl
  have h19_2 : fld cw 19 2 = 0#2 := hw ▸ hi (hi (hi (lo rfl)))
  have h24_2 : fld cw 24 2 = 0#2 := hw ▸ hi (hi (hi (hi (hi (lo rfl)))))
  have h21_3 : fld cw 21 3 = d := hw ▸ hi (hi (hi (hi (lo all_))))
  have h16_3 : fld cw 16 3 = a := hw ▸ hi (hi (lo all_))
  have h11_5 : fld cw 11 5 = b := hw ▸ hi (lo all_)
  clear hw
  refine (show decodeControl cw = Decode.adr cw by unfold decodeControl; rw [h26_6]; rfl).trans ?_
  refine (show Decode.adr cw = Decode.need (fld cw 6 5 == 0 && fld cw 19 2 == 0 && fld cw 24 2 == 0) .unusedField (.ok (.aadd (fld cw 21 3) (fld cw 16 3) (fld cw 11 5))) by unfold Decode.adr; rw [h0_6]; rfl).trans ?_
  simp only [h6_5, h19_2, h24_2, h21_3, h16_3, h11_5]
  rfl

theorem Sys2Proof.Laws.RoundTrip.aset (d : BitVec 3) (a : BitVec 5) (b : BitVec 5) : Statement (.aset d a b) := by
  intro hwf
  refine control_back ?_
  obtain ⟨cw, hw⟩ : ∃ cw : Code, cw = 35#6 ++ 0#2 ++ d ++ a ++ b ++ 2#11 := ⟨_, rfl⟩
  rw [← hw]
  have h26_6 : fld cw 26 6 = 35#6 := hw ▸ hi (hi (hi (hi (hi rfl))))
  have h0_6 : fld cw 0 6 = 2#6 := hw ▸ lo rfl
  have h6_5 : fld cw 6 5 = 0#5 := hw ▸ lo rfl
  have h24_2 : fld cw 24 2 = 0#2 := hw ▸ hi (hi (hi (hi (lo rfl))))
  have h21_3 : fld cw 21 3 = d := hw ▸ hi (hi (hi (lo all_)))
  have h16_5 : fld cw 16 5 = a := hw ▸ hi (hi (lo all_))
  have h11_5 : fld cw 11 5 = b := hw ▸ hi (lo all_)
  clear hw
  refine (show decodeControl cw = Decode.adr cw by unfold decodeControl; rw [h26_6]; rfl).trans ?_
  refine (show Decode.adr cw = Decode.need (fld cw 6 5 == 0 && fld cw 24 2 == 0) .unusedField (.ok (.aset (fld cw 21 3) (fld cw 16 5) (fld cw 11 5))) by unfold Decode.adr; rw [h0_6]; rfl).trans ?_
  simp only [h6_5, h24_2, h21_3, h16_5, h11_5]
  rfl

theorem Sys2Proof.Laws.RoundTrip.agetl (d : BitVec 5) (a : BitVec 3) : Statement (.agetl d a) := by
  intro hwf
  refine control_back ?_
  obtain ⟨cw, hw⟩ : ∃ cw : Code, cw = 35#6 ++ d ++ 0#2 ++ a ++ 3#16 := ⟨_, rfl⟩
  rw [← hw]
  have h26_6 : fld cw 26 6 = 35#6 := hw ▸ hi (hi (hi (hi rfl)))
  have h0_6 : fld cw 0 6 = 3#6 := hw ▸ lo rfl
  have h6_10 : fld cw 6 10 = 0#10 := hw ▸ lo rfl
  have h19_2 : fld cw 19 2 = 0#2 := hw ▸ hi (hi (lo rfl))
  have h21_5 : fld cw 21 5 = d := hw ▸ hi (hi (hi (lo all_)))
  have h16_3 : fld cw 16 3 = a := hw ▸ hi (lo all_)
  clear hw
  refine (show decodeControl cw = Decode.adr cw by unfold decodeControl; rw [h26_6]; rfl).trans ?_
  refine (show Decode.adr cw = Decode.need (fld cw 6 10 == 0 && fld cw 19 2 == 0) .unusedField (.ok (.agetl (fld cw 21 5) (fld cw 16 3))) by unfold Decode.adr; rw [h0_6]; rfl).trans ?_
  simp only [h6_10, h19_2, h21_5, h16_3]
  rfl

theorem Sys2Proof.Laws.RoundTrip.ageth (d : BitVec 5) (a : BitVec 3) : Statement (.ageth d a) := by
  intro hwf
  refine control_back ?_
  obtain ⟨cw, hw⟩ : ∃ cw : Code, cw = 35#6 ++ d ++ 0#2 ++ a ++ 4#16 := ⟨_, rfl⟩
  rw [← hw]
  have h26_6 : fld cw 26 6 = 35#6 := hw ▸ hi (hi (hi (hi rfl)))
  have h0_6 : fld cw 0 6 = 4#6 := hw ▸ lo rfl
  have h6_10 : fld cw 6 10 = 0#10 := hw ▸ lo rfl
  have h19_2 : fld cw 19 2 = 0#2 := hw ▸ hi (hi (lo rfl))
  have h21_5 : fld cw 21 5 = d := hw ▸ hi (hi (hi (lo all_)))
  have h16_3 : fld cw 16 3 = a := hw ▸ hi (lo all_)
  clear hw
  refine (show decodeControl cw = Decode.adr cw by unfold decodeControl; rw [h26_6]; rfl).trans ?_
  refine (show Decode.adr cw = Decode.need (fld cw 6 10 == 0 && fld cw 19 2 == 0) .unusedField (.ok (.ageth (fld cw 21 5) (fld cw 16 3))) by unfold Decode.adr; rw [h0_6]; rfl).trans ?_
  simp only [h6_10, h19_2, h21_5, h16_3]
  rfl

theorem Sys2Proof.Laws.RoundTrip.acmp (d : BitVec 5) (a : BitVec 3) (b : BitVec 3) : Statement (.acmp d a b) := by
  intro hwf
  refine control_back ?_
  obtain ⟨cw, hw⟩ : ∃ cw : Code, cw = 35#6 ++ d ++ 0#2 ++ a ++ 0#2 ++ b ++ 5#11 := ⟨_, rfl⟩
  rw [← hw]
  have h26_6 : fld cw 26 6 = 35#6 := hw ▸ hi (hi (hi (hi (hi (hi rfl)))))
  have h0_6 : fld cw 0 6 = 5#6 := hw ▸ lo rfl
  have h6_5 : fld cw 6 5 = 0#5 := hw ▸ lo rfl
  have h14_2 : fld cw 14 2 = 0#2 := hw ▸ hi (hi (lo rfl))
  have h19_2 : fld cw 19 2 = 0#2 := hw ▸ hi (hi (hi (hi (lo rfl))))
  have h21_5 : fld cw 21 5 = d := hw ▸ hi (hi (hi (hi (hi (lo all_)))))
  have h16_3 : fld cw 16 3 = a := hw ▸ hi (hi (hi (lo all_)))
  have h11_3 : fld cw 11 3 = b := hw ▸ hi (lo all_)
  clear hw
  refine (show decodeControl cw = Decode.adr cw by unfold decodeControl; rw [h26_6]; rfl).trans ?_
  refine (show Decode.adr cw = Decode.need (fld cw 6 5 == 0 && fld cw 14 2 == 0 && fld cw 19 2 == 0) .unusedField (.ok (.acmp (fld cw 21 5) (fld cw 16 3) (fld cw 11 3))) by unfold Decode.adr; rw [h0_6]; rfl).trans ?_
  simp only [h6_5, h14_2, h19_2, h21_5, h16_3, h11_3]
  rfl

theorem Sys2Proof.Laws.RoundTrip.aaddi (d : BitVec 3) (a : BitVec 3) (i : BitVec 16) : Statement (.aaddi d a i) := by
  intro hwf
  refine control_back ?_
  obtain ⟨cw, hw⟩ : ∃ cw : Code, cw = 36#6 ++ 0#2 ++ d ++ 0#2 ++ a ++ i := ⟨_, rfl⟩
  rw [← hw]
  have h26_6 : fld cw 26 6 = 36#6 := hw ▸ hi (hi (hi (hi (hi rfl))))
  have h19_2 : fld cw 19 2 = 0#2 := hw ▸ hi (hi (lo rfl))
  have h24_2 : fld cw 24 2 = 0#2 := hw ▸ hi (hi (hi (hi (lo rfl))))
  have h21_3 : fld cw 21 3 = d := hw ▸ hi (hi (hi (lo all_)))
  have h16_3 : fld cw 16 3 = a := hw ▸ hi (lo all_)
  have h0_16 : fld cw 0 16 = i := hw ▸ lo all_
  clear hw
  refine (show decodeControl cw = Decode.need (fld cw 19 2 == 0 && fld cw 24 2 == 0) .unusedField (.ok (.aaddi (fld cw 21 3) (fld cw 16 3) (fld cw 0 16))) by unfold decodeControl; rw [h26_6]; rfl).trans ?_
  simp only [h19_2, h24_2, h21_3, h16_3, h0_16]
  rfl

theorem Sys2Proof.Laws.RoundTrip.fadd (d : BitVec 5) (a : BitVec 5) (b : BitVec 5) (t : BitVec 1) : Statement (.fadd d a b t) := by
  intro hwf
  refine control_back ?_
  obtain ⟨cw, hw⟩ : ∃ cw : Code, cw = 37#6 ++ d ++ a ++ b ++ 0#4 ++ t ++ 0#6 := ⟨_, rfl⟩
  rw [← hw]
  have h26_6 : fld cw 26 6 = 37#6 := hw ▸ hi (hi (hi (hi (hi (hi rfl)))))
  have h0_6 : fld cw 0 6 = 0#6 := hw ▸ lo rfl
  have h7_4 : fld cw 7 4 = 0#4 := hw ▸ hi (hi (lo rfl))
  have h21_5 : fld cw 21 5 = d := hw ▸ hi (hi (hi (hi (hi (lo all_)))))
  have h16_5 : fld cw 16 5 = a := hw ▸ hi (hi (hi (hi (lo all_))))
  have h11_5 : fld cw 11 5 = b := hw ▸ hi (hi (hi (lo all_)))
  have h6_1 : fld cw 6 1 = t := hw ▸ hi (lo all_)
  clear hw
  refine (show decodeControl cw = Decode.fpu cw by unfold decodeControl; rw [h26_6]; rfl).trans ?_
  refine (show Decode.fpu cw = Decode.need (fld cw 7 4 == 0) .unusedField (.ok (.fadd (fld cw 21 5) (fld cw 16 5) (fld cw 11 5) (fld cw 6 1))) by unfold Decode.fpu; rw [h0_6]; rfl).trans ?_
  simp only [h7_4, h21_5, h16_5, h11_5, h6_1]
  rfl

theorem Sys2Proof.Laws.RoundTrip.fsub (d : BitVec 5) (a : BitVec 5) (b : BitVec 5) (t : BitVec 1) : Statement (.fsub d a b t) := by
  intro hwf
  refine control_back ?_
  obtain ⟨cw, hw⟩ : ∃ cw : Code, cw = 37#6 ++ d ++ a ++ b ++ 0#4 ++ t ++ 1#6 := ⟨_, rfl⟩
  rw [← hw]
  have h26_6 : fld cw 26 6 = 37#6 := hw ▸ hi (hi (hi (hi (hi (hi rfl)))))
  have h0_6 : fld cw 0 6 = 1#6 := hw ▸ lo rfl
  have h7_4 : fld cw 7 4 = 0#4 := hw ▸ hi (hi (lo rfl))
  have h21_5 : fld cw 21 5 = d := hw ▸ hi (hi (hi (hi (hi (lo all_)))))
  have h16_5 : fld cw 16 5 = a := hw ▸ hi (hi (hi (hi (lo all_))))
  have h11_5 : fld cw 11 5 = b := hw ▸ hi (hi (hi (lo all_)))
  have h6_1 : fld cw 6 1 = t := hw ▸ hi (lo all_)
  clear hw
  refine (show decodeControl cw = Decode.fpu cw by unfold decodeControl; rw [h26_6]; rfl).trans ?_
  refine (show Decode.fpu cw = Decode.need (fld cw 7 4 == 0) .unusedField (.ok (.fsub (fld cw 21 5) (fld cw 16 5) (fld cw 11 5) (fld cw 6 1))) by unfold Decode.fpu; rw [h0_6]; rfl).trans ?_
  simp only [h7_4, h21_5, h16_5, h11_5, h6_1]
  rfl

theorem Sys2Proof.Laws.RoundTrip.fmul (d : BitVec 5) (a : BitVec 5) (b : BitVec 5) (t : BitVec 1) : Statement (.fmul d a b t) := by
  intro hwf
  refine control_back ?_
  obtain ⟨cw, hw⟩ : ∃ cw : Code, cw = 37#6 ++ d ++ a ++ b ++ 0#4 ++ t ++ 2#6 := ⟨_, rfl⟩
  rw [← hw]
  have h26_6 : fld cw 26 6 = 37#6 := hw ▸ hi (hi (hi (hi (hi (hi rfl)))))
  have h0_6 : fld cw 0 6 = 2#6 := hw ▸ lo rfl
  have h7_4 : fld cw 7 4 = 0#4 := hw ▸ hi (hi (lo rfl))
  have h21_5 : fld cw 21 5 = d := hw ▸ hi (hi (hi (hi (hi (lo all_)))))
  have h16_5 : fld cw 16 5 = a := hw ▸ hi (hi (hi (hi (lo all_))))
  have h11_5 : fld cw 11 5 = b := hw ▸ hi (hi (hi (lo all_)))
  have h6_1 : fld cw 6 1 = t := hw ▸ hi (lo all_)
  clear hw
  refine (show decodeControl cw = Decode.fpu cw by unfold decodeControl; rw [h26_6]; rfl).trans ?_
  refine (show Decode.fpu cw = Decode.need (fld cw 7 4 == 0) .unusedField (.ok (.fmul (fld cw 21 5) (fld cw 16 5) (fld cw 11 5) (fld cw 6 1))) by unfold Decode.fpu; rw [h0_6]; rfl).trans ?_
  simp only [h7_4, h21_5, h16_5, h11_5, h6_1]
  rfl

theorem Sys2Proof.Laws.RoundTrip.fdiv (d : BitVec 5) (a : BitVec 5) (b : BitVec 5) (t : BitVec 1) : Statement (.fdiv d a b t) := by
  intro hwf
  refine control_back ?_
  obtain ⟨cw, hw⟩ : ∃ cw : Code, cw = 37#6 ++ d ++ a ++ b ++ 0#4 ++ t ++ 3#6 := ⟨_, rfl⟩
  rw [← hw]
  have h26_6 : fld cw 26 6 = 37#6 := hw ▸ hi (hi (hi (hi (hi (hi rfl)))))
  have h0_6 : fld cw 0 6 = 3#6 := hw ▸ lo rfl
  have h7_4 : fld cw 7 4 = 0#4 := hw ▸ hi (hi (lo rfl))
  have h21_5 : fld cw 21 5 = d := hw ▸ hi (hi (hi (hi (hi (lo all_)))))
  have h16_5 : fld cw 16 5 = a := hw ▸ hi (hi (hi (hi (lo all_))))
  have h11_5 : fld cw 11 5 = b := hw ▸ hi (hi (hi (lo all_)))
  have h6_1 : fld cw 6 1 = t := hw ▸ hi (lo all_)
  clear hw
  refine (show decodeControl cw = Decode.fpu cw by unfold decodeControl; rw [h26_6]; rfl).trans ?_
  refine (show Decode.fpu cw = Decode.need (fld cw 7 4 == 0) .unusedField (.ok (.fdiv (fld cw 21 5) (fld cw 16 5) (fld cw 11 5) (fld cw 6 1))) by unfold Decode.fpu; rw [h0_6]; rfl).trans ?_
  simp only [h7_4, h21_5, h16_5, h11_5, h6_1]
  rfl

theorem Sys2Proof.Laws.RoundTrip.fsqrt (d : BitVec 5) (a : BitVec 5) (m : BitVec 5) (t : BitVec 1) : Statement (.fsqrt d a m t) := by
  intro hwf
  refine control_back ?_
  obtain ⟨cw, hw⟩ : ∃ cw : Code, cw = 37#6 ++ d ++ a ++ m ++ 0#4 ++ t ++ 4#6 := ⟨_, rfl⟩
  rw [← hw]
  have h26_6 : fld cw 26 6 = 37#6 := hw ▸ hi (hi (hi (hi (hi (hi rfl)))))
  have h0_6 : fld cw 0 6 = 4#6 := hw ▸ lo rfl
  have h7_4 : fld cw 7 4 = 0#4 := hw ▸ hi (hi (lo rfl))
  have h11_5 : fld cw 11 5 = m := hw ▸ hi (hi (hi (lo all_)))
  have h21_5 : fld cw 21 5 = d := hw ▸ hi (hi (hi (hi (hi (lo all_)))))
  have h16_5 : fld cw 16 5 = a := hw ▸ hi (hi (hi (hi (lo all_))))
  have h6_1 : fld cw 6 1 = t := hw ▸ hi (lo all_)
  clear hw
  refine (show decodeControl cw = Decode.fpu cw by unfold decodeControl; rw [h26_6]; rfl).trans ?_
  refine (show Decode.fpu cw = Decode.need (fld cw 7 4 == 0) .unusedField (Decode.need (Form.modeOk (fld cw 11 5)) .badMode (.ok (.fsqrt (fld cw 21 5) (fld cw 16 5) (fld cw 11 5) (fld cw 6 1)))) by unfold Decode.fpu; rw [h0_6]; rfl).trans ?_
  simp only [h7_4, h11_5, h21_5, h16_5, h6_1]
  simp only [Instr.wf] at hwf
  simp_all [Decode.need]

theorem Sys2Proof.Laws.RoundTrip.fmin (d : BitVec 5) (a : BitVec 5) (b : BitVec 5) (t : BitVec 1) : Statement (.fmin d a b t) := by
  intro hwf
  refine control_back ?_
  obtain ⟨cw, hw⟩ : ∃ cw : Code, cw = 37#6 ++ d ++ a ++ b ++ 0#4 ++ t ++ 5#6 := ⟨_, rfl⟩
  rw [← hw]
  have h26_6 : fld cw 26 6 = 37#6 := hw ▸ hi (hi (hi (hi (hi (hi rfl)))))
  have h0_6 : fld cw 0 6 = 5#6 := hw ▸ lo rfl
  have h7_4 : fld cw 7 4 = 0#4 := hw ▸ hi (hi (lo rfl))
  have h21_5 : fld cw 21 5 = d := hw ▸ hi (hi (hi (hi (hi (lo all_)))))
  have h16_5 : fld cw 16 5 = a := hw ▸ hi (hi (hi (hi (lo all_))))
  have h11_5 : fld cw 11 5 = b := hw ▸ hi (hi (hi (lo all_)))
  have h6_1 : fld cw 6 1 = t := hw ▸ hi (lo all_)
  clear hw
  refine (show decodeControl cw = Decode.fpu cw by unfold decodeControl; rw [h26_6]; rfl).trans ?_
  refine (show Decode.fpu cw = Decode.need (fld cw 7 4 == 0) .unusedField (.ok (.fmin (fld cw 21 5) (fld cw 16 5) (fld cw 11 5) (fld cw 6 1))) by unfold Decode.fpu; rw [h0_6]; rfl).trans ?_
  simp only [h7_4, h21_5, h16_5, h11_5, h6_1]
  rfl

theorem Sys2Proof.Laws.RoundTrip.fmax (d : BitVec 5) (a : BitVec 5) (b : BitVec 5) (t : BitVec 1) : Statement (.fmax d a b t) := by
  intro hwf
  refine control_back ?_
  obtain ⟨cw, hw⟩ : ∃ cw : Code, cw = 37#6 ++ d ++ a ++ b ++ 0#4 ++ t ++ 6#6 := ⟨_, rfl⟩
  rw [← hw]
  have h26_6 : fld cw 26 6 = 37#6 := hw ▸ hi (hi (hi (hi (hi (hi rfl)))))
  have h0_6 : fld cw 0 6 = 6#6 := hw ▸ lo rfl
  have h7_4 : fld cw 7 4 = 0#4 := hw ▸ hi (hi (lo rfl))
  have h21_5 : fld cw 21 5 = d := hw ▸ hi (hi (hi (hi (hi (lo all_)))))
  have h16_5 : fld cw 16 5 = a := hw ▸ hi (hi (hi (hi (lo all_))))
  have h11_5 : fld cw 11 5 = b := hw ▸ hi (hi (hi (lo all_)))
  have h6_1 : fld cw 6 1 = t := hw ▸ hi (lo all_)
  clear hw
  refine (show decodeControl cw = Decode.fpu cw by unfold decodeControl; rw [h26_6]; rfl).trans ?_
  refine (show Decode.fpu cw = Decode.need (fld cw 7 4 == 0) .unusedField (.ok (.fmax (fld cw 21 5) (fld cw 16 5) (fld cw 11 5) (fld cw 6 1))) by unfold Decode.fpu; rw [h0_6]; rfl).trans ?_
  simp only [h7_4, h21_5, h16_5, h11_5, h6_1]
  rfl

theorem Sys2Proof.Laws.RoundTrip.ffma (d : BitVec 5) (a : BitVec 5) (b : BitVec 5) (t : BitVec 1) : Statement (.ffma d a b t) := by
  intro hwf
  refine control_back ?_
  obtain ⟨cw, hw⟩ : ∃ cw : Code, cw = 37#6 ++ d ++ a ++ b ++ 0#4 ++ t ++ 7#6 := ⟨_, rfl⟩
  rw [← hw]
  have h26_6 : fld cw 26 6 = 37#6 := hw ▸ hi (hi (hi (hi (hi (hi rfl)))))
  have h0_6 : fld cw 0 6 = 7#6 := hw ▸ lo rfl
  have h7_4 : fld cw 7 4 = 0#4 := hw ▸ hi (hi (lo rfl))
  have h21_5 : fld cw 21 5 = d := hw ▸ hi (hi (hi (hi (hi (lo all_)))))
  have h16_5 : fld cw 16 5 = a := hw ▸ hi (hi (hi (hi (lo all_))))
  have h11_5 : fld cw 11 5 = b := hw ▸ hi (hi (hi (lo all_)))
  have h6_1 : fld cw 6 1 = t := hw ▸ hi (lo all_)
  clear hw
  refine (show decodeControl cw = Decode.fpu cw by unfold decodeControl; rw [h26_6]; rfl).trans ?_
  refine (show Decode.fpu cw = Decode.need (fld cw 7 4 == 0) .unusedField (.ok (.ffma (fld cw 21 5) (fld cw 16 5) (fld cw 11 5) (fld cw 6 1))) by unfold Decode.fpu; rw [h0_6]; rfl).trans ?_
  simp only [h7_4, h21_5, h16_5, h11_5, h6_1]
  rfl

theorem Sys2Proof.Laws.RoundTrip.ffms (d : BitVec 5) (a : BitVec 5) (b : BitVec 5) (t : BitVec 1) : Statement (.ffms d a b t) := by
  intro hwf
  refine control_back ?_
  obtain ⟨cw, hw⟩ : ∃ cw : Code, cw = 37#6 ++ d ++ a ++ b ++ 0#4 ++ t ++ 8#6 := ⟨_, rfl⟩
  rw [← hw]
  have h26_6 : fld cw 26 6 = 37#6 := hw ▸ hi (hi (hi (hi (hi (hi rfl)))))
  have h0_6 : fld cw 0 6 = 8#6 := hw ▸ lo rfl
  have h7_4 : fld cw 7 4 = 0#4 := hw ▸ hi (hi (lo rfl))
  have h21_5 : fld cw 21 5 = d := hw ▸ hi (hi (hi (hi (hi (lo all_)))))
  have h16_5 : fld cw 16 5 = a := hw ▸ hi (hi (hi (hi (lo all_))))
  have h11_5 : fld cw 11 5 = b := hw ▸ hi (hi (hi (lo all_)))
  have h6_1 : fld cw 6 1 = t := hw ▸ hi (lo all_)
  clear hw
  refine (show decodeControl cw = Decode.fpu cw by unfold decodeControl; rw [h26_6]; rfl).trans ?_
  refine (show Decode.fpu cw = Decode.need (fld cw 7 4 == 0) .unusedField (.ok (.ffms (fld cw 21 5) (fld cw 16 5) (fld cw 11 5) (fld cw 6 1))) by unfold Decode.fpu; rw [h0_6]; rfl).trans ?_
  simp only [h7_4, h21_5, h16_5, h11_5, h6_1]
  rfl

theorem Sys2Proof.Laws.RoundTrip.fneg (d : BitVec 5) (a : BitVec 5) (t : BitVec 1) : Statement (.fneg d a t) := by
  intro hwf
  refine control_back ?_
  obtain ⟨cw, hw⟩ : ∃ cw : Code, cw = 37#6 ++ d ++ a ++ 0#9 ++ t ++ 9#6 := ⟨_, rfl⟩
  rw [← hw]
  have h26_6 : fld cw 26 6 = 37#6 := hw ▸ hi (hi (hi (hi (hi rfl))))
  have h0_6 : fld cw 0 6 = 9#6 := hw ▸ lo rfl
  have h7_9 : fld cw 7 9 = 0#9 := hw ▸ hi (hi (lo rfl))
  have h21_5 : fld cw 21 5 = d := hw ▸ hi (hi (hi (hi (lo all_))))
  have h16_5 : fld cw 16 5 = a := hw ▸ hi (hi (hi (lo all_)))
  have h6_1 : fld cw 6 1 = t := hw ▸ hi (lo all_)
  clear hw
  refine (show decodeControl cw = Decode.fpu cw by unfold decodeControl; rw [h26_6]; rfl).trans ?_
  refine (show Decode.fpu cw = Decode.need (fld cw 7 9 == 0) .unusedField (.ok (.fneg (fld cw 21 5) (fld cw 16 5) (fld cw 6 1))) by unfold Decode.fpu; rw [h0_6]; rfl).trans ?_
  simp only [h7_9, h21_5, h16_5, h6_1]
  rfl

theorem Sys2Proof.Laws.RoundTrip.fabs (d : BitVec 5) (a : BitVec 5) (t : BitVec 1) : Statement (.fabs d a t) := by
  intro hwf
  refine control_back ?_
  obtain ⟨cw, hw⟩ : ∃ cw : Code, cw = 37#6 ++ d ++ a ++ 0#9 ++ t ++ 10#6 := ⟨_, rfl⟩
  rw [← hw]
  have h26_6 : fld cw 26 6 = 37#6 := hw ▸ hi (hi (hi (hi (hi rfl))))
  have h0_6 : fld cw 0 6 = 10#6 := hw ▸ lo rfl
  have h7_9 : fld cw 7 9 = 0#9 := hw ▸ hi (hi (lo rfl))
  have h21_5 : fld cw 21 5 = d := hw ▸ hi (hi (hi (hi (lo all_))))
  have h16_5 : fld cw 16 5 = a := hw ▸ hi (hi (hi (lo all_)))
  have h6_1 : fld cw 6 1 = t := hw ▸ hi (lo all_)
  clear hw
  refine (show decodeControl cw = Decode.fpu cw by unfold decodeControl; rw [h26_6]; rfl).trans ?_
  refine (show Decode.fpu cw = Decode.need (fld cw 7 9 == 0) .unusedField (.ok (.fabs (fld cw 21 5) (fld cw 16 5) (fld cw 6 1))) by unfold Decode.fpu; rw [h0_6]; rfl).trans ?_
  simp only [h7_9, h21_5, h16_5, h6_1]
  rfl

theorem Sys2Proof.Laws.RoundTrip.fcpys (d : BitVec 5) (a : BitVec 5) (b : BitVec 5) (t : BitVec 1) : Statement (.fcpys d a b t) := by
  intro hwf
  refine control_back ?_
  obtain ⟨cw, hw⟩ : ∃ cw : Code, cw = 37#6 ++ d ++ a ++ b ++ 0#4 ++ t ++ 11#6 := ⟨_, rfl⟩
  rw [← hw]
  have h26_6 : fld cw 26 6 = 37#6 := hw ▸ hi (hi (hi (hi (hi (hi rfl)))))
  have h0_6 : fld cw 0 6 = 11#6 := hw ▸ lo rfl
  have h7_4 : fld cw 7 4 = 0#4 := hw ▸ hi (hi (lo rfl))
  have h21_5 : fld cw 21 5 = d := hw ▸ hi (hi (hi (hi (hi (lo all_)))))
  have h16_5 : fld cw 16 5 = a := hw ▸ hi (hi (hi (hi (lo all_))))
  have h11_5 : fld cw 11 5 = b := hw ▸ hi (hi (hi (lo all_)))
  have h6_1 : fld cw 6 1 = t := hw ▸ hi (lo all_)
  clear hw
  refine (show decodeControl cw = Decode.fpu cw by unfold decodeControl; rw [h26_6]; rfl).trans ?_
  refine (show Decode.fpu cw = Decode.need (fld cw 7 4 == 0) .unusedField (.ok (.fcpys (fld cw 21 5) (fld cw 16 5) (fld cw 11 5) (fld cw 6 1))) by unfold Decode.fpu; rw [h0_6]; rfl).trans ?_
  simp only [h7_4, h21_5, h16_5, h11_5, h6_1]
  rfl

theorem Sys2Proof.Laws.RoundTrip.feq (d : BitVec 5) (a : BitVec 5) (b : BitVec 5) (t : BitVec 1) : Statement (.feq d a b t) := by
  intro hwf
  refine control_back ?_
  obtain ⟨cw, hw⟩ : ∃ cw : Code, cw = 37#6 ++ d ++ a ++ b ++ 0#4 ++ t ++ 12#6 := ⟨_, rfl⟩
  rw [← hw]
  have h26_6 : fld cw 26 6 = 37#6 := hw ▸ hi (hi (hi (hi (hi (hi rfl)))))
  have h0_6 : fld cw 0 6 = 12#6 := hw ▸ lo rfl
  have h7_4 : fld cw 7 4 = 0#4 := hw ▸ hi (hi (lo rfl))
  have h21_5 : fld cw 21 5 = d := hw ▸ hi (hi (hi (hi (hi (lo all_)))))
  have h16_5 : fld cw 16 5 = a := hw ▸ hi (hi (hi (hi (lo all_))))
  have h11_5 : fld cw 11 5 = b := hw ▸ hi (hi (hi (lo all_)))
  have h6_1 : fld cw 6 1 = t := hw ▸ hi (lo all_)
  clear hw
  refine (show decodeControl cw = Decode.fpu cw by unfold decodeControl; rw [h26_6]; rfl).trans ?_
  refine (show Decode.fpu cw = Decode.need (fld cw 7 4 == 0) .unusedField (.ok (.feq (fld cw 21 5) (fld cw 16 5) (fld cw 11 5) (fld cw 6 1))) by unfold Decode.fpu; rw [h0_6]; rfl).trans ?_
  simp only [h7_4, h21_5, h16_5, h11_5, h6_1]
  rfl

theorem Sys2Proof.Laws.RoundTrip.flt (d : BitVec 5) (a : BitVec 5) (b : BitVec 5) (t : BitVec 1) : Statement (.flt d a b t) := by
  intro hwf
  refine control_back ?_
  obtain ⟨cw, hw⟩ : ∃ cw : Code, cw = 37#6 ++ d ++ a ++ b ++ 0#4 ++ t ++ 13#6 := ⟨_, rfl⟩
  rw [← hw]
  have h26_6 : fld cw 26 6 = 37#6 := hw ▸ hi (hi (hi (hi (hi (hi rfl)))))
  have h0_6 : fld cw 0 6 = 13#6 := hw ▸ lo rfl
  have h7_4 : fld cw 7 4 = 0#4 := hw ▸ hi (hi (lo rfl))
  have h21_5 : fld cw 21 5 = d := hw ▸ hi (hi (hi (hi (hi (lo all_)))))
  have h16_5 : fld cw 16 5 = a := hw ▸ hi (hi (hi (hi (lo all_))))
  have h11_5 : fld cw 11 5 = b := hw ▸ hi (hi (hi (lo all_)))
  have h6_1 : fld cw 6 1 = t := hw ▸ hi (lo all_)
  clear hw
  refine (show decodeControl cw = Decode.fpu cw by unfold decodeControl; rw [h26_6]; rfl).trans ?_
  refine (show Decode.fpu cw = Decode.need (fld cw 7 4 == 0) .unusedField (.ok (.flt (fld cw 21 5) (fld cw 16 5) (fld cw 11 5) (fld cw 6 1))) by unfold Decode.fpu; rw [h0_6]; rfl).trans ?_
  simp only [h7_4, h21_5, h16_5, h11_5, h6_1]
  rfl

theorem Sys2Proof.Laws.RoundTrip.fle (d : BitVec 5) (a : BitVec 5) (b : BitVec 5) (t : BitVec 1) : Statement (.fle d a b t) := by
  intro hwf
  refine control_back ?_
  obtain ⟨cw, hw⟩ : ∃ cw : Code, cw = 37#6 ++ d ++ a ++ b ++ 0#4 ++ t ++ 14#6 := ⟨_, rfl⟩
  rw [← hw]
  have h26_6 : fld cw 26 6 = 37#6 := hw ▸ hi (hi (hi (hi (hi (hi rfl)))))
  have h0_6 : fld cw 0 6 = 14#6 := hw ▸ lo rfl
  have h7_4 : fld cw 7 4 = 0#4 := hw ▸ hi (hi (lo rfl))
  have h21_5 : fld cw 21 5 = d := hw ▸ hi (hi (hi (hi (hi (lo all_)))))
  have h16_5 : fld cw 16 5 = a := hw ▸ hi (hi (hi (hi (lo all_))))
  have h11_5 : fld cw 11 5 = b := hw ▸ hi (hi (hi (lo all_)))
  have h6_1 : fld cw 6 1 = t := hw ▸ hi (lo all_)
  clear hw
  refine (show decodeControl cw = Decode.fpu cw by unfold decodeControl; rw [h26_6]; rfl).trans ?_
  refine (show Decode.fpu cw = Decode.need (fld cw 7 4 == 0) .unusedField (.ok (.fle (fld cw 21 5) (fld cw 16 5) (fld cw 11 5) (fld cw 6 1))) by unfold Decode.fpu; rw [h0_6]; rfl).trans ?_
  simp only [h7_4, h21_5, h16_5, h11_5, h6_1]
  rfl

theorem Sys2Proof.Laws.RoundTrip.fcvt (d : BitVec 5) (a : BitVec 5) (m : BitVec 5) (x : BitVec 2) (y : BitVec 2) : Statement (.fcvt d a m x y) := by
  intro hwf
  refine control_back ?_
  obtain ⟨cw, hw⟩ : ∃ cw : Code, cw = 37#6 ++ d ++ a ++ m ++ x ++ y ++ 15#7 := ⟨_, rfl⟩
  rw [← hw]
  have h26_6 : fld cw 26 6 = 37#6 := hw ▸ hi (hi (hi (hi (hi (hi rfl)))))
  have h0_6 : fld cw 0 6 = 15#6 := hw ▸ lo rfl
  have h6_1 : fld cw 6 1 = 0#1 := hw ▸ lo rfl
  have h11_5 : fld cw 11 5 = m := hw ▸ hi (hi (hi (lo all_)))
  have h9_2 : fld cw 9 2 = x := hw ▸ hi (hi (lo all_))
  have h7_2 : fld cw 7 2 = y := hw ▸ hi (lo all_)
  have h21_5 : fld cw 21 5 = d := hw ▸ hi (hi (hi (hi (hi (lo all_)))))
  have h16_5 : fld cw 16 5 = a := hw ▸ hi (hi (hi (hi (lo all_))))
  clear hw
  refine (show decodeControl cw = Decode.fpu cw by unfold decodeControl; rw [h26_6]; rfl).trans ?_
  refine (show Decode.fpu cw = Decode.need (fld cw 6 1 == 0) .unusedField (Decode.need (Form.modeOk (fld cw 11 5)) .badMode (Decode.need ((fld cw 9 2) != 3 && (fld cw 7 2) != 3 && (fld cw 9 2) != (fld cw 7 2)) .badFormat (.ok (.fcvt (fld cw 21 5) (fld cw 16 5) (fld cw 11 5) (fld cw 9 2) (fld cw 7 2))))) by unfold Decode.fpu; rw [h0_6]; rfl).trans ?_
  simp only [h6_1, h11_5, h9_2, h7_2, h21_5, h16_5]
  simp only [Instr.wf] at hwf
  simp_all [Decode.need]

theorem Sys2Proof.Laws.RoundTrip.fcvti (d : BitVec 5) (a : BitVec 5) (m : BitVec 5) (x : BitVec 1) (y : BitVec 2) : Statement (.fcvti d a m x y) := by
  intro hwf
  refine control_back ?_
  obtain ⟨cw, hw⟩ : ∃ cw : Code, cw = 37#6 ++ d ++ a ++ m ++ 0#1 ++ x ++ y ++ 16#7 := ⟨_, rfl⟩
  rw [← hw]
  have h26_6 : fld cw 26 6 = 37#6 := hw ▸ hi (hi (hi (hi (hi (hi (hi rfl))))))
  have h0_6 : fld cw 0 6 = 16#6 := hw ▸ lo rfl
  have h6_1 : fld cw 6 1 = 0#1 := hw ▸ lo rfl
  have h10_1 : fld cw 10 1 = 0#1 := hw ▸ hi (hi (hi (lo rfl)))
  have h11_5 : fld cw 11 5 = m := hw ▸ hi (hi (hi (hi (lo all_))))
  have h7_2 : fld cw 7 2 = y := hw ▸ hi (lo all_)
  have h21_5 : fld cw 21 5 = d := hw ▸ hi (hi (hi (hi (hi (hi (lo all_))))))
  have h16_5 : fld cw 16 5 = a := hw ▸ hi (hi (hi (hi (hi (lo all_)))))
  have h9_1 : fld cw 9 1 = x := hw ▸ hi (hi (lo all_))
  clear hw
  refine (show decodeControl cw = Decode.fpu cw by unfold decodeControl; rw [h26_6]; rfl).trans ?_
  refine (show Decode.fpu cw = Decode.need (fld cw 6 1 == 0 && fld cw 10 1 == 0) .unusedField (Decode.need (Form.modeOk (fld cw 11 5)) .badMode (Decode.need ((fld cw 7 2) != 3) .badFormat (.ok (.fcvti (fld cw 21 5) (fld cw 16 5) (fld cw 11 5) (fld cw 9 1) (fld cw 7 2))))) by unfold Decode.fpu; rw [h0_6]; rfl).trans ?_
  simp only [h6_1, h10_1, h11_5, h7_2, h21_5, h16_5, h9_1]
  simp only [Instr.wf] at hwf
  simp_all [Decode.need]

theorem Sys2Proof.Laws.RoundTrip.icvtf (d : BitVec 5) (a : BitVec 5) (m : BitVec 5) (x : BitVec 2) (y : BitVec 1) : Statement (.icvtf d a m x y) := by
  intro hwf
  refine control_back ?_
  obtain ⟨cw, hw⟩ : ∃ cw : Code, cw = 37#6 ++ d ++ a ++ m ++ x ++ 0#1 ++ y ++ 17#7 := ⟨_, rfl⟩
  rw [← hw]
  have h26_6 : fld cw 26 6 = 37#6 := hw ▸ hi (hi (hi (hi (hi (hi (hi rfl))))))
  have h0_6 : fld cw 0 6 = 17#6 := hw ▸ lo rfl
  have h6_1 : fld cw 6 1 = 0#1 := hw ▸ lo rfl
  have h8_1 : fld cw 8 1 = 0#1 := hw ▸ hi (hi (lo rfl))
  have h11_5 : fld cw 11 5 = m := hw ▸ hi (hi (hi (hi (lo all_))))
  have h9_2 : fld cw 9 2 = x := hw ▸ hi (hi (hi (lo all_)))
  have h21_5 : fld cw 21 5 = d := hw ▸ hi (hi (hi (hi (hi (hi (lo all_))))))
  have h16_5 : fld cw 16 5 = a := hw ▸ hi (hi (hi (hi (hi (lo all_)))))
  have h7_1 : fld cw 7 1 = y := hw ▸ hi (lo all_)
  clear hw
  refine (show decodeControl cw = Decode.fpu cw by unfold decodeControl; rw [h26_6]; rfl).trans ?_
  refine (show Decode.fpu cw = Decode.need (fld cw 6 1 == 0 && fld cw 8 1 == 0) .unusedField (Decode.need (Form.modeOk (fld cw 11 5)) .badMode (Decode.need ((fld cw 9 2) != 3) .badFormat (.ok (.icvtf (fld cw 21 5) (fld cw 16 5) (fld cw 11 5) (fld cw 9 2) (fld cw 7 1))))) by unfold Decode.fpu; rw [h0_6]; rfl).trans ?_
  simp only [h6_1, h8_1, h11_5, h9_2, h21_5, h16_5, h7_1]
  simp only [Instr.wf] at hwf
  simp_all [Decode.need]

theorem Sys2Proof.Laws.RoundTrip.fmvg (d : BitVec 5) (a : BitVec 5) : Statement (.fmvg d a) := by
  intro hwf
  refine control_back ?_
  obtain ⟨cw, hw⟩ : ∃ cw : Code, cw = 37#6 ++ d ++ a ++ 18#16 := ⟨_, rfl⟩
  rw [← hw]
  have h26_6 : fld cw 26 6 = 37#6 := hw ▸ hi (hi (hi rfl))
  have h0_6 : fld cw 0 6 = 18#6 := hw ▸ lo rfl
  have h6_10 : fld cw 6 10 = 0#10 := hw ▸ lo rfl
  have h21_5 : fld cw 21 5 = d := hw ▸ hi (hi (lo all_))
  have h16_5 : fld cw 16 5 = a := hw ▸ hi (lo all_)
  clear hw
  refine (show decodeControl cw = Decode.fpu cw by unfold decodeControl; rw [h26_6]; rfl).trans ?_
  refine (show Decode.fpu cw = Decode.need (fld cw 6 10 == 0) .unusedField (.ok (.fmvg (fld cw 21 5) (fld cw 16 5))) by unfold Decode.fpu; rw [h0_6]; rfl).trans ?_
  simp only [h6_10, h21_5, h16_5]
  rfl

theorem Sys2Proof.Laws.RoundTrip.gmvf (d : BitVec 5) (a : BitVec 5) : Statement (.gmvf d a) := by
  intro hwf
  refine control_back ?_
  obtain ⟨cw, hw⟩ : ∃ cw : Code, cw = 37#6 ++ d ++ a ++ 19#16 := ⟨_, rfl⟩
  rw [← hw]
  have h26_6 : fld cw 26 6 = 37#6 := hw ▸ hi (hi (hi rfl))
  have h0_6 : fld cw 0 6 = 19#6 := hw ▸ lo rfl
  have h6_10 : fld cw 6 10 = 0#10 := hw ▸ lo rfl
  have h21_5 : fld cw 21 5 = d := hw ▸ hi (hi (lo all_))
  have h16_5 : fld cw 16 5 = a := hw ▸ hi (lo all_)
  clear hw
  refine (show decodeControl cw = Decode.fpu cw by unfold decodeControl; rw [h26_6]; rfl).trans ?_
  refine (show Decode.fpu cw = Decode.need (fld cw 6 10 == 0) .unusedField (.ok (.gmvf (fld cw 21 5) (fld cw 16 5))) by unfold Decode.fpu; rw [h0_6]; rfl).trans ?_
  simp only [h6_10, h21_5, h16_5]
  rfl

theorem Sys2Proof.Laws.RoundTrip.trap (n : BitVec 10) : Statement (.trap n) := by
  intro hwf
  refine control_back ?_
  obtain ⟨cw, hw⟩ : ∃ cw : Code, cw = 38#6 ++ 0#10 ++ n ++ 0#6 := ⟨_, rfl⟩
  rw [← hw]
  have h26_6 : fld cw 26 6 = 38#6 := hw ▸ hi (hi (hi rfl))
  have h0_6 : fld cw 0 6 = 0#6 := hw ▸ lo rfl
  have h16_10 : fld cw 16 10 = 0#10 := hw ▸ hi (hi (lo rfl))
  have h6_10 : fld cw 6 10 = n := hw ▸ hi (lo all_)
  clear hw
  refine (show decodeControl cw = Decode.sys cw by unfold decodeControl; rw [h26_6]; rfl).trans ?_
  refine (show Decode.sys cw = Decode.need (fld cw 16 10 == 0) .unusedField (.ok (.trap (fld cw 6 10))) by unfold Decode.sys; rw [h0_6]; rfl).trans ?_
  simp only [h16_10, h6_10]
  rfl

theorem Sys2Proof.Laws.RoundTrip.csrr (d : BitVec 5) (c : BitVec 12) : Statement (.csrr d c) := by
  intro hwf
  refine control_back ?_
  obtain ⟨cw, hw⟩ : ∃ cw : Code, cw = 38#6 ++ d ++ 0#3 ++ c ++ 2#6 := ⟨_, rfl⟩
  rw [← hw]
  have h26_6 : fld cw 26 6 = 38#6 := hw ▸ hi (hi (hi (hi rfl)))
  have h0_6 : fld cw 0 6 = 2#6 := hw ▸ lo rfl
  have h18_3 : fld cw 18 3 = 0#3 := hw ▸ hi (hi (lo rfl))
  have h21_5 : fld cw 21 5 = d := hw ▸ hi (hi (hi (lo all_)))
  have h6_12 : fld cw 6 12 = c := hw ▸ hi (lo all_)
  clear hw
  refine (show decodeControl cw = Decode.sys cw by unfold decodeControl; rw [h26_6]; rfl).trans ?_
  refine (show Decode.sys cw = Decode.need (fld cw 18 3 == 0) .unusedField (.ok (.csrr (fld cw 21 5) (fld cw 6 12))) by unfold Decode.sys; rw [h0_6]; rfl).trans ?_
  simp only [h18_3, h21_5, h6_12]
  rfl

theorem Sys2Proof.Laws.RoundTrip.csrw (s : BitVec 5) (c : BitVec 12) : Statement (.csrw s c) := by
  intro hwf
  refine control_back ?_
  obtain ⟨cw, hw⟩ : ∃ cw : Code, cw = 38#6 ++ s ++ 0#3 ++ c ++ 3#6 := ⟨_, rfl⟩
  rw [← hw]
  have h26_6 : fld cw 26 6 = 38#6 := hw ▸ hi (hi (hi (hi rfl)))
  have h0_6 : fld cw 0 6 = 3#6 := hw ▸ lo rfl
  have h18_3 : fld cw 18 3 = 0#3 := hw ▸ hi (hi (lo rfl))
  have h21_5 : fld cw 21 5 = s := hw ▸ hi (hi (hi (lo all_)))
  have h6_12 : fld cw 6 12 = c := hw ▸ hi (lo all_)
  clear hw
  refine (show decodeControl cw = Decode.sys cw by unfold decodeControl; rw [h26_6]; rfl).trans ?_
  refine (show Decode.sys cw = Decode.need (fld cw 18 3 == 0) .unusedField (.ok (.csrw (fld cw 21 5) (fld cw 6 12))) by unfold Decode.sys; rw [h0_6]; rfl).trans ?_
  simp only [h18_3, h21_5, h6_12]
  rfl

theorem Sys2Proof.Laws.RoundTrip.csrs (s : BitVec 5) (c : BitVec 12) : Statement (.csrs s c) := by
  intro hwf
  refine control_back ?_
  obtain ⟨cw, hw⟩ : ∃ cw : Code, cw = 38#6 ++ s ++ 0#3 ++ c ++ 4#6 := ⟨_, rfl⟩
  rw [← hw]
  have h26_6 : fld cw 26 6 = 38#6 := hw ▸ hi (hi (hi (hi rfl)))
  have h0_6 : fld cw 0 6 = 4#6 := hw ▸ lo rfl
  have h18_3 : fld cw 18 3 = 0#3 := hw ▸ hi (hi (lo rfl))
  have h21_5 : fld cw 21 5 = s := hw ▸ hi (hi (hi (lo all_)))
  have h6_12 : fld cw 6 12 = c := hw ▸ hi (lo all_)
  clear hw
  refine (show decodeControl cw = Decode.sys cw by unfold decodeControl; rw [h26_6]; rfl).trans ?_
  refine (show Decode.sys cw = Decode.need (fld cw 18 3 == 0) .unusedField (.ok (.csrs (fld cw 21 5) (fld cw 6 12))) by unfold Decode.sys; rw [h0_6]; rfl).trans ?_
  simp only [h18_3, h21_5, h6_12]
  rfl

theorem Sys2Proof.Laws.RoundTrip.csrc (s : BitVec 5) (c : BitVec 12) : Statement (.csrc s c) := by
  intro hwf
  refine control_back ?_
  obtain ⟨cw, hw⟩ : ∃ cw : Code, cw = 38#6 ++ s ++ 0#3 ++ c ++ 5#6 := ⟨_, rfl⟩
  rw [← hw]
  have h26_6 : fld cw 26 6 = 38#6 := hw ▸ hi (hi (hi (hi rfl)))
  have h0_6 : fld cw 0 6 = 5#6 := hw ▸ lo rfl
  have h18_3 : fld cw 18 3 = 0#3 := hw ▸ hi (hi (lo rfl))
  have h21_5 : fld cw 21 5 = s := hw ▸ hi (hi (hi (lo all_)))
  have h6_12 : fld cw 6 12 = c := hw ▸ hi (lo all_)
  clear hw
  refine (show decodeControl cw = Decode.sys cw by unfold decodeControl; rw [h26_6]; rfl).trans ?_
  refine (show Decode.sys cw = Decode.need (fld cw 18 3 == 0) .unusedField (.ok (.csrc (fld cw 21 5) (fld cw 6 12))) by unfold Decode.sys; rw [h0_6]; rfl).trans ?_
  simp only [h18_3, h21_5, h6_12]
  rfl

theorem Sys2Proof.Laws.RoundTrip.cfgLoad (d : BitVec 5) (a : BitVec 3) (b : BitVec 5) : Statement (.cfgLoad d a b) := by
  intro hwf
  refine control_back ?_
  obtain ⟨cw, hw⟩ : ∃ cw : Code, cw = 39#6 ++ d ++ 0#2 ++ a ++ b ++ 0#11 := ⟨_, rfl⟩
  rw [← hw]
  have h26_6 : fld cw 26 6 = 39#6 := hw ▸ hi (hi (hi (hi (hi rfl))))
  have h0_6 : fld cw 0 6 = 0#6 := hw ▸ lo rfl
  have h6_5 : fld cw 6 5 = 0#5 := hw ▸ lo rfl
  have h19_2 : fld cw 19 2 = 0#2 := hw ▸ hi (hi (hi (lo rfl)))
  have h21_5 : fld cw 21 5 = d := hw ▸ hi (hi (hi (hi (lo all_))))
  have h16_3 : fld cw 16 3 = a := hw ▸ hi (hi (lo all_))
  have h11_5 : fld cw 11 5 = b := hw ▸ hi (lo all_)
  clear hw
  refine (show decodeControl cw = Decode.fab cw by unfold decodeControl; rw [h26_6]; rfl).trans ?_
  refine (show Decode.fab cw = Decode.need (fld cw 6 5 == 0 && fld cw 19 2 == 0) .unusedField (.ok (.cfgLoad (fld cw 21 5) (fld cw 16 3) (fld cw 11 5))) by unfold Decode.fab; rw [h0_6]; rfl).trans ?_
  simp only [h6_5, h19_2, h21_5, h16_3, h11_5]
  rfl

theorem Sys2Proof.Laws.RoundTrip.cfgWait (d : BitVec 5) (a : BitVec 5) : Statement (.cfgWait d a) := by
  intro hwf
  refine control_back ?_
  obtain ⟨cw, hw⟩ : ∃ cw : Code, cw = 39#6 ++ d ++ a ++ 1#16 := ⟨_, rfl⟩
  rw [← hw]
  have h26_6 : fld cw 26 6 = 39#6 := hw ▸ hi (hi (hi rfl))
  have h0_6 : fld cw 0 6 = 1#6 := hw ▸ lo rfl
  have h6_10 : fld cw 6 10 = 0#10 := hw ▸ lo rfl
  have h21_5 : fld cw 21 5 = d := hw ▸ hi (hi (lo all_))
  have h16_5 : fld cw 16 5 = a := hw ▸ hi (lo all_)
  clear hw
  refine (show decodeControl cw = Decode.fab cw by unfold decodeControl; rw [h26_6]; rfl).trans ?_
  refine (show Decode.fab cw = Decode.need (fld cw 6 10 == 0) .unusedField (.ok (.cfgWait (fld cw 21 5) (fld cw 16 5))) by unfold Decode.fab; rw [h0_6]; rfl).trans ?_
  simp only [h6_10, h21_5, h16_5]
  rfl

theorem Sys2Proof.Laws.RoundTrip.opw (a : BitVec 5) (b : BitVec 5) : Statement (.opw a b) := by
  intro hwf
  refine control_back ?_
  obtain ⟨cw, hw⟩ : ∃ cw : Code, cw = 39#6 ++ 0#5 ++ a ++ b ++ 2#11 := ⟨_, rfl⟩
  rw [← hw]
  have h26_6 : fld cw 26 6 = 39#6 := hw ▸ hi (hi (hi (hi rfl)))
  have h0_6 : fld cw 0 6 = 2#6 := hw ▸ lo rfl
  have h6_5 : fld cw 6 5 = 0#5 := hw ▸ lo rfl
  have h21_5 : fld cw 21 5 = 0#5 := hw ▸ hi (hi (hi (lo rfl)))
  have h16_5 : fld cw 16 5 = a := hw ▸ hi (hi (lo all_))
  have h11_5 : fld cw 11 5 = b := hw ▸ hi (lo all_)
  clear hw
  refine (show decodeControl cw = Decode.fab cw by unfold decodeControl; rw [h26_6]; rfl).trans ?_
  refine (show Decode.fab cw = Decode.need (fld cw 6 5 == 0 && fld cw 21 5 == 0) .unusedField (.ok (.opw (fld cw 16 5) (fld cw 11 5))) by unfold Decode.fab; rw [h0_6]; rfl).trans ?_
  simp only [h6_5, h21_5, h16_5, h11_5]
  rfl

theorem Sys2Proof.Laws.RoundTrip.sww (a : BitVec 5) (b : BitVec 5) : Statement (.sww a b) := by
  intro hwf
  refine control_back ?_
  obtain ⟨cw, hw⟩ : ∃ cw : Code, cw = 39#6 ++ 0#5 ++ a ++ b ++ 3#11 := ⟨_, rfl⟩
  rw [← hw]
  have h26_6 : fld cw 26 6 = 39#6 := hw ▸ hi (hi (hi (hi rfl)))
  have h0_6 : fld cw 0 6 = 3#6 := hw ▸ lo rfl
  have h6_5 : fld cw 6 5 = 0#5 := hw ▸ lo rfl
  have h21_5 : fld cw 21 5 = 0#5 := hw ▸ hi (hi (hi (lo rfl)))
  have h16_5 : fld cw 16 5 = a := hw ▸ hi (hi (lo all_))
  have h11_5 : fld cw 11 5 = b := hw ▸ hi (lo all_)
  clear hw
  refine (show decodeControl cw = Decode.fab cw by unfold decodeControl; rw [h26_6]; rfl).trans ?_
  refine (show Decode.fab cw = Decode.need (fld cw 6 5 == 0 && fld cw 21 5 == 0) .unusedField (.ok (.sww (fld cw 16 5) (fld cw 11 5))) by unfold Decode.fab; rw [h0_6]; rfl).trans ?_
  simp only [h6_5, h21_5, h16_5, h11_5]
  rfl

theorem Sys2Proof.Laws.RoundTrip.portBind (d : BitVec 5) (a : BitVec 3) (b : BitVec 5) : Statement (.portBind d a b) := by
  intro hwf
  refine control_back ?_
  obtain ⟨cw, hw⟩ : ∃ cw : Code, cw = 39#6 ++ d ++ 0#2 ++ a ++ b ++ 4#11 := ⟨_, rfl⟩
  rw [← hw]
  have h26_6 : fld cw 26 6 = 39#6 := hw ▸ hi (hi (hi (hi (hi rfl))))
  have h0_6 : fld cw 0 6 = 4#6 := hw ▸ lo rfl
  have h6_5 : fld cw 6 5 = 0#5 := hw ▸ lo rfl
  have h19_2 : fld cw 19 2 = 0#2 := hw ▸ hi (hi (hi (lo rfl)))
  have h21_5 : fld cw 21 5 = d := hw ▸ hi (hi (hi (hi (lo all_))))
  have h16_3 : fld cw 16 3 = a := hw ▸ hi (hi (lo all_))
  have h11_5 : fld cw 11 5 = b := hw ▸ hi (lo all_)
  clear hw
  refine (show decodeControl cw = Decode.fab cw by unfold decodeControl; rw [h26_6]; rfl).trans ?_
  refine (show Decode.fab cw = Decode.need (fld cw 6 5 == 0 && fld cw 19 2 == 0) .unusedField (.ok (.portBind (fld cw 21 5) (fld cw 16 3) (fld cw 11 5))) by unfold Decode.fab; rw [h0_6]; rfl).trans ?_
  simp only [h6_5, h19_2, h21_5, h16_3, h11_5]
  rfl

theorem Sys2Proof.Laws.RoundTrip.portUnbind (d : BitVec 5) (a : BitVec 5) : Statement (.portUnbind d a) := by
  intro hwf
  refine control_back ?_
  obtain ⟨cw, hw⟩ : ∃ cw : Code, cw = 39#6 ++ d ++ a ++ 5#16 := ⟨_, rfl⟩
  rw [← hw]
  have h26_6 : fld cw 26 6 = 39#6 := hw ▸ hi (hi (hi rfl))
  have h0_6 : fld cw 0 6 = 5#6 := hw ▸ lo rfl
  have h6_10 : fld cw 6 10 = 0#10 := hw ▸ lo rfl
  have h21_5 : fld cw 21 5 = d := hw ▸ hi (hi (lo all_))
  have h16_5 : fld cw 16 5 = a := hw ▸ hi (lo all_)
  clear hw
  refine (show decodeControl cw = Decode.fab cw by unfold decodeControl; rw [h26_6]; rfl).trans ?_
  refine (show Decode.fab cw = Decode.need (fld cw 6 10 == 0) .unusedField (.ok (.portUnbind (fld cw 21 5) (fld cw 16 5))) by unfold Decode.fab; rw [h0_6]; rfl).trans ?_
  simp only [h6_10, h21_5, h16_5]
  rfl

theorem Sys2Proof.Laws.RoundTrip.inj (d : BitVec 5) (a : BitVec 5) (b : BitVec 5) : Statement (.inj d a b) := by
  intro hwf
  refine control_back ?_
  obtain ⟨cw, hw⟩ : ∃ cw : Code, cw = 39#6 ++ d ++ a ++ b ++ 6#11 := ⟨_, rfl⟩
  rw [← hw]
  have h26_6 : fld cw 26 6 = 39#6 := hw ▸ hi (hi (hi (hi rfl)))
  have h0_6 : fld cw 0 6 = 6#6 := hw ▸ lo rfl
  have h6_5 : fld cw 6 5 = 0#5 := hw ▸ lo rfl
  have h21_5 : fld cw 21 5 = d := hw ▸ hi (hi (hi (lo all_)))
  have h16_5 : fld cw 16 5 = a := hw ▸ hi (hi (lo all_))
  have h11_5 : fld cw 11 5 = b := hw ▸ hi (lo all_)
  clear hw
  refine (show decodeControl cw = Decode.fab cw by unfold decodeControl; rw [h26_6]; rfl).trans ?_
  refine (show Decode.fab cw = Decode.need (fld cw 6 5 == 0) .unusedField (.ok (.inj (fld cw 21 5) (fld cw 16 5) (fld cw 11 5))) by unfold Decode.fab; rw [h0_6]; rfl).trans ?_
  simp only [h6_5, h21_5, h16_5, h11_5]
  rfl

theorem Sys2Proof.Laws.RoundTrip.ext (d : BitVec 5) (a : BitVec 5) : Statement (.ext d a) := by
  intro hwf
  refine control_back ?_
  obtain ⟨cw, hw⟩ : ∃ cw : Code, cw = 39#6 ++ d ++ a ++ 7#16 := ⟨_, rfl⟩
  rw [← hw]
  have h26_6 : fld cw 26 6 = 39#6 := hw ▸ hi (hi (hi rfl))
  have h0_6 : fld cw 0 6 = 7#6 := hw ▸ lo rfl
  have h6_10 : fld cw 6 10 = 0#10 := hw ▸ lo rfl
  have h21_5 : fld cw 21 5 = d := hw ▸ hi (hi (lo all_))
  have h16_5 : fld cw 16 5 = a := hw ▸ hi (lo all_)
  clear hw
  refine (show decodeControl cw = Decode.fab cw by unfold decodeControl; rw [h26_6]; rfl).trans ?_
  refine (show Decode.fab cw = Decode.need (fld cw 6 10 == 0) .unusedField (.ok (.ext (fld cw 21 5) (fld cw 16 5))) by unfold Decode.fab; rw [h0_6]; rfl).trans ?_
  simp only [h6_10, h21_5, h16_5]
  rfl

theorem Sys2Proof.Laws.RoundTrip.leaseDrain (d : BitVec 5) (a : BitVec 5) : Statement (.leaseDrain d a) := by
  intro hwf
  refine control_back ?_
  obtain ⟨cw, hw⟩ : ∃ cw : Code, cw = 39#6 ++ d ++ a ++ 8#16 := ⟨_, rfl⟩
  rw [← hw]
  have h26_6 : fld cw 26 6 = 39#6 := hw ▸ hi (hi (hi rfl))
  have h0_6 : fld cw 0 6 = 8#6 := hw ▸ lo rfl
  have h6_10 : fld cw 6 10 = 0#10 := hw ▸ lo rfl
  have h21_5 : fld cw 21 5 = d := hw ▸ hi (hi (lo all_))
  have h16_5 : fld cw 16 5 = a := hw ▸ hi (lo all_)
  clear hw
  refine (show decodeControl cw = Decode.fab cw by unfold decodeControl; rw [h26_6]; rfl).trans ?_
  refine (show Decode.fab cw = Decode.need (fld cw 6 10 == 0) .unusedField (.ok (.leaseDrain (fld cw 21 5) (fld cw 16 5))) by unfold Decode.fab; rw [h0_6]; rfl).trans ?_
  simp only [h6_10, h21_5, h16_5]
  rfl

theorem Sys2Proof.Laws.RoundTrip.leaseFreeze (d : BitVec 5) (a : BitVec 5) : Statement (.leaseFreeze d a) := by
  intro hwf
  refine control_back ?_
  obtain ⟨cw, hw⟩ : ∃ cw : Code, cw = 39#6 ++ d ++ a ++ 9#16 := ⟨_, rfl⟩
  rw [← hw]
  have h26_6 : fld cw 26 6 = 39#6 := hw ▸ hi (hi (hi rfl))
  have h0_6 : fld cw 0 6 = 9#6 := hw ▸ lo rfl
  have h6_10 : fld cw 6 10 = 0#10 := hw ▸ lo rfl
  have h21_5 : fld cw 21 5 = d := hw ▸ hi (hi (lo all_))
  have h16_5 : fld cw 16 5 = a := hw ▸ hi (lo all_)
  clear hw
  refine (show decodeControl cw = Decode.fab cw by unfold decodeControl; rw [h26_6]; rfl).trans ?_
  refine (show Decode.fab cw = Decode.need (fld cw 6 10 == 0) .unusedField (.ok (.leaseFreeze (fld cw 21 5) (fld cw 16 5))) by unfold Decode.fab; rw [h0_6]; rfl).trans ?_
  simp only [h6_10, h21_5, h16_5]
  rfl

theorem Sys2Proof.Laws.RoundTrip.leaseResume (d : BitVec 5) (a : BitVec 5) (b : BitVec 5) : Statement (.leaseResume d a b) := by
  intro hwf
  refine control_back ?_
  obtain ⟨cw, hw⟩ : ∃ cw : Code, cw = 39#6 ++ d ++ a ++ b ++ 10#11 := ⟨_, rfl⟩
  rw [← hw]
  have h26_6 : fld cw 26 6 = 39#6 := hw ▸ hi (hi (hi (hi rfl)))
  have h0_6 : fld cw 0 6 = 10#6 := hw ▸ lo rfl
  have h6_5 : fld cw 6 5 = 0#5 := hw ▸ lo rfl
  have h21_5 : fld cw 21 5 = d := hw ▸ hi (hi (hi (lo all_)))
  have h16_5 : fld cw 16 5 = a := hw ▸ hi (hi (lo all_))
  have h11_5 : fld cw 11 5 = b := hw ▸ hi (lo all_)
  clear hw
  refine (show decodeControl cw = Decode.fab cw by unfold decodeControl; rw [h26_6]; rfl).trans ?_
  refine (show Decode.fab cw = Decode.need (fld cw 6 5 == 0) .unusedField (.ok (.leaseResume (fld cw 21 5) (fld cw 16 5) (fld cw 11 5))) by unfold Decode.fab; rw [h0_6]; rfl).trans ?_
  simp only [h6_5, h21_5, h16_5, h11_5]
  rfl

theorem Sys2Proof.Laws.RoundTrip.leaseMove (d : BitVec 5) (a : BitVec 5) (b : BitVec 5) : Statement (.leaseMove d a b) := by
  intro hwf
  refine control_back ?_
  obtain ⟨cw, hw⟩ : ∃ cw : Code, cw = 39#6 ++ d ++ a ++ b ++ 11#11 := ⟨_, rfl⟩
  rw [← hw]
  have h26_6 : fld cw 26 6 = 39#6 := hw ▸ hi (hi (hi (hi rfl)))
  have h0_6 : fld cw 0 6 = 11#6 := hw ▸ lo rfl
  have h6_5 : fld cw 6 5 = 0#5 := hw ▸ lo rfl
  have h21_5 : fld cw 21 5 = d := hw ▸ hi (hi (hi (lo all_)))
  have h16_5 : fld cw 16 5 = a := hw ▸ hi (hi (lo all_))
  have h11_5 : fld cw 11 5 = b := hw ▸ hi (lo all_)
  clear hw
  refine (show decodeControl cw = Decode.fab cw by unfold decodeControl; rw [h26_6]; rfl).trans ?_
  refine (show Decode.fab cw = Decode.need (fld cw 6 5 == 0) .unusedField (.ok (.leaseMove (fld cw 21 5) (fld cw 16 5) (fld cw 11 5))) by unfold Decode.fab; rw [h0_6]; rfl).trans ?_
  simp only [h6_5, h21_5, h16_5, h11_5]
  rfl

theorem Sys2Proof.Laws.RoundTrip.sweep (d : BitVec 5) (a : BitVec 3) (b : BitVec 5) : Statement (.sweep d a b) := by
  intro hwf
  refine control_back ?_
  obtain ⟨cw, hw⟩ : ∃ cw : Code, cw = 39#6 ++ d ++ 0#2 ++ a ++ b ++ 12#11 := ⟨_, rfl⟩
  rw [← hw]
  have h26_6 : fld cw 26 6 = 39#6 := hw ▸ hi (hi (hi (hi (hi rfl))))
  have h0_6 : fld cw 0 6 = 12#6 := hw ▸ lo rfl
  have h6_5 : fld cw 6 5 = 0#5 := hw ▸ lo rfl
  have h19_2 : fld cw 19 2 = 0#2 := hw ▸ hi (hi (hi (lo rfl)))
  have h21_5 : fld cw 21 5 = d := hw ▸ hi (hi (hi (hi (lo all_))))
  have h16_3 : fld cw 16 3 = a := hw ▸ hi (hi (lo all_))
  have h11_5 : fld cw 11 5 = b := hw ▸ hi (lo all_)
  clear hw
  refine (show decodeControl cw = Decode.fab cw by unfold decodeControl; rw [h26_6]; rfl).trans ?_
  refine (show Decode.fab cw = Decode.need (fld cw 6 5 == 0 && fld cw 19 2 == 0) .unusedField (.ok (.sweep (fld cw 21 5) (fld cw 16 3) (fld cw 11 5))) by unfold Decode.fab; rw [h0_6]; rfl).trans ?_
  simp only [h6_5, h19_2, h21_5, h16_3, h11_5]
  rfl

theorem Sys2Proof.Laws.RoundTrip.ringDef (d : BitVec 5) (a : BitVec 3) (b : BitVec 5) : Statement (.ringDef d a b) := by
  intro hwf
  refine control_back ?_
  obtain ⟨cw, hw⟩ : ∃ cw : Code, cw = 40#6 ++ d ++ 0#2 ++ a ++ b ++ 0#11 := ⟨_, rfl⟩
  rw [← hw]
  have h26_6 : fld cw 26 6 = 40#6 := hw ▸ hi (hi (hi (hi (hi rfl))))
  have h0_6 : fld cw 0 6 = 0#6 := hw ▸ lo rfl
  have h6_5 : fld cw 6 5 = 0#5 := hw ▸ lo rfl
  have h19_2 : fld cw 19 2 = 0#2 := hw ▸ hi (hi (hi (lo rfl)))
  have h21_5 : fld cw 21 5 = d := hw ▸ hi (hi (hi (hi (lo all_))))
  have h16_3 : fld cw 16 3 = a := hw ▸ hi (hi (lo all_))
  have h11_5 : fld cw 11 5 = b := hw ▸ hi (lo all_)
  clear hw
  refine (show decodeControl cw = Decode.ring cw by unfold decodeControl; rw [h26_6]; rfl).trans ?_
  refine (show Decode.ring cw = Decode.need (fld cw 6 5 == 0 && fld cw 19 2 == 0) .unusedField (.ok (.ringDef (fld cw 21 5) (fld cw 16 3) (fld cw 11 5))) by unfold Decode.ring; rw [h0_6]; rfl).trans ?_
  simp only [h6_5, h19_2, h21_5, h16_3, h11_5]
  rfl

theorem Sys2Proof.Laws.RoundTrip.ringInj (d : BitVec 5) (a : BitVec 3) (b : BitVec 5) : Statement (.ringInj d a b) := by
  intro hwf
  refine control_back ?_
  obtain ⟨cw, hw⟩ : ∃ cw : Code, cw = 40#6 ++ d ++ 0#2 ++ a ++ b ++ 1#11 := ⟨_, rfl⟩
  rw [← hw]
  have h26_6 : fld cw 26 6 = 40#6 := hw ▸ hi (hi (hi (hi (hi rfl))))
  have h0_6 : fld cw 0 6 = 1#6 := hw ▸ lo rfl
  have h6_5 : fld cw 6 5 = 0#5 := hw ▸ lo rfl
  have h19_2 : fld cw 19 2 = 0#2 := hw ▸ hi (hi (hi (lo rfl)))
  have h21_5 : fld cw 21 5 = d := hw ▸ hi (hi (hi (hi (lo all_))))
  have h16_3 : fld cw 16 3 = a := hw ▸ hi (hi (lo all_))
  have h11_5 : fld cw 11 5 = b := hw ▸ hi (lo all_)
  clear hw
  refine (show decodeControl cw = Decode.ring cw by unfold decodeControl; rw [h26_6]; rfl).trans ?_
  refine (show Decode.ring cw = Decode.need (fld cw 6 5 == 0 && fld cw 19 2 == 0) .unusedField (.ok (.ringInj (fld cw 21 5) (fld cw 16 3) (fld cw 11 5))) by unfold Decode.ring; rw [h0_6]; rfl).trans ?_
  simp only [h6_5, h19_2, h21_5, h16_3, h11_5]
  rfl

theorem Sys2Proof.Laws.RoundTrip.mtWrite (d : BitVec 5) (a : BitVec 5) (b : BitVec 5) : Statement (.mtWrite d a b) := by
  intro hwf
  refine control_back ?_
  obtain ⟨cw, hw⟩ : ∃ cw : Code, cw = 40#6 ++ d ++ a ++ b ++ 2#11 := ⟨_, rfl⟩
  rw [← hw]
  have h26_6 : fld cw 26 6 = 40#6 := hw ▸ hi (hi (hi (hi rfl)))
  have h0_6 : fld cw 0 6 = 2#6 := hw ▸ lo rfl
  have h6_5 : fld cw 6 5 = 0#5 := hw ▸ lo rfl
  have h21_5 : fld cw 21 5 = d := hw ▸ hi (hi (hi (lo all_)))
  have h16_5 : fld cw 16 5 = a := hw ▸ hi (hi (lo all_))
  have h11_5 : fld cw 11 5 = b := hw ▸ hi (lo all_)
  clear hw
  refine (show decodeControl cw = Decode.ring cw by unfold decodeControl; rw [h26_6]; rfl).trans ?_
  refine (show Decode.ring cw = Decode.need (fld cw 6 5 == 0) .unusedField (.ok (.mtWrite (fld cw 21 5) (fld cw 16 5) (fld cw 11 5))) by unfold Decode.ring; rw [h0_6]; rfl).trans ?_
  simp only [h6_5, h21_5, h16_5, h11_5]
  rfl

theorem Sys2Proof.Laws.RoundTrip.mtClear (d : BitVec 5) (a : BitVec 5) : Statement (.mtClear d a) := by
  intro hwf
  refine control_back ?_
  obtain ⟨cw, hw⟩ : ∃ cw : Code, cw = 40#6 ++ d ++ a ++ 3#16 := ⟨_, rfl⟩
  rw [← hw]
  have h26_6 : fld cw 26 6 = 40#6 := hw ▸ hi (hi (hi rfl))
  have h0_6 : fld cw 0 6 = 3#6 := hw ▸ lo rfl
  have h6_10 : fld cw 6 10 = 0#10 := hw ▸ lo rfl
  have h21_5 : fld cw 21 5 = d := hw ▸ hi (hi (lo all_))
  have h16_5 : fld cw 16 5 = a := hw ▸ hi (lo all_)
  clear hw
  refine (show decodeControl cw = Decode.ring cw by unfold decodeControl; rw [h26_6]; rfl).trans ?_
  refine (show Decode.ring cw = Decode.need (fld cw 6 10 == 0) .unusedField (.ok (.mtClear (fld cw 21 5) (fld cw 16 5))) by unfold Decode.ring; rw [h0_6]; rfl).trans ?_
  simp only [h6_10, h21_5, h16_5]
  rfl

theorem Sys2Proof.Laws.RoundTrip.ringGo (d : BitVec 5) (a : BitVec 5) : Statement (.ringGo d a) := by
  intro hwf
  refine control_back ?_
  obtain ⟨cw, hw⟩ : ∃ cw : Code, cw = 40#6 ++ d ++ a ++ 4#16 := ⟨_, rfl⟩
  rw [← hw]
  have h26_6 : fld cw 26 6 = 40#6 := hw ▸ hi (hi (hi rfl))
  have h0_6 : fld cw 0 6 = 4#6 := hw ▸ lo rfl
  have h6_10 : fld cw 6 10 = 0#10 := hw ▸ lo rfl
  have h21_5 : fld cw 21 5 = d := hw ▸ hi (hi (lo all_))
  have h16_5 : fld cw 16 5 = a := hw ▸ hi (lo all_)
  clear hw
  refine (show decodeControl cw = Decode.ring cw by unfold decodeControl; rw [h26_6]; rfl).trans ?_
  refine (show Decode.ring cw = Decode.need (fld cw 6 10 == 0) .unusedField (.ok (.ringGo (fld cw 21 5) (fld cw 16 5))) by unfold Decode.ring; rw [h0_6]; rfl).trans ?_
  simp only [h6_10, h21_5, h16_5]
  rfl

theorem Sys2Proof.Laws.RoundTrip.ringStat (d : BitVec 5) (a : BitVec 5) : Statement (.ringStat d a) := by
  intro hwf
  refine control_back ?_
  obtain ⟨cw, hw⟩ : ∃ cw : Code, cw = 40#6 ++ d ++ a ++ 5#16 := ⟨_, rfl⟩
  rw [← hw]
  have h26_6 : fld cw 26 6 = 40#6 := hw ▸ hi (hi (hi rfl))
  have h0_6 : fld cw 0 6 = 5#6 := hw ▸ lo rfl
  have h6_10 : fld cw 6 10 = 0#10 := hw ▸ lo rfl
  have h21_5 : fld cw 21 5 = d := hw ▸ hi (hi (lo all_))
  have h16_5 : fld cw 16 5 = a := hw ▸ hi (lo all_)
  clear hw
  refine (show decodeControl cw = Decode.ring cw by unfold decodeControl; rw [h26_6]; rfl).trans ?_
  refine (show Decode.ring cw = Decode.need (fld cw 6 10 == 0) .unusedField (.ok (.ringStat (fld cw 21 5) (fld cw 16 5))) by unfold Decode.ring; rw [h0_6]; rfl).trans ?_
  simp only [h6_10, h21_5, h16_5]
  rfl

theorem Sys2Proof.Laws.RoundTrip.ringStop (d : BitVec 5) (a : BitVec 5) (b : BitVec 5) : Statement (.ringStop d a b) := by
  intro hwf
  refine control_back ?_
  obtain ⟨cw, hw⟩ : ∃ cw : Code, cw = 40#6 ++ d ++ a ++ b ++ 6#11 := ⟨_, rfl⟩
  rw [← hw]
  have h26_6 : fld cw 26 6 = 40#6 := hw ▸ hi (hi (hi (hi rfl)))
  have h0_6 : fld cw 0 6 = 6#6 := hw ▸ lo rfl
  have h6_5 : fld cw 6 5 = 0#5 := hw ▸ lo rfl
  have h21_5 : fld cw 21 5 = d := hw ▸ hi (hi (hi (lo all_)))
  have h16_5 : fld cw 16 5 = a := hw ▸ hi (hi (lo all_))
  have h11_5 : fld cw 11 5 = b := hw ▸ hi (lo all_)
  clear hw
  refine (show decodeControl cw = Decode.ring cw by unfold decodeControl; rw [h26_6]; rfl).trans ?_
  refine (show Decode.ring cw = Decode.need (fld cw 6 5 == 0) .unusedField (.ok (.ringStop (fld cw 21 5) (fld cw 16 5) (fld cw 11 5))) by unfold Decode.ring; rw [h0_6]; rfl).trans ?_
  simp only [h6_5, h21_5, h16_5, h11_5]
  rfl

theorem Sys2Proof.Laws.RoundTrip.rcSend (d : BitVec 5) (a : BitVec 5) (b : BitVec 3) : Statement (.rcSend d a b) := by
  intro hwf
  refine control_back ?_
  obtain ⟨cw, hw⟩ : ∃ cw : Code, cw = 41#6 ++ d ++ a ++ 0#2 ++ b ++ 0#11 := ⟨_, rfl⟩
  rw [← hw]
  have h26_6 : fld cw 26 6 = 41#6 := hw ▸ hi (hi (hi (hi (hi rfl))))
  have h0_6 : fld cw 0 6 = 0#6 := hw ▸ lo rfl
  have h6_5 : fld cw 6 5 = 0#5 := hw ▸ lo rfl
  have h14_2 : fld cw 14 2 = 0#2 := hw ▸ hi (hi (lo rfl))
  have h21_5 : fld cw 21 5 = d := hw ▸ hi (hi (hi (hi (lo all_))))
  have h16_5 : fld cw 16 5 = a := hw ▸ hi (hi (hi (lo all_)))
  have h11_3 : fld cw 11 3 = b := hw ▸ hi (lo all_)
  clear hw
  refine (show decodeControl cw = Decode.rc cw by unfold decodeControl; rw [h26_6]; rfl).trans ?_
  refine (show Decode.rc cw = Decode.need (fld cw 6 5 == 0 && fld cw 14 2 == 0) .unusedField (.ok (.rcSend (fld cw 21 5) (fld cw 16 5) (fld cw 11 3))) by unfold Decode.rc; rw [h0_6]; rfl).trans ?_
  simp only [h6_5, h14_2, h21_5, h16_5, h11_3]
  rfl

theorem Sys2Proof.Laws.RoundTrip.rcMask (a : BitVec 5) : Statement (.rcMask a) := by
  intro hwf
  refine control_back ?_
  obtain ⟨cw, hw⟩ : ∃ cw : Code, cw = 41#6 ++ 0#5 ++ a ++ 1#16 := ⟨_, rfl⟩
  rw [← hw]
  have h26_6 : fld cw 26 6 = 41#6 := hw ▸ hi (hi (hi rfl))
  have h0_6 : fld cw 0 6 = 1#6 := hw ▸ lo rfl
  have h6_10 : fld cw 6 10 = 0#10 := hw ▸ lo rfl
  have h21_5 : fld cw 21 5 = 0#5 := hw ▸ hi (hi (lo rfl))
  have h16_5 : fld cw 16 5 = a := hw ▸ hi (lo all_)
  clear hw
  refine (show decodeControl cw = Decode.rc cw by unfold decodeControl; rw [h26_6]; rfl).trans ?_
  refine (show Decode.rc cw = Decode.need (fld cw 6 10 == 0 && fld cw 21 5 == 0) .unusedField (.ok (.rcMask (fld cw 16 5))) by unfold Decode.rc; rw [h0_6]; rfl).trans ?_
  simp only [h6_10, h21_5, h16_5]
  rfl

theorem Sys2Proof.Laws.RoundTrip.rcUnmask (a : BitVec 5) : Statement (.rcUnmask a) := by
  intro hwf
  refine control_back ?_
  obtain ⟨cw, hw⟩ : ∃ cw : Code, cw = 41#6 ++ 0#5 ++ a ++ 2#16 := ⟨_, rfl⟩
  rw [← hw]
  have h26_6 : fld cw 26 6 = 41#6 := hw ▸ hi (hi (hi rfl))
  have h0_6 : fld cw 0 6 = 2#6 := hw ▸ lo rfl
  have h6_10 : fld cw 6 10 = 0#10 := hw ▸ lo rfl
  have h21_5 : fld cw 21 5 = 0#5 := hw ▸ hi (hi (lo rfl))
  have h16_5 : fld cw 16 5 = a := hw ▸ hi (lo all_)
  clear hw
  refine (show decodeControl cw = Decode.rc cw by unfold decodeControl; rw [h26_6]; rfl).trans ?_
  refine (show Decode.rc cw = Decode.need (fld cw 6 10 == 0 && fld cw 21 5 == 0) .unusedField (.ok (.rcUnmask (fld cw 16 5))) by unfold Decode.rc; rw [h0_6]; rfl).trans ?_
  simp only [h6_10, h21_5, h16_5]
  rfl

theorem Sys2Proof.Laws.RoundTrip.rcRoute (a : BitVec 5) (b : BitVec 5) : Statement (.rcRoute a b) := by
  intro hwf
  refine control_back ?_
  obtain ⟨cw, hw⟩ : ∃ cw : Code, cw = 41#6 ++ 0#5 ++ a ++ b ++ 3#11 := ⟨_, rfl⟩
  rw [← hw]
  have h26_6 : fld cw 26 6 = 41#6 := hw ▸ hi (hi (hi (hi rfl)))
  have h0_6 : fld cw 0 6 = 3#6 := hw ▸ lo rfl
  have h6_5 : fld cw 6 5 = 0#5 := hw ▸ lo rfl
  have h21_5 : fld cw 21 5 = 0#5 := hw ▸ hi (hi (hi (lo rfl)))
  have h16_5 : fld cw 16 5 = a := hw ▸ hi (hi (lo all_))
  have h11_5 : fld cw 11 5 = b := hw ▸ hi (lo all_)
  clear hw
  refine (show decodeControl cw = Decode.rc cw by unfold decodeControl; rw [h26_6]; rfl).trans ?_
  refine (show Decode.rc cw = Decode.need (fld cw 6 5 == 0 && fld cw 21 5 == 0) .unusedField (.ok (.rcRoute (fld cw 16 5) (fld cw 11 5))) by unfold Decode.rc; rw [h0_6]; rfl).trans ?_
  simp only [h6_5, h21_5, h16_5, h11_5]
  rfl

theorem Sys2Proof.Laws.RoundTrip.evPop (d : BitVec 5) : Statement (.evPop d) := by
  intro hwf
  refine control_back ?_
  obtain ⟨cw, hw⟩ : ∃ cw : Code, cw = 42#6 ++ d ++ 0#21 := ⟨_, rfl⟩
  rw [← hw]
  have h26_6 : fld cw 26 6 = 42#6 := hw ▸ hi (hi rfl)
  have h0_6 : fld cw 0 6 = 0#6 := hw ▸ lo rfl
  have h6_15 : fld cw 6 15 = 0#15 := hw ▸ lo rfl
  have h21_5 : fld cw 21 5 = d := hw ▸ hi (lo all_)
  clear hw
  refine (show decodeControl cw = Decode.ev cw by unfold decodeControl; rw [h26_6]; rfl).trans ?_
  refine (show Decode.ev cw = Decode.need (fld cw 6 15 == 0) .unusedField (.ok (.evPop (fld cw 21 5))) by unfold Decode.ev; rw [h0_6]; rfl).trans ?_
  simp only [h6_15, h21_5]
  rfl

theorem Sys2Proof.Laws.RoundTrip.evPeek (d : BitVec 5) : Statement (.evPeek d) := by
  intro hwf
  refine control_back ?_
  obtain ⟨cw, hw⟩ : ∃ cw : Code, cw = 42#6 ++ d ++ 1#21 := ⟨_, rfl⟩
  rw [← hw]
  have h26_6 : fld cw 26 6 = 42#6 := hw ▸ hi (hi rfl)
  have h0_6 : fld cw 0 6 = 1#6 := hw ▸ lo rfl
  have h6_15 : fld cw 6 15 = 0#15 := hw ▸ lo rfl
  have h21_5 : fld cw 21 5 = d := hw ▸ hi (lo all_)
  clear hw
  refine (show decodeControl cw = Decode.ev cw by unfold decodeControl; rw [h26_6]; rfl).trans ?_
  refine (show Decode.ev cw = Decode.need (fld cw 6 15 == 0) .unusedField (.ok (.evPeek (fld cw 21 5))) by unfold Decode.ev; rw [h0_6]; rfl).trans ?_
  simp only [h6_15, h21_5]
  rfl

theorem Sys2Proof.Laws.RoundTrip.evPost (d : BitVec 5) (a : BitVec 5) (b : BitVec 5) : Statement (.evPost d a b) := by
  intro hwf
  refine control_back ?_
  obtain ⟨cw, hw⟩ : ∃ cw : Code, cw = 42#6 ++ d ++ a ++ b ++ 2#11 := ⟨_, rfl⟩
  rw [← hw]
  have h26_6 : fld cw 26 6 = 42#6 := hw ▸ hi (hi (hi (hi rfl)))
  have h0_6 : fld cw 0 6 = 2#6 := hw ▸ lo rfl
  have h6_5 : fld cw 6 5 = 0#5 := hw ▸ lo rfl
  have h21_5 : fld cw 21 5 = d := hw ▸ hi (hi (hi (lo all_)))
  have h16_5 : fld cw 16 5 = a := hw ▸ hi (hi (lo all_))
  have h11_5 : fld cw 11 5 = b := hw ▸ hi (lo all_)
  clear hw
  refine (show decodeControl cw = Decode.ev cw by unfold decodeControl; rw [h26_6]; rfl).trans ?_
  refine (show Decode.ev cw = Decode.need (fld cw 6 5 == 0) .unusedField (.ok (.evPost (fld cw 21 5) (fld cw 16 5) (fld cw 11 5))) by unfold Decode.ev; rw [h0_6]; rfl).trans ?_
  simp only [h6_5, h21_5, h16_5, h11_5]
  rfl

theorem Sys2Proof.Laws.RoundTrip.phase (s : BitVec 3) : Statement (.phase s) := by
  intro hwf
  refine control_back ?_
  obtain ⟨cw, hw⟩ : ∃ cw : Code, cw = 43#6 ++ 0#15 ++ s ++ 0#8 := ⟨_, rfl⟩
  rw [← hw]
  have h26_6 : fld cw 26 6 = 43#6 := hw ▸ hi (hi (hi rfl))
  have h0_6 : fld cw 0 6 = 0#6 := hw ▸ lo rfl
  have h6_2 : fld cw 6 2 = 0#2 := hw ▸ lo rfl
  have h11_15 : fld cw 11 15 = 0#15 := hw ▸ hi (hi (lo rfl))
  have h8_3 : fld cw 8 3 = s := hw ▸ hi (lo all_)
  clear hw
  refine (show decodeControl cw = Decode.mem cw by unfold decodeControl; rw [h26_6]; rfl).trans ?_
  refine (show Decode.mem cw = Decode.need (fld cw 6 2 == 0 && fld cw 11 15 == 0) .unusedField (Decode.need (Form.scope06 (fld cw 8 3)) .badScope (.ok (.phase (fld cw 8 3)))) by unfold Decode.mem; rw [h0_6]; rfl).trans ?_
  simp only [h6_2, h11_15, h8_3]
  simp only [Instr.wf] at hwf
  simp_all [Decode.need]

theorem Sys2Proof.Laws.RoundTrip.fence (s : BitVec 3) (q : BitVec 1) (r : BitVec 1) : Statement (.fence s q r) := by
  intro hwf
  refine control_back ?_
  obtain ⟨cw, hw⟩ : ∃ cw : Code, cw = 43#6 ++ 0#15 ++ s ++ q ++ r ++ 1#6 := ⟨_, rfl⟩
  rw [← hw]
  have h26_6 : fld cw 26 6 = 43#6 := hw ▸ hi (hi (hi (hi (hi rfl))))
  have h0_6 : fld cw 0 6 = 1#6 := hw ▸ lo rfl
  have h11_15 : fld cw 11 15 = 0#15 := hw ▸ hi (hi (hi (hi (lo rfl))))
  have h8_3 : fld cw 8 3 = s := hw ▸ hi (hi (hi (lo all_)))
  have h7_1 : fld cw 7 1 = q := hw ▸ hi (hi (lo all_))
  have h6_1 : fld cw 6 1 = r := hw ▸ hi (lo all_)
  clear hw
  refine (show decodeControl cw = Decode.mem cw by unfold decodeControl; rw [h26_6]; rfl).trans ?_
  refine (show Decode.mem cw = Decode.need (fld cw 11 15 == 0) .unusedField (Decode.need (Form.scope06 (fld cw 8 3)) .badScope (Decode.need ((fld cw 7 1) == 1 || (fld cw 6 1) == 1) .badOrder (.ok (.fence (fld cw 8 3) (fld cw 7 1) (fld cw 6 1))))) by unfold Decode.mem; rw [h0_6]; rfl).trans ?_
  simp only [h11_15, h8_3, h7_1, h6_1]
  simp only [Instr.wf] at hwf
  simp_all [Decode.need]

theorem Sys2Proof.Laws.RoundTrip.pref (a : BitVec 3) (b : BitVec 5) (s : BitVec 3) : Statement (.pref a b s) := by
  intro hwf
  refine control_back ?_
  obtain ⟨cw, hw⟩ : ∃ cw : Code, cw = 43#6 ++ 0#7 ++ a ++ b ++ s ++ 2#8 := ⟨_, rfl⟩
  rw [← hw]
  have h26_6 : fld cw 26 6 = 43#6 := hw ▸ hi (hi (hi (hi (hi rfl))))
  have h0_6 : fld cw 0 6 = 2#6 := hw ▸ lo rfl
  have h6_2 : fld cw 6 2 = 0#2 := hw ▸ lo rfl
  have h19_7 : fld cw 19 7 = 0#7 := hw ▸ hi (hi (hi (hi (lo rfl))))
  have h8_3 : fld cw 8 3 = s := hw ▸ hi (lo all_)
  have h16_3 : fld cw 16 3 = a := hw ▸ hi (hi (hi (lo all_)))
  have h11_5 : fld cw 11 5 = b := hw ▸ hi (hi (lo all_))
  clear hw
  refine (show decodeControl cw = Decode.mem cw by unfold decodeControl; rw [h26_6]; rfl).trans ?_
  refine (show Decode.mem cw = Decode.need (fld cw 6 2 == 0 && fld cw 19 7 == 0) .unusedField (Decode.need (Form.scope14 (fld cw 8 3)) .badScope (.ok (.pref (fld cw 16 3) (fld cw 11 5) (fld cw 8 3)))) by unfold Decode.mem; rw [h0_6]; rfl).trans ?_
  simp only [h6_2, h19_7, h8_3, h16_3, h11_5]
  simp only [Instr.wf] at hwf
  simp_all [Decode.need]

theorem Sys2Proof.Laws.RoundTrip.discard (a : BitVec 3) (b : BitVec 5) (s : BitVec 3) : Statement (.discard a b s) := by
  intro hwf
  refine control_back ?_
  obtain ⟨cw, hw⟩ : ∃ cw : Code, cw = 43#6 ++ 0#7 ++ a ++ b ++ s ++ 3#8 := ⟨_, rfl⟩
  rw [← hw]
  have h26_6 : fld cw 26 6 = 43#6 := hw ▸ hi (hi (hi (hi (hi rfl))))
  have h0_6 : fld cw 0 6 = 3#6 := hw ▸ lo rfl
  have h6_2 : fld cw 6 2 = 0#2 := hw ▸ lo rfl
  have h19_7 : fld cw 19 7 = 0#7 := hw ▸ hi (hi (hi (hi (lo rfl))))
  have h8_3 : fld cw 8 3 = s := hw ▸ hi (lo all_)
  have h16_3 : fld cw 16 3 = a := hw ▸ hi (hi (hi (lo all_)))
  have h11_5 : fld cw 11 5 = b := hw ▸ hi (hi (lo all_))
  clear hw
  refine (show decodeControl cw = Decode.mem cw by unfold decodeControl; rw [h26_6]; rfl).trans ?_
  refine (show Decode.mem cw = Decode.need (fld cw 6 2 == 0 && fld cw 19 7 == 0) .unusedField (Decode.need (Form.scope14 (fld cw 8 3)) .badScope (.ok (.discard (fld cw 16 3) (fld cw 11 5) (fld cw 8 3)))) by unfold Decode.mem; rw [h0_6]; rfl).trans ?_
  simp only [h6_2, h19_7, h8_3, h16_3, h11_5]
  simp only [Instr.wf] at hwf
  simp_all [Decode.need]

theorem Sys2Proof.Laws.RoundTrip.tsread (d : BitVec 5) : Statement (.tsread d) := by
  intro hwf
  refine control_back ?_
  obtain ⟨cw, hw⟩ : ∃ cw : Code, cw = 43#6 ++ d ++ 4#21 := ⟨_, rfl⟩
  rw [← hw]
  have h26_6 : fld cw 26 6 = 43#6 := hw ▸ hi (hi rfl)
  have h0_6 : fld cw 0 6 = 4#6 := hw ▸ lo rfl
  have h6_15 : fld cw 6 15 = 0#15 := hw ▸ lo rfl
  have h21_5 : fld cw 21 5 = d := hw ▸ hi (lo all_)
  clear hw
  refine (show decodeControl cw = Decode.mem cw by unfold decodeControl; rw [h26_6]; rfl).trans ?_
  refine (show Decode.mem cw = Decode.need (fld cw 6 15 == 0) .unusedField (.ok (.tsread (fld cw 21 5))) by unfold Decode.mem; rw [h0_6]; rfl).trans ?_
  simp only [h6_15, h21_5]
  rfl

theorem Sys2Proof.Laws.RoundTrip.atAdd (d : BitVec 5) (a : BitVec 3) (b : BitVec 5) (s : BitVec 3) (q : BitVec 1) (r : BitVec 1) (w : BitVec 1) : Statement (.atAdd d a b s q r w) := by
  intro hwf
  refine control_back ?_
  obtain ⟨cw, hw⟩ : ∃ cw : Code, cw = 44#6 ++ d ++ 0#2 ++ a ++ b ++ s ++ q ++ r ++ w ++ 0#5 := ⟨_, rfl⟩
  rw [← hw]
  have h26_6 : fld cw 26 6 = 44#6 := hw ▸ hi (hi (hi (hi (hi (hi (hi (hi (hi rfl))))))))
  have h0_5 : fld cw 0 5 = 0#5 := hw ▸ lo rfl
  have h19_2 : fld cw 19 2 = 0#2 := hw ▸ hi (hi (hi (hi (hi (hi (hi (lo rfl)))))))
  have h21_5 : fld cw 21 5 = d := hw ▸ hi (hi (hi (hi (hi (hi (hi (hi (lo all_))))))))
  have h16_3 : fld cw 16 3 = a := hw ▸ hi (hi (hi (hi (hi (hi (lo all_))))))
  have h11_5 : fld cw 11 5 = b := hw ▸ hi (hi (hi (hi (hi (lo all_)))))
  have h8_3 : fld cw 8 3 = s := hw ▸ hi (hi (hi (hi (lo all_))))
  have h7_1 : fld cw 7 1 = q := hw ▸ hi (hi (hi (lo all_)))
  have h6_1 : fld cw 6 1 = r := hw ▸ hi (hi (lo all_))
  have h5_1 : fld cw 5 1 = w := hw ▸ hi (lo all_)
  clear hw
  refine (show decodeControl cw = Decode.atom cw by unfold decodeControl; rw [h26_6]; rfl).trans ?_
  refine (show Decode.atom cw = Decode.need (fld cw 19 2 == 0) .unusedField (.ok (.atAdd (fld cw 21 5) (fld cw 16 3) (fld cw 11 5) (fld cw 8 3) (fld cw 7 1) (fld cw 6 1) (fld cw 5 1))) by unfold Decode.atom; rw [h0_5]; rfl).trans ?_
  simp only [h19_2, h21_5, h16_3, h11_5, h8_3, h7_1, h6_1, h5_1]
  rfl

theorem Sys2Proof.Laws.RoundTrip.atFadd (d : BitVec 5) (a : BitVec 3) (b : BitVec 5) (s : BitVec 3) (q : BitVec 1) (r : BitVec 1) : Statement (.atFadd d a b s q r) := by
  intro hwf
  refine control_back ?_
  obtain ⟨cw, hw⟩ : ∃ cw : Code, cw = 44#6 ++ d ++ 0#2 ++ a ++ b ++ s ++ q ++ r ++ 1#6 := ⟨_, rfl⟩
  rw [← hw]
  have h26_6 : fld cw 26 6 = 44#6 := hw ▸ hi (hi (hi (hi (hi (hi (hi (hi rfl)))))))
  have h0_5 : fld cw 0 5 = 1#5 := hw ▸ lo rfl
  have h5_1 : fld cw 5 1 = 0#1 := hw ▸ lo rfl
  have h19_2 : fld cw 19 2 = 0#2 := hw ▸ hi (hi (hi (hi (hi (hi (lo rfl))))))
  have h21_5 : fld cw 21 5 = d := hw ▸ hi (hi (hi (hi (hi (hi (hi (lo all_)))))))
  have h16_3 : fld cw 16 3 = a := hw ▸ hi (hi (hi (hi (hi (lo all_)))))
  have h11_5 : fld cw 11 5 = b := hw ▸ hi (hi (hi (hi (lo all_))))
  have h8_3 : fld cw 8 3 = s := hw ▸ hi (hi (hi (lo all_)))
  have h7_1 : fld cw 7 1 = q := hw ▸ hi (hi (lo all_))
  have h6_1 : fld cw 6 1 = r := hw ▸ hi (lo all_)
  clear hw
  refine (show decodeControl cw = Decode.atom cw by unfold decodeControl; rw [h26_6]; rfl).trans ?_
  refine (show Decode.atom cw = Decode.need (fld cw 5 1 == 0 && fld cw 19 2 == 0) .unusedField (.ok (.atFadd (fld cw 21 5) (fld cw 16 3) (fld cw 11 5) (fld cw 8 3) (fld cw 7 1) (fld cw 6 1))) by unfold Decode.atom; rw [h0_5]; rfl).trans ?_
  simp only [h5_1, h19_2, h21_5, h16_3, h11_5, h8_3, h7_1, h6_1]
  rfl

theorem Sys2Proof.Laws.RoundTrip.atAnd (d : BitVec 5) (a : BitVec 3) (b : BitVec 5) (s : BitVec 3) (q : BitVec 1) (r : BitVec 1) (w : BitVec 1) : Statement (.atAnd d a b s q r w) := by
  intro hwf
  refine control_back ?_
  obtain ⟨cw, hw⟩ : ∃ cw : Code, cw = 44#6 ++ d ++ 0#2 ++ a ++ b ++ s ++ q ++ r ++ w ++ 2#5 := ⟨_, rfl⟩
  rw [← hw]
  have h26_6 : fld cw 26 6 = 44#6 := hw ▸ hi (hi (hi (hi (hi (hi (hi (hi (hi rfl))))))))
  have h0_5 : fld cw 0 5 = 2#5 := hw ▸ lo rfl
  have h19_2 : fld cw 19 2 = 0#2 := hw ▸ hi (hi (hi (hi (hi (hi (hi (lo rfl)))))))
  have h21_5 : fld cw 21 5 = d := hw ▸ hi (hi (hi (hi (hi (hi (hi (hi (lo all_))))))))
  have h16_3 : fld cw 16 3 = a := hw ▸ hi (hi (hi (hi (hi (hi (lo all_))))))
  have h11_5 : fld cw 11 5 = b := hw ▸ hi (hi (hi (hi (hi (lo all_)))))
  have h8_3 : fld cw 8 3 = s := hw ▸ hi (hi (hi (hi (lo all_))))
  have h7_1 : fld cw 7 1 = q := hw ▸ hi (hi (hi (lo all_)))
  have h6_1 : fld cw 6 1 = r := hw ▸ hi (hi (lo all_))
  have h5_1 : fld cw 5 1 = w := hw ▸ hi (lo all_)
  clear hw
  refine (show decodeControl cw = Decode.atom cw by unfold decodeControl; rw [h26_6]; rfl).trans ?_
  refine (show Decode.atom cw = Decode.need (fld cw 19 2 == 0) .unusedField (.ok (.atAnd (fld cw 21 5) (fld cw 16 3) (fld cw 11 5) (fld cw 8 3) (fld cw 7 1) (fld cw 6 1) (fld cw 5 1))) by unfold Decode.atom; rw [h0_5]; rfl).trans ?_
  simp only [h19_2, h21_5, h16_3, h11_5, h8_3, h7_1, h6_1, h5_1]
  rfl

theorem Sys2Proof.Laws.RoundTrip.atOr (d : BitVec 5) (a : BitVec 3) (b : BitVec 5) (s : BitVec 3) (q : BitVec 1) (r : BitVec 1) (w : BitVec 1) : Statement (.atOr d a b s q r w) := by
  intro hwf
  refine control_back ?_
  obtain ⟨cw, hw⟩ : ∃ cw : Code, cw = 44#6 ++ d ++ 0#2 ++ a ++ b ++ s ++ q ++ r ++ w ++ 3#5 := ⟨_, rfl⟩
  rw [← hw]
  have h26_6 : fld cw 26 6 = 44#6 := hw ▸ hi (hi (hi (hi (hi (hi (hi (hi (hi rfl))))))))
  have h0_5 : fld cw 0 5 = 3#5 := hw ▸ lo rfl
  have h19_2 : fld cw 19 2 = 0#2 := hw ▸ hi (hi (hi (hi (hi (hi (hi (lo rfl)))))))
  have h21_5 : fld cw 21 5 = d := hw ▸ hi (hi (hi (hi (hi (hi (hi (hi (lo all_))))))))
  have h16_3 : fld cw 16 3 = a := hw ▸ hi (hi (hi (hi (hi (hi (lo all_))))))
  have h11_5 : fld cw 11 5 = b := hw ▸ hi (hi (hi (hi (hi (lo all_)))))
  have h8_3 : fld cw 8 3 = s := hw ▸ hi (hi (hi (hi (lo all_))))
  have h7_1 : fld cw 7 1 = q := hw ▸ hi (hi (hi (lo all_)))
  have h6_1 : fld cw 6 1 = r := hw ▸ hi (hi (lo all_))
  have h5_1 : fld cw 5 1 = w := hw ▸ hi (lo all_)
  clear hw
  refine (show decodeControl cw = Decode.atom cw by unfold decodeControl; rw [h26_6]; rfl).trans ?_
  refine (show Decode.atom cw = Decode.need (fld cw 19 2 == 0) .unusedField (.ok (.atOr (fld cw 21 5) (fld cw 16 3) (fld cw 11 5) (fld cw 8 3) (fld cw 7 1) (fld cw 6 1) (fld cw 5 1))) by unfold Decode.atom; rw [h0_5]; rfl).trans ?_
  simp only [h19_2, h21_5, h16_3, h11_5, h8_3, h7_1, h6_1, h5_1]
  rfl

theorem Sys2Proof.Laws.RoundTrip.atXor (d : BitVec 5) (a : BitVec 3) (b : BitVec 5) (s : BitVec 3) (q : BitVec 1) (r : BitVec 1) (w : BitVec 1) : Statement (.atXor d a b s q r w) := by
  intro hwf
  refine control_back ?_
  obtain ⟨cw, hw⟩ : ∃ cw : Code, cw = 44#6 ++ d ++ 0#2 ++ a ++ b ++ s ++ q ++ r ++ w ++ 4#5 := ⟨_, rfl⟩
  rw [← hw]
  have h26_6 : fld cw 26 6 = 44#6 := hw ▸ hi (hi (hi (hi (hi (hi (hi (hi (hi rfl))))))))
  have h0_5 : fld cw 0 5 = 4#5 := hw ▸ lo rfl
  have h19_2 : fld cw 19 2 = 0#2 := hw ▸ hi (hi (hi (hi (hi (hi (hi (lo rfl)))))))
  have h21_5 : fld cw 21 5 = d := hw ▸ hi (hi (hi (hi (hi (hi (hi (hi (lo all_))))))))
  have h16_3 : fld cw 16 3 = a := hw ▸ hi (hi (hi (hi (hi (hi (lo all_))))))
  have h11_5 : fld cw 11 5 = b := hw ▸ hi (hi (hi (hi (hi (lo all_)))))
  have h8_3 : fld cw 8 3 = s := hw ▸ hi (hi (hi (hi (lo all_))))
  have h7_1 : fld cw 7 1 = q := hw ▸ hi (hi (hi (lo all_)))
  have h6_1 : fld cw 6 1 = r := hw ▸ hi (hi (lo all_))
  have h5_1 : fld cw 5 1 = w := hw ▸ hi (lo all_)
  clear hw
  refine (show decodeControl cw = Decode.atom cw by unfold decodeControl; rw [h26_6]; rfl).trans ?_
  refine (show Decode.atom cw = Decode.need (fld cw 19 2 == 0) .unusedField (.ok (.atXor (fld cw 21 5) (fld cw 16 3) (fld cw 11 5) (fld cw 8 3) (fld cw 7 1) (fld cw 6 1) (fld cw 5 1))) by unfold Decode.atom; rw [h0_5]; rfl).trans ?_
  simp only [h19_2, h21_5, h16_3, h11_5, h8_3, h7_1, h6_1, h5_1]
  rfl

theorem Sys2Proof.Laws.RoundTrip.atMin (d : BitVec 5) (a : BitVec 3) (b : BitVec 5) (s : BitVec 3) (q : BitVec 1) (r : BitVec 1) (w : BitVec 1) : Statement (.atMin d a b s q r w) := by
  intro hwf
  refine control_back ?_
  obtain ⟨cw, hw⟩ : ∃ cw : Code, cw = 44#6 ++ d ++ 0#2 ++ a ++ b ++ s ++ q ++ r ++ w ++ 5#5 := ⟨_, rfl⟩
  rw [← hw]
  have h26_6 : fld cw 26 6 = 44#6 := hw ▸ hi (hi (hi (hi (hi (hi (hi (hi (hi rfl))))))))
  have h0_5 : fld cw 0 5 = 5#5 := hw ▸ lo rfl
  have h19_2 : fld cw 19 2 = 0#2 := hw ▸ hi (hi (hi (hi (hi (hi (hi (lo rfl)))))))
  have h21_5 : fld cw 21 5 = d := hw ▸ hi (hi (hi (hi (hi (hi (hi (hi (lo all_))))))))
  have h16_3 : fld cw 16 3 = a := hw ▸ hi (hi (hi (hi (hi (hi (lo all_))))))
  have h11_5 : fld cw 11 5 = b := hw ▸ hi (hi (hi (hi (hi (lo all_)))))
  have h8_3 : fld cw 8 3 = s := hw ▸ hi (hi (hi (hi (lo all_))))
  have h7_1 : fld cw 7 1 = q := hw ▸ hi (hi (hi (lo all_)))
  have h6_1 : fld cw 6 1 = r := hw ▸ hi (hi (lo all_))
  have h5_1 : fld cw 5 1 = w := hw ▸ hi (lo all_)
  clear hw
  refine (show decodeControl cw = Decode.atom cw by unfold decodeControl; rw [h26_6]; rfl).trans ?_
  refine (show Decode.atom cw = Decode.need (fld cw 19 2 == 0) .unusedField (.ok (.atMin (fld cw 21 5) (fld cw 16 3) (fld cw 11 5) (fld cw 8 3) (fld cw 7 1) (fld cw 6 1) (fld cw 5 1))) by unfold Decode.atom; rw [h0_5]; rfl).trans ?_
  simp only [h19_2, h21_5, h16_3, h11_5, h8_3, h7_1, h6_1, h5_1]
  rfl

theorem Sys2Proof.Laws.RoundTrip.atMax (d : BitVec 5) (a : BitVec 3) (b : BitVec 5) (s : BitVec 3) (q : BitVec 1) (r : BitVec 1) (w : BitVec 1) : Statement (.atMax d a b s q r w) := by
  intro hwf
  refine control_back ?_
  obtain ⟨cw, hw⟩ : ∃ cw : Code, cw = 44#6 ++ d ++ 0#2 ++ a ++ b ++ s ++ q ++ r ++ w ++ 6#5 := ⟨_, rfl⟩
  rw [← hw]
  have h26_6 : fld cw 26 6 = 44#6 := hw ▸ hi (hi (hi (hi (hi (hi (hi (hi (hi rfl))))))))
  have h0_5 : fld cw 0 5 = 6#5 := hw ▸ lo rfl
  have h19_2 : fld cw 19 2 = 0#2 := hw ▸ hi (hi (hi (hi (hi (hi (hi (lo rfl)))))))
  have h21_5 : fld cw 21 5 = d := hw ▸ hi (hi (hi (hi (hi (hi (hi (hi (lo all_))))))))
  have h16_3 : fld cw 16 3 = a := hw ▸ hi (hi (hi (hi (hi (hi (lo all_))))))
  have h11_5 : fld cw 11 5 = b := hw ▸ hi (hi (hi (hi (hi (lo all_)))))
  have h8_3 : fld cw 8 3 = s := hw ▸ hi (hi (hi (hi (lo all_))))
  have h7_1 : fld cw 7 1 = q := hw ▸ hi (hi (hi (lo all_)))
  have h6_1 : fld cw 6 1 = r := hw ▸ hi (hi (lo all_))
  have h5_1 : fld cw 5 1 = w := hw ▸ hi (lo all_)
  clear hw
  refine (show decodeControl cw = Decode.atom cw by unfold decodeControl; rw [h26_6]; rfl).trans ?_
  refine (show Decode.atom cw = Decode.need (fld cw 19 2 == 0) .unusedField (.ok (.atMax (fld cw 21 5) (fld cw 16 3) (fld cw 11 5) (fld cw 8 3) (fld cw 7 1) (fld cw 6 1) (fld cw 5 1))) by unfold Decode.atom; rw [h0_5]; rfl).trans ?_
  simp only [h19_2, h21_5, h16_3, h11_5, h8_3, h7_1, h6_1, h5_1]
  rfl

theorem Sys2Proof.Laws.RoundTrip.atMinn (d : BitVec 5) (a : BitVec 3) (b : BitVec 5) (s : BitVec 3) (q : BitVec 1) (r : BitVec 1) (w : BitVec 1) : Statement (.atMinn d a b s q r w) := by
  intro hwf
  refine control_back ?_
  obtain ⟨cw, hw⟩ : ∃ cw : Code, cw = 44#6 ++ d ++ 0#2 ++ a ++ b ++ s ++ q ++ r ++ w ++ 7#5 := ⟨_, rfl⟩
  rw [← hw]
  have h26_6 : fld cw 26 6 = 44#6 := hw ▸ hi (hi (hi (hi (hi (hi (hi (hi (hi rfl))))))))
  have h0_5 : fld cw 0 5 = 7#5 := hw ▸ lo rfl
  have h19_2 : fld cw 19 2 = 0#2 := hw ▸ hi (hi (hi (hi (hi (hi (hi (lo rfl)))))))
  have h21_5 : fld cw 21 5 = d := hw ▸ hi (hi (hi (hi (hi (hi (hi (hi (lo all_))))))))
  have h16_3 : fld cw 16 3 = a := hw ▸ hi (hi (hi (hi (hi (hi (lo all_))))))
  have h11_5 : fld cw 11 5 = b := hw ▸ hi (hi (hi (hi (hi (lo all_)))))
  have h8_3 : fld cw 8 3 = s := hw ▸ hi (hi (hi (hi (lo all_))))
  have h7_1 : fld cw 7 1 = q := hw ▸ hi (hi (hi (lo all_)))
  have h6_1 : fld cw 6 1 = r := hw ▸ hi (hi (lo all_))
  have h5_1 : fld cw 5 1 = w := hw ▸ hi (lo all_)
  clear hw
  refine (show decodeControl cw = Decode.atom cw by unfold decodeControl; rw [h26_6]; rfl).trans ?_
  refine (show Decode.atom cw = Decode.need (fld cw 19 2 == 0) .unusedField (.ok (.atMinn (fld cw 21 5) (fld cw 16 3) (fld cw 11 5) (fld cw 8 3) (fld cw 7 1) (fld cw 6 1) (fld cw 5 1))) by unfold Decode.atom; rw [h0_5]; rfl).trans ?_
  simp only [h19_2, h21_5, h16_3, h11_5, h8_3, h7_1, h6_1, h5_1]
  rfl

theorem Sys2Proof.Laws.RoundTrip.atMaxn (d : BitVec 5) (a : BitVec 3) (b : BitVec 5) (s : BitVec 3) (q : BitVec 1) (r : BitVec 1) (w : BitVec 1) : Statement (.atMaxn d a b s q r w) := by
  intro hwf
  refine control_back ?_
  obtain ⟨cw, hw⟩ : ∃ cw : Code, cw = 44#6 ++ d ++ 0#2 ++ a ++ b ++ s ++ q ++ r ++ w ++ 8#5 := ⟨_, rfl⟩
  rw [← hw]
  have h26_6 : fld cw 26 6 = 44#6 := hw ▸ hi (hi (hi (hi (hi (hi (hi (hi (hi rfl))))))))
  have h0_5 : fld cw 0 5 = 8#5 := hw ▸ lo rfl
  have h19_2 : fld cw 19 2 = 0#2 := hw ▸ hi (hi (hi (hi (hi (hi (hi (lo rfl)))))))
  have h21_5 : fld cw 21 5 = d := hw ▸ hi (hi (hi (hi (hi (hi (hi (hi (lo all_))))))))
  have h16_3 : fld cw 16 3 = a := hw ▸ hi (hi (hi (hi (hi (hi (lo all_))))))
  have h11_5 : fld cw 11 5 = b := hw ▸ hi (hi (hi (hi (hi (lo all_)))))
  have h8_3 : fld cw 8 3 = s := hw ▸ hi (hi (hi (hi (lo all_))))
  have h7_1 : fld cw 7 1 = q := hw ▸ hi (hi (hi (lo all_)))
  have h6_1 : fld cw 6 1 = r := hw ▸ hi (hi (lo all_))
  have h5_1 : fld cw 5 1 = w := hw ▸ hi (lo all_)
  clear hw
  refine (show decodeControl cw = Decode.atom cw by unfold decodeControl; rw [h26_6]; rfl).trans ?_
  refine (show Decode.atom cw = Decode.need (fld cw 19 2 == 0) .unusedField (.ok (.atMaxn (fld cw 21 5) (fld cw 16 3) (fld cw 11 5) (fld cw 8 3) (fld cw 7 1) (fld cw 6 1) (fld cw 5 1))) by unfold Decode.atom; rw [h0_5]; rfl).trans ?_
  simp only [h19_2, h21_5, h16_3, h11_5, h8_3, h7_1, h6_1, h5_1]
  rfl

theorem Sys2Proof.Laws.RoundTrip.atSwap (d : BitVec 5) (a : BitVec 3) (b : BitVec 5) (s : BitVec 3) (q : BitVec 1) (r : BitVec 1) (w : BitVec 1) : Statement (.atSwap d a b s q r w) := by
  intro hwf
  refine control_back ?_
  obtain ⟨cw, hw⟩ : ∃ cw : Code, cw = 44#6 ++ d ++ 0#2 ++ a ++ b ++ s ++ q ++ r ++ w ++ 9#5 := ⟨_, rfl⟩
  rw [← hw]
  have h26_6 : fld cw 26 6 = 44#6 := hw ▸ hi (hi (hi (hi (hi (hi (hi (hi (hi rfl))))))))
  have h0_5 : fld cw 0 5 = 9#5 := hw ▸ lo rfl
  have h19_2 : fld cw 19 2 = 0#2 := hw ▸ hi (hi (hi (hi (hi (hi (hi (lo rfl)))))))
  have h21_5 : fld cw 21 5 = d := hw ▸ hi (hi (hi (hi (hi (hi (hi (hi (lo all_))))))))
  have h16_3 : fld cw 16 3 = a := hw ▸ hi (hi (hi (hi (hi (hi (lo all_))))))
  have h11_5 : fld cw 11 5 = b := hw ▸ hi (hi (hi (hi (hi (lo all_)))))
  have h8_3 : fld cw 8 3 = s := hw ▸ hi (hi (hi (hi (lo all_))))
  have h7_1 : fld cw 7 1 = q := hw ▸ hi (hi (hi (lo all_)))
  have h6_1 : fld cw 6 1 = r := hw ▸ hi (hi (lo all_))
  have h5_1 : fld cw 5 1 = w := hw ▸ hi (lo all_)
  clear hw
  refine (show decodeControl cw = Decode.atom cw by unfold decodeControl; rw [h26_6]; rfl).trans ?_
  refine (show Decode.atom cw = Decode.need (fld cw 19 2 == 0) .unusedField (.ok (.atSwap (fld cw 21 5) (fld cw 16 3) (fld cw 11 5) (fld cw 8 3) (fld cw 7 1) (fld cw 6 1) (fld cw 5 1))) by unfold Decode.atom; rw [h0_5]; rfl).trans ?_
  simp only [h19_2, h21_5, h16_3, h11_5, h8_3, h7_1, h6_1, h5_1]
  rfl

theorem Sys2Proof.Laws.RoundTrip.atCas (d : BitVec 5) (a : BitVec 3) (b : BitVec 5) (s : BitVec 3) (q : BitVec 1) (r : BitVec 1) (w : BitVec 1) : Statement (.atCas d a b s q r w) := by
  intro hwf
  refine control_back ?_
  obtain ⟨cw, hw⟩ : ∃ cw : Code, cw = 44#6 ++ d ++ 0#2 ++ a ++ b ++ s ++ q ++ r ++ w ++ 10#5 := ⟨_, rfl⟩
  rw [← hw]
  have h26_6 : fld cw 26 6 = 44#6 := hw ▸ hi (hi (hi (hi (hi (hi (hi (hi (hi rfl))))))))
  have h0_5 : fld cw 0 5 = 10#5 := hw ▸ lo rfl
  have h19_2 : fld cw 19 2 = 0#2 := hw ▸ hi (hi (hi (hi (hi (hi (hi (lo rfl)))))))
  have h21_5 : fld cw 21 5 = d := hw ▸ hi (hi (hi (hi (hi (hi (hi (hi (lo all_))))))))
  have h16_3 : fld cw 16 3 = a := hw ▸ hi (hi (hi (hi (hi (hi (lo all_))))))
  have h11_5 : fld cw 11 5 = b := hw ▸ hi (hi (hi (hi (hi (lo all_)))))
  have h8_3 : fld cw 8 3 = s := hw ▸ hi (hi (hi (hi (lo all_))))
  have h7_1 : fld cw 7 1 = q := hw ▸ hi (hi (hi (lo all_)))
  have h6_1 : fld cw 6 1 = r := hw ▸ hi (hi (lo all_))
  have h5_1 : fld cw 5 1 = w := hw ▸ hi (lo all_)
  clear hw
  refine (show decodeControl cw = Decode.atom cw by unfold decodeControl; rw [h26_6]; rfl).trans ?_
  refine (show Decode.atom cw = Decode.need (fld cw 19 2 == 0) .unusedField (.ok (.atCas (fld cw 21 5) (fld cw 16 3) (fld cw 11 5) (fld cw 8 3) (fld cw 7 1) (fld cw 6 1) (fld cw 5 1))) by unfold Decode.atom; rw [h0_5]; rfl).trans ?_
  simp only [h19_2, h21_5, h16_3, h11_5, h8_3, h7_1, h6_1, h5_1]
  rfl

theorem Sys2Proof.Laws.RoundTrip.atInc (d : BitVec 5) (a : BitVec 3) (b : BitVec 5) (s : BitVec 3) (q : BitVec 1) (r : BitVec 1) (w : BitVec 1) : Statement (.atInc d a b s q r w) := by
  intro hwf
  refine control_back ?_
  obtain ⟨cw, hw⟩ : ∃ cw : Code, cw = 44#6 ++ d ++ 0#2 ++ a ++ b ++ s ++ q ++ r ++ w ++ 11#5 := ⟨_, rfl⟩
  rw [← hw]
  have h26_6 : fld cw 26 6 = 44#6 := hw ▸ hi (hi (hi (hi (hi (hi (hi (hi (hi rfl))))))))
  have h0_5 : fld cw 0 5 = 11#5 := hw ▸ lo rfl
  have h19_2 : fld cw 19 2 = 0#2 := hw ▸ hi (hi (hi (hi (hi (hi (hi (lo rfl)))))))
  have h21_5 : fld cw 21 5 = d := hw ▸ hi (hi (hi (hi (hi (hi (hi (hi (lo all_))))))))
  have h16_3 : fld cw 16 3 = a := hw ▸ hi (hi (hi (hi (hi (hi (lo all_))))))
  have h11_5 : fld cw 11 5 = b := hw ▸ hi (hi (hi (hi (hi (lo all_)))))
  have h8_3 : fld cw 8 3 = s := hw ▸ hi (hi (hi (hi (lo all_))))
  have h7_1 : fld cw 7 1 = q := hw ▸ hi (hi (hi (lo all_)))
  have h6_1 : fld cw 6 1 = r := hw ▸ hi (hi (lo all_))
  have h5_1 : fld cw 5 1 = w := hw ▸ hi (lo all_)
  clear hw
  refine (show decodeControl cw = Decode.atom cw by unfold decodeControl; rw [h26_6]; rfl).trans ?_
  refine (show Decode.atom cw = Decode.need (fld cw 19 2 == 0) .unusedField (.ok (.atInc (fld cw 21 5) (fld cw 16 3) (fld cw 11 5) (fld cw 8 3) (fld cw 7 1) (fld cw 6 1) (fld cw 5 1))) by unfold Decode.atom; rw [h0_5]; rfl).trans ?_
  simp only [h19_2, h21_5, h16_3, h11_5, h8_3, h7_1, h6_1, h5_1]
  rfl

theorem Sys2Proof.Laws.RoundTrip.barInit (a : BitVec 3) (b : BitVec 5) (s : BitVec 3) : Statement (.barInit a b s) := by
  intro hwf
  refine control_back ?_
  obtain ⟨cw, hw⟩ : ∃ cw : Code, cw = 45#6 ++ 0#7 ++ a ++ b ++ s ++ 0#8 := ⟨_, rfl⟩
  rw [← hw]
  have h26_6 : fld cw 26 6 = 45#6 := hw ▸ hi (hi (hi (hi (hi rfl))))
  have h0_6 : fld cw 0 6 = 0#6 := hw ▸ lo rfl
  have h6_2 : fld cw 6 2 = 0#2 := hw ▸ lo rfl
  have h19_7 : fld cw 19 7 = 0#7 := hw ▸ hi (hi (hi (hi (lo rfl))))
  have h8_3 : fld cw 8 3 = s := hw ▸ hi (lo all_)
  have h16_3 : fld cw 16 3 = a := hw ▸ hi (hi (hi (lo all_)))
  have h11_5 : fld cw 11 5 = b := hw ▸ hi (hi (lo all_))
  clear hw
  refine (show decodeControl cw = Decode.bar cw by unfold decodeControl; rw [h26_6]; rfl).trans ?_
  refine (show Decode.bar cw = Decode.need (fld cw 6 2 == 0 && fld cw 19 7 == 0) .unusedField (Decode.need (Form.scope06 (fld cw 8 3)) .badScope (.ok (.barInit (fld cw 16 3) (fld cw 11 5) (fld cw 8 3)))) by unfold Decode.bar; rw [h0_6]; rfl).trans ?_
  simp only [h6_2, h19_7, h8_3, h16_3, h11_5]
  simp only [Instr.wf] at hwf
  simp_all [Decode.need]

theorem Sys2Proof.Laws.RoundTrip.barArrive (d : BitVec 5) (a : BitVec 3) (b : BitVec 5) (r : BitVec 1) : Statement (.barArrive d a b r) := by
  intro hwf
  refine control_back ?_
  obtain ⟨cw, hw⟩ : ∃ cw : Code, cw = 45#6 ++ d ++ 0#2 ++ a ++ b ++ 0#4 ++ r ++ 1#6 := ⟨_, rfl⟩
  rw [← hw]
  have h26_6 : fld cw 26 6 = 45#6 := hw ▸ hi (hi (hi (hi (hi (hi (hi rfl))))))
  have h0_6 : fld cw 0 6 = 1#6 := hw ▸ lo rfl
  have h7_4 : fld cw 7 4 = 0#4 := hw ▸ hi (hi (lo rfl))
  have h19_2 : fld cw 19 2 = 0#2 := hw ▸ hi (hi (hi (hi (hi (lo rfl)))))
  have h21_5 : fld cw 21 5 = d := hw ▸ hi (hi (hi (hi (hi (hi (lo all_))))))
  have h16_3 : fld cw 16 3 = a := hw ▸ hi (hi (hi (hi (lo all_))))
  have h11_5 : fld cw 11 5 = b := hw ▸ hi (hi (hi (lo all_)))
  have h6_1 : fld cw 6 1 = r := hw ▸ hi (lo all_)
  clear hw
  refine (show decodeControl cw = Decode.bar cw by unfold decodeControl; rw [h26_6]; rfl).trans ?_
  refine (show Decode.bar cw = Decode.need (fld cw 7 4 == 0 && fld cw 19 2 == 0) .unusedField (.ok (.barArrive (fld cw 21 5) (fld cw 16 3) (fld cw 11 5) (fld cw 6 1))) by unfold Decode.bar; rw [h0_6]; rfl).trans ?_
  simp only [h7_4, h19_2, h21_5, h16_3, h11_5, h6_1]
  rfl

theorem Sys2Proof.Laws.RoundTrip.barDrop (d : BitVec 5) (a : BitVec 3) (b : BitVec 5) (r : BitVec 1) : Statement (.barDrop d a b r) := by
  intro hwf
  refine control_back ?_
  obtain ⟨cw, hw⟩ : ∃ cw : Code, cw = 45#6 ++ d ++ 0#2 ++ a ++ b ++ 0#4 ++ r ++ 2#6 := ⟨_, rfl⟩
  rw [← hw]
  have h26_6 : fld cw 26 6 = 45#6 := hw ▸ hi (hi (hi (hi (hi (hi (hi rfl))))))
  have h0_6 : fld cw 0 6 = 2#6 := hw ▸ lo rfl
  have h7_4 : fld cw 7 4 = 0#4 := hw ▸ hi (hi (lo rfl))
  have h19_2 : fld cw 19 2 = 0#2 := hw ▸ hi (hi (hi (hi (hi (lo rfl)))))
  have h21_5 : fld cw 21 5 = d := hw ▸ hi (hi (hi (hi (hi (hi (lo all_))))))
  have h16_3 : fld cw 16 3 = a := hw ▸ hi (hi (hi (hi (lo all_))))
  have h11_5 : fld cw 11 5 = b := hw ▸ hi (hi (hi (lo all_)))
  have h6_1 : fld cw 6 1 = r := hw ▸ hi (lo all_)
  clear hw
  refine (show decodeControl cw = Decode.bar cw by unfold decodeControl; rw [h26_6]; rfl).trans ?_
  refine (show Decode.bar cw = Decode.need (fld cw 7 4 == 0 && fld cw 19 2 == 0) .unusedField (.ok (.barDrop (fld cw 21 5) (fld cw 16 3) (fld cw 11 5) (fld cw 6 1))) by unfold Decode.bar; rw [h0_6]; rfl).trans ?_
  simp only [h7_4, h19_2, h21_5, h16_3, h11_5, h6_1]
  rfl

theorem Sys2Proof.Laws.RoundTrip.barExpect (a : BitVec 3) (b : BitVec 5) : Statement (.barExpect a b) := by
  intro hwf
  refine control_back ?_
  obtain ⟨cw, hw⟩ : ∃ cw : Code, cw = 45#6 ++ 0#7 ++ a ++ b ++ 3#11 := ⟨_, rfl⟩
  rw [← hw]
  have h26_6 : fld cw 26 6 = 45#6 := hw ▸ hi (hi (hi (hi rfl)))
  have h0_6 : fld cw 0 6 = 3#6 := hw ▸ lo rfl
  have h6_5 : fld cw 6 5 = 0#5 := hw ▸ lo rfl
  have h19_7 : fld cw 19 7 = 0#7 := hw ▸ hi (hi (hi (lo rfl)))
  have h16_3 : fld cw 16 3 = a := hw ▸ hi (hi (lo all_))
  have h11_5 : fld cw 11 5 = b := hw ▸ hi (lo all_)
  clear hw
  refine (show decodeControl cw = Decode.bar cw by unfold decodeControl; rw [h26_6]; rfl).trans ?_
  refine (show Decode.bar cw = Decode.need (fld cw 6 5 == 0 && fld cw 19 7 == 0) .unusedField (.ok (.barExpect (fld cw 16 3) (fld cw 11 5))) by unfold Decode.bar; rw [h0_6]; rfl).trans ?_
  simp only [h6_5, h19_7, h16_3, h11_5]
  rfl

theorem Sys2Proof.Laws.RoundTrip.barWait (a : BitVec 3) (b : BitVec 5) (q : BitVec 1) : Statement (.barWait a b q) := by
  intro hwf
  refine control_back ?_
  obtain ⟨cw, hw⟩ : ∃ cw : Code, cw = 45#6 ++ 0#7 ++ a ++ b ++ 0#3 ++ q ++ 4#7 := ⟨_, rfl⟩
  rw [← hw]
  have h26_6 : fld cw 26 6 = 45#6 := hw ▸ hi (hi (hi (hi (hi (hi rfl)))))
  have h0_6 : fld cw 0 6 = 4#6 := hw ▸ lo rfl
  have h6_1 : fld cw 6 1 = 0#1 := hw ▸ lo rfl
  have h8_3 : fld cw 8 3 = 0#3 := hw ▸ hi (hi (lo rfl))
  have h19_7 : fld cw 19 7 = 0#7 := hw ▸ hi (hi (hi (hi (hi (lo rfl)))))
  have h16_3 : fld cw 16 3 = a := hw ▸ hi (hi (hi (hi (lo all_))))
  have h11_5 : fld cw 11 5 = b := hw ▸ hi (hi (hi (lo all_)))
  have h7_1 : fld cw 7 1 = q := hw ▸ hi (lo all_)
  clear hw
  refine (show decodeControl cw = Decode.bar cw by unfold decodeControl; rw [h26_6]; rfl).trans ?_
  refine (show Decode.bar cw = Decode.need (fld cw 6 1 == 0 && fld cw 8 3 == 0 && fld cw 19 7 == 0) .unusedField (.ok (.barWait (fld cw 16 3) (fld cw 11 5) (fld cw 7 1))) by unfold Decode.bar; rw [h0_6]; rfl).trans ?_
  simp only [h6_1, h8_3, h19_7, h16_3, h11_5, h7_1]
  rfl

theorem Sys2Proof.Laws.RoundTrip.barTest (d : BitVec 5) (a : BitVec 3) (b : BitVec 5) (q : BitVec 1) : Statement (.barTest d a b q) := by
  intro hwf
  refine control_back ?_
  obtain ⟨cw, hw⟩ : ∃ cw : Code, cw = 45#6 ++ d ++ 0#2 ++ a ++ b ++ 0#3 ++ q ++ 5#7 := ⟨_, rfl⟩
  rw [← hw]
  have h26_6 : fld cw 26 6 = 45#6 := hw ▸ hi (hi (hi (hi (hi (hi (hi rfl))))))
  have h0_6 : fld cw 0 6 = 5#6 := hw ▸ lo rfl
  have h6_1 : fld cw 6 1 = 0#1 := hw ▸ lo rfl
  have h8_3 : fld cw 8 3 = 0#3 := hw ▸ hi (hi (lo rfl))
  have h19_2 : fld cw 19 2 = 0#2 := hw ▸ hi (hi (hi (hi (hi (lo rfl)))))
  have h21_5 : fld cw 21 5 = d := hw ▸ hi (hi (hi (hi (hi (hi (lo all_))))))
  have h16_3 : fld cw 16 3 = a := hw ▸ hi (hi (hi (hi (lo all_))))
  have h11_5 : fld cw 11 5 = b := hw ▸ hi (hi (hi (lo all_)))
  have h7_1 : fld cw 7 1 = q := hw ▸ hi (lo all_)
  clear hw
  refine (show decodeControl cw = Decode.bar cw by unfold decodeControl; rw [h26_6]; rfl).trans ?_
  refine (show Decode.bar cw = Decode.need (fld cw 6 1 == 0 && fld cw 8 3 == 0 && fld cw 19 2 == 0) .unusedField (.ok (.barTest (fld cw 21 5) (fld cw 16 3) (fld cw 11 5) (fld cw 7 1))) by unfold Decode.bar; rw [h0_6]; rfl).trans ?_
  simp only [h6_1, h8_3, h19_2, h21_5, h16_3, h11_5, h7_1]
  rfl

theorem Sys2Proof.Laws.RoundTrip.snapOpen (d : BitVec 5) (a : BitVec 3) (b : BitVec 5) (s : BitVec 3) : Statement (.snapOpen d a b s) := by
  intro hwf
  refine control_back ?_
  obtain ⟨cw, hw⟩ : ∃ cw : Code, cw = 46#6 ++ d ++ 0#2 ++ a ++ b ++ s ++ 0#8 := ⟨_, rfl⟩
  rw [← hw]
  have h26_6 : fld cw 26 6 = 46#6 := hw ▸ hi (hi (hi (hi (hi (hi rfl)))))
  have h0_6 : fld cw 0 6 = 0#6 := hw ▸ lo rfl
  have h6_2 : fld cw 6 2 = 0#2 := hw ▸ lo rfl
  have h19_2 : fld cw 19 2 = 0#2 := hw ▸ hi (hi (hi (hi (lo rfl))))
  have h8_3 : fld cw 8 3 = s := hw ▸ hi (lo all_)
  have h21_5 : fld cw 21 5 = d := hw ▸ hi (hi (hi (hi (hi (lo all_)))))
  have h16_3 : fld cw 16 3 = a := hw ▸ hi (hi (hi (lo all_)))
  have h11_5 : fld cw 11 5 = b := hw ▸ hi (hi (lo all_))
  clear hw
  refine (show decodeControl cw = Decode.snap cw by unfold decodeControl; rw [h26_6]; rfl).trans ?_
  refine (show Decode.snap cw = Decode.need (fld cw 6 2 == 0 && fld cw 19 2 == 0) .unusedField (Decode.need (Form.scope06 (fld cw 8 3)) .badScope (.ok (.snapOpen (fld cw 21 5) (fld cw 16 3) (fld cw 11 5) (fld cw 8 3)))) by unfold Decode.snap; rw [h0_6]; rfl).trans ?_
  simp only [h6_2, h19_2, h8_3, h21_5, h16_3, h11_5]
  simp only [Instr.wf] at hwf
  simp_all [Decode.need]

theorem Sys2Proof.Laws.RoundTrip.snapAdd (d : BitVec 5) (a : BitVec 3) (b : BitVec 5) : Statement (.snapAdd d a b) := by
  intro hwf
  refine control_back ?_
  obtain ⟨cw, hw⟩ : ∃ cw : Code, cw = 46#6 ++ d ++ 0#2 ++ a ++ b ++ 1#11 := ⟨_, rfl⟩
  rw [← hw]
  have h26_6 : fld cw 26 6 = 46#6 := hw ▸ hi (hi (hi (hi (hi rfl))))
  have h0_6 : fld cw 0 6 = 1#6 := hw ▸ lo rfl
  have h6_5 : fld cw 6 5 = 0#5 := hw ▸ lo rfl
  have h19_2 : fld cw 19 2 = 0#2 := hw ▸ hi (hi (hi (lo rfl)))
  have h21_5 : fld cw 21 5 = d := hw ▸ hi (hi (hi (hi (lo all_))))
  have h16_3 : fld cw 16 3 = a := hw ▸ hi (hi (lo all_))
  have h11_5 : fld cw 11 5 = b := hw ▸ hi (lo all_)
  clear hw
  refine (show decodeControl cw = Decode.snap cw by unfold decodeControl; rw [h26_6]; rfl).trans ?_
  refine (show Decode.snap cw = Decode.need (fld cw 6 5 == 0 && fld cw 19 2 == 0) .unusedField (.ok (.snapAdd (fld cw 21 5) (fld cw 16 3) (fld cw 11 5))) by unfold Decode.snap; rw [h0_6]; rfl).trans ?_
  simp only [h6_5, h19_2, h21_5, h16_3, h11_5]
  rfl

theorem Sys2Proof.Laws.RoundTrip.snapKeep (d : BitVec 5) (a : BitVec 5) : Statement (.snapKeep d a) := by
  intro hwf
  refine control_back ?_
  obtain ⟨cw, hw⟩ : ∃ cw : Code, cw = 46#6 ++ d ++ a ++ 2#16 := ⟨_, rfl⟩
  rw [← hw]
  have h26_6 : fld cw 26 6 = 46#6 := hw ▸ hi (hi (hi rfl))
  have h0_6 : fld cw 0 6 = 2#6 := hw ▸ lo rfl
  have h6_10 : fld cw 6 10 = 0#10 := hw ▸ lo rfl
  have h21_5 : fld cw 21 5 = d := hw ▸ hi (hi (lo all_))
  have h16_5 : fld cw 16 5 = a := hw ▸ hi (lo all_)
  clear hw
  refine (show decodeControl cw = Decode.snap cw by unfold decodeControl; rw [h26_6]; rfl).trans ?_
  refine (show Decode.snap cw = Decode.need (fld cw 6 10 == 0) .unusedField (.ok (.snapKeep (fld cw 21 5) (fld cw 16 5))) by unfold Decode.snap; rw [h0_6]; rfl).trans ?_
  simp only [h6_10, h21_5, h16_5]
  rfl

theorem Sys2Proof.Laws.RoundTrip.snapDrop (d : BitVec 5) (a : BitVec 5) : Statement (.snapDrop d a) := by
  intro hwf
  refine control_back ?_
  obtain ⟨cw, hw⟩ : ∃ cw : Code, cw = 46#6 ++ d ++ a ++ 3#16 := ⟨_, rfl⟩
  rw [← hw]
  have h26_6 : fld cw 26 6 = 46#6 := hw ▸ hi (hi (hi rfl))
  have h0_6 : fld cw 0 6 = 3#6 := hw ▸ lo rfl
  have h6_10 : fld cw 6 10 = 0#10 := hw ▸ lo rfl
  have h21_5 : fld cw 21 5 = d := hw ▸ hi (hi (lo all_))
  have h16_5 : fld cw 16 5 = a := hw ▸ hi (lo all_)
  clear hw
  refine (show decodeControl cw = Decode.snap cw by unfold decodeControl; rw [h26_6]; rfl).trans ?_
  refine (show Decode.snap cw = Decode.need (fld cw 6 10 == 0) .unusedField (.ok (.snapDrop (fld cw 21 5) (fld cw 16 5))) by unfold Decode.snap; rw [h0_6]; rfl).trans ?_
  simp only [h6_10, h21_5, h16_5]
  rfl

theorem Sys2Proof.Laws.RoundTrip.snapQuery (d : BitVec 5) (a : BitVec 5) : Statement (.snapQuery d a) := by
  intro hwf
  refine control_back ?_
  obtain ⟨cw, hw⟩ : ∃ cw : Code, cw = 46#6 ++ d ++ a ++ 4#16 := ⟨_, rfl⟩
  rw [← hw]
  have h26_6 : fld cw 26 6 = 46#6 := hw ▸ hi (hi (hi rfl))
  have h0_6 : fld cw 0 6 = 4#6 := hw ▸ lo rfl
  have h6_10 : fld cw 6 10 = 0#10 := hw ▸ lo rfl
  have h21_5 : fld cw 21 5 = d := hw ▸ hi (hi (lo all_))
  have h16_5 : fld cw 16 5 = a := hw ▸ hi (lo all_)
  clear hw
  refine (show decodeControl cw = Decode.snap cw by unfold decodeControl; rw [h26_6]; rfl).trans ?_
  refine (show Decode.snap cw = Decode.need (fld cw 6 10 == 0) .unusedField (.ok (.snapQuery (fld cw 21 5) (fld cw 16 5))) by unfold Decode.snap; rw [h0_6]; rfl).trans ?_
  simp only [h6_10, h21_5, h16_5]
  rfl

theorem Sys2Proof.Laws.RoundTrip.tagLook (d : BitVec 5) (a : BitVec 5) (b : BitVec 3) : Statement (.tagLook d a b) := by
  intro hwf
  refine control_back ?_
  obtain ⟨cw, hw⟩ : ∃ cw : Code, cw = 47#6 ++ d ++ a ++ 0#2 ++ b ++ 0#11 := ⟨_, rfl⟩
  rw [← hw]
  have h26_6 : fld cw 26 6 = 47#6 := hw ▸ hi (hi (hi (hi (hi rfl))))
  have h0_6 : fld cw 0 6 = 0#6 := hw ▸ lo rfl
  have h6_5 : fld cw 6 5 = 0#5 := hw ▸ lo rfl
  have h14_2 : fld cw 14 2 = 0#2 := hw ▸ hi (hi (lo rfl))
  have h21_5 : fld cw 21 5 = d := hw ▸ hi (hi (hi (hi (lo all_))))
  have h16_5 : fld cw 16 5 = a := hw ▸ hi (hi (hi (lo all_)))
  have h11_3 : fld cw 11 3 = b := hw ▸ hi (lo all_)
  clear hw
  refine (show decodeControl cw = Decode.tag cw by unfold decodeControl; rw [h26_6]; rfl).trans ?_
  refine (show Decode.tag cw = Decode.need (fld cw 6 5 == 0 && fld cw 14 2 == 0) .unusedField (.ok (.tagLook (fld cw 21 5) (fld cw 16 5) (fld cw 11 3))) by unfold Decode.tag; rw [h0_6]; rfl).trans ?_
  simp only [h6_5, h14_2, h21_5, h16_5, h11_3]
  rfl

theorem Sys2Proof.Laws.RoundTrip.tagFill (d : BitVec 5) (a : BitVec 5) (b : BitVec 3) : Statement (.tagFill d a b) := by
  intro hwf
  refine control_back ?_
  obtain ⟨cw, hw⟩ : ∃ cw : Code, cw = 47#6 ++ d ++ a ++ 0#2 ++ b ++ 1#11 := ⟨_, rfl⟩
  rw [← hw]
  have h26_6 : fld cw 26 6 = 47#6 := hw ▸ hi (hi (hi (hi (hi rfl))))
  have h0_6 : fld cw 0 6 = 1#6 := hw ▸ lo rfl
  have h6_5 : fld cw 6 5 = 0#5 := hw ▸ lo rfl
  have h14_2 : fld cw 14 2 = 0#2 := hw ▸ hi (hi (lo rfl))
  have h21_5 : fld cw 21 5 = d := hw ▸ hi (hi (hi (hi (lo all_))))
  have h16_5 : fld cw 16 5 = a := hw ▸ hi (hi (hi (lo all_)))
  have h11_3 : fld cw 11 3 = b := hw ▸ hi (lo all_)
  clear hw
  refine (show decodeControl cw = Decode.tag cw by unfold decodeControl; rw [h26_6]; rfl).trans ?_
  refine (show Decode.tag cw = Decode.need (fld cw 6 5 == 0 && fld cw 14 2 == 0) .unusedField (.ok (.tagFill (fld cw 21 5) (fld cw 16 5) (fld cw 11 3))) by unfold Decode.tag; rw [h0_6]; rfl).trans ?_
  simp only [h6_5, h14_2, h21_5, h16_5, h11_3]
  rfl

theorem Sys2Proof.Laws.RoundTrip.tagEvict (d : BitVec 5) (a : BitVec 5) : Statement (.tagEvict d a) := by
  intro hwf
  refine control_back ?_
  obtain ⟨cw, hw⟩ : ∃ cw : Code, cw = 47#6 ++ d ++ a ++ 2#16 := ⟨_, rfl⟩
  rw [← hw]
  have h26_6 : fld cw 26 6 = 47#6 := hw ▸ hi (hi (hi rfl))
  have h0_6 : fld cw 0 6 = 2#6 := hw ▸ lo rfl
  have h6_10 : fld cw 6 10 = 0#10 := hw ▸ lo rfl
  have h21_5 : fld cw 21 5 = d := hw ▸ hi (hi (lo all_))
  have h16_5 : fld cw 16 5 = a := hw ▸ hi (lo all_)
  clear hw
  refine (show decodeControl cw = Decode.tag cw by unfold decodeControl; rw [h26_6]; rfl).trans ?_
  refine (show Decode.tag cw = Decode.need (fld cw 6 10 == 0) .unusedField (.ok (.tagEvict (fld cw 21 5) (fld cw 16 5))) by unfold Decode.tag; rw [h0_6]; rfl).trans ?_
  simp only [h6_10, h21_5, h16_5]
  rfl

theorem Sys2Proof.Laws.RoundTrip.tagClear (a : BitVec 5) : Statement (.tagClear a) := by
  intro hwf
  refine control_back ?_
  obtain ⟨cw, hw⟩ : ∃ cw : Code, cw = 47#6 ++ 0#5 ++ a ++ 3#16 := ⟨_, rfl⟩
  rw [← hw]
  have h26_6 : fld cw 26 6 = 47#6 := hw ▸ hi (hi (hi rfl))
  have h0_6 : fld cw 0 6 = 3#6 := hw ▸ lo rfl
  have h6_10 : fld cw 6 10 = 0#10 := hw ▸ lo rfl
  have h21_5 : fld cw 21 5 = 0#5 := hw ▸ hi (hi (lo rfl))
  have h16_5 : fld cw 16 5 = a := hw ▸ hi (lo all_)
  clear hw
  refine (show decodeControl cw = Decode.tag cw by unfold decodeControl; rw [h26_6]; rfl).trans ?_
  refine (show Decode.tag cw = Decode.need (fld cw 6 10 == 0 && fld cw 21 5 == 0) .unusedField (.ok (.tagClear (fld cw 16 5))) by unfold Decode.tag; rw [h0_6]; rfl).trans ?_
  simp only [h6_10, h21_5, h16_5]
  rfl

theorem Sys2Proof.Laws.RoundTrip.cpyLin (d : BitVec 5) (a : BitVec 3) (b : BitVec 5) (s : BitVec 3) (q : BitVec 1) (r : BitVec 1) : Statement (.cpyLin d a b s q r) := by
  intro hwf
  refine control_back ?_
  obtain ⟨cw, hw⟩ : ∃ cw : Code, cw = 48#6 ++ d ++ 0#2 ++ a ++ b ++ s ++ q ++ r ++ 0#6 := ⟨_, rfl⟩
  rw [← hw]
  have h26_6 : fld cw 26 6 = 48#6 := hw ▸ hi (hi (hi (hi (hi (hi (hi (hi rfl)))))))
  have h0_6 : fld cw 0 6 = 0#6 := hw ▸ lo rfl
  have h19_2 : fld cw 19 2 = 0#2 := hw ▸ hi (hi (hi (hi (hi (hi (lo rfl))))))
  have h21_5 : fld cw 21 5 = d := hw ▸ hi (hi (hi (hi (hi (hi (hi (lo all_)))))))
  have h16_3 : fld cw 16 3 = a := hw ▸ hi (hi (hi (hi (hi (lo all_)))))
  have h11_5 : fld cw 11 5 = b := hw ▸ hi (hi (hi (hi (lo all_))))
  have h8_3 : fld cw 8 3 = s := hw ▸ hi (hi (hi (lo all_)))
  have h7_1 : fld cw 7 1 = q := hw ▸ hi (hi (lo all_))
  have h6_1 : fld cw 6 1 = r := hw ▸ hi (lo all_)
  clear hw
  refine (show decodeControl cw = Decode.cpy cw by unfold decodeControl; rw [h26_6]; rfl).trans ?_
  refine (show Decode.cpy cw = Decode.need (fld cw 19 2 == 0) .unusedField (.ok (.cpyLin (fld cw 21 5) (fld cw 16 3) (fld cw 11 5) (fld cw 8 3) (fld cw 7 1) (fld cw 6 1))) by unfold Decode.cpy; rw [h0_6]; rfl).trans ?_
  simp only [h19_2, h21_5, h16_3, h11_5, h8_3, h7_1, h6_1]
  rfl

theorem Sys2Proof.Laws.RoundTrip.cpyTwo (d : BitVec 5) (a : BitVec 3) (b : BitVec 5) (s : BitVec 3) (q : BitVec 1) (r : BitVec 1) : Statement (.cpyTwo d a b s q r) := by
  intro hwf
  refine control_back ?_
  obtain ⟨cw, hw⟩ : ∃ cw : Code, cw = 48#6 ++ d ++ 0#2 ++ a ++ b ++ s ++ q ++ r ++ 1#6 := ⟨_, rfl⟩
  rw [← hw]
  have h26_6 : fld cw 26 6 = 48#6 := hw ▸ hi (hi (hi (hi (hi (hi (hi (hi rfl)))))))
  have h0_6 : fld cw 0 6 = 1#6 := hw ▸ lo rfl
  have h19_2 : fld cw 19 2 = 0#2 := hw ▸ hi (hi (hi (hi (hi (hi (lo rfl))))))
  have h21_5 : fld cw 21 5 = d := hw ▸ hi (hi (hi (hi (hi (hi (hi (lo all_)))))))
  have h16_3 : fld cw 16 3 = a := hw ▸ hi (hi (hi (hi (hi (lo all_)))))
  have h11_5 : fld cw 11 5 = b := hw ▸ hi (hi (hi (hi (lo all_))))
  have h8_3 : fld cw 8 3 = s := hw ▸ hi (hi (hi (lo all_)))
  have h7_1 : fld cw 7 1 = q := hw ▸ hi (hi (lo all_))
  have h6_1 : fld cw 6 1 = r := hw ▸ hi (lo all_)
  clear hw
  refine (show decodeControl cw = Decode.cpy cw by unfold decodeControl; rw [h26_6]; rfl).trans ?_
  refine (show Decode.cpy cw = Decode.need (fld cw 19 2 == 0) .unusedField (.ok (.cpyTwo (fld cw 21 5) (fld cw 16 3) (fld cw 11 5) (fld cw 8 3) (fld cw 7 1) (fld cw 6 1))) by unfold Decode.cpy; rw [h0_6]; rfl).trans ?_
  simp only [h19_2, h21_5, h16_3, h11_5, h8_3, h7_1, h6_1]
  rfl

theorem Sys2Proof.Laws.RoundTrip.cpyGather (d : BitVec 5) (a : BitVec 3) (b : BitVec 5) (s : BitVec 3) (q : BitVec 1) (r : BitVec 1) : Statement (.cpyGather d a b s q r) := by
  intro hwf
  refine control_back ?_
  obtain ⟨cw, hw⟩ : ∃ cw : Code, cw = 48#6 ++ d ++ 0#2 ++ a ++ b ++ s ++ q ++ r ++ 2#6 := ⟨_, rfl⟩
  rw [← hw]
  have h26_6 : fld cw 26 6 = 48#6 := hw ▸ hi (hi (hi (hi (hi (hi (hi (hi rfl)))))))
  have h0_6 : fld cw 0 6 = 2#6 := hw ▸ lo rfl
  have h19_2 : fld cw 19 2 = 0#2 := hw ▸ hi (hi (hi (hi (hi (hi (lo rfl))))))
  have h21_5 : fld cw 21 5 = d := hw ▸ hi (hi (hi (hi (hi (hi (hi (lo all_)))))))
  have h16_3 : fld cw 16 3 = a := hw ▸ hi (hi (hi (hi (hi (lo all_)))))
  have h11_5 : fld cw 11 5 = b := hw ▸ hi (hi (hi (hi (lo all_))))
  have h8_3 : fld cw 8 3 = s := hw ▸ hi (hi (hi (lo all_)))
  have h7_1 : fld cw 7 1 = q := hw ▸ hi (hi (lo all_))
  have h6_1 : fld cw 6 1 = r := hw ▸ hi (lo all_)
  clear hw
  refine (show decodeControl cw = Decode.cpy cw by unfold decodeControl; rw [h26_6]; rfl).trans ?_
  refine (show Decode.cpy cw = Decode.need (fld cw 19 2 == 0) .unusedField (.ok (.cpyGather (fld cw 21 5) (fld cw 16 3) (fld cw 11 5) (fld cw 8 3) (fld cw 7 1) (fld cw 6 1))) by unfold Decode.cpy; rw [h0_6]; rfl).trans ?_
  simp only [h19_2, h21_5, h16_3, h11_5, h8_3, h7_1, h6_1]
  rfl

theorem Sys2Proof.Laws.RoundTrip.cpyScatter (d : BitVec 5) (a : BitVec 3) (b : BitVec 5) (s : BitVec 3) (q : BitVec 1) (r : BitVec 1) : Statement (.cpyScatter d a b s q r) := by
  intro hwf
  refine control_back ?_
  obtain ⟨cw, hw⟩ : ∃ cw : Code, cw = 48#6 ++ d ++ 0#2 ++ a ++ b ++ s ++ q ++ r ++ 3#6 := ⟨_, rfl⟩
  rw [← hw]
  have h26_6 : fld cw 26 6 = 48#6 := hw ▸ hi (hi (hi (hi (hi (hi (hi (hi rfl)))))))
  have h0_6 : fld cw 0 6 = 3#6 := hw ▸ lo rfl
  have h19_2 : fld cw 19 2 = 0#2 := hw ▸ hi (hi (hi (hi (hi (hi (lo rfl))))))
  have h21_5 : fld cw 21 5 = d := hw ▸ hi (hi (hi (hi (hi (hi (hi (lo all_)))))))
  have h16_3 : fld cw 16 3 = a := hw ▸ hi (hi (hi (hi (hi (lo all_)))))
  have h11_5 : fld cw 11 5 = b := hw ▸ hi (hi (hi (hi (lo all_))))
  have h8_3 : fld cw 8 3 = s := hw ▸ hi (hi (hi (lo all_)))
  have h7_1 : fld cw 7 1 = q := hw ▸ hi (hi (lo all_))
  have h6_1 : fld cw 6 1 = r := hw ▸ hi (lo all_)
  clear hw
  refine (show decodeControl cw = Decode.cpy cw by unfold decodeControl; rw [h26_6]; rfl).trans ?_
  refine (show Decode.cpy cw = Decode.need (fld cw 19 2 == 0) .unusedField (.ok (.cpyScatter (fld cw 21 5) (fld cw 16 3) (fld cw 11 5) (fld cw 8 3) (fld cw 7 1) (fld cw 6 1))) by unfold Decode.cpy; rw [h0_6]; rfl).trans ?_
  simp only [h19_2, h21_5, h16_3, h11_5, h8_3, h7_1, h6_1]
  rfl

theorem Sys2Proof.Laws.RoundTrip.cpyFill (d : BitVec 5) (a : BitVec 3) (b : BitVec 5) (s : BitVec 3) (q : BitVec 1) (r : BitVec 1) : Statement (.cpyFill d a b s q r) := by
  intro hwf
  refine control_back ?_
  obtain ⟨cw, hw⟩ : ∃ cw : Code, cw = 48#6 ++ d ++ 0#2 ++ a ++ b ++ s ++ q ++ r ++ 4#6 := ⟨_, rfl⟩
  rw [← hw]
  have h26_6 : fld cw 26 6 = 48#6 := hw ▸ hi (hi (hi (hi (hi (hi (hi (hi rfl)))))))
  have h0_6 : fld cw 0 6 = 4#6 := hw ▸ lo rfl
  have h19_2 : fld cw 19 2 = 0#2 := hw ▸ hi (hi (hi (hi (hi (hi (lo rfl))))))
  have h21_5 : fld cw 21 5 = d := hw ▸ hi (hi (hi (hi (hi (hi (hi (lo all_)))))))
  have h16_3 : fld cw 16 3 = a := hw ▸ hi (hi (hi (hi (hi (lo all_)))))
  have h11_5 : fld cw 11 5 = b := hw ▸ hi (hi (hi (hi (lo all_))))
  have h8_3 : fld cw 8 3 = s := hw ▸ hi (hi (hi (lo all_)))
  have h7_1 : fld cw 7 1 = q := hw ▸ hi (hi (lo all_))
  have h6_1 : fld cw 6 1 = r := hw ▸ hi (lo all_)
  clear hw
  refine (show decodeControl cw = Decode.cpy cw by unfold decodeControl; rw [h26_6]; rfl).trans ?_
  refine (show Decode.cpy cw = Decode.need (fld cw 19 2 == 0) .unusedField (.ok (.cpyFill (fld cw 21 5) (fld cw 16 3) (fld cw 11 5) (fld cw 8 3) (fld cw 7 1) (fld cw 6 1))) by unfold Decode.cpy; rw [h0_6]; rfl).trans ?_
  simp only [h19_2, h21_5, h16_3, h11_5, h8_3, h7_1, h6_1]
  rfl

theorem Sys2Proof.Laws.RoundTrip.cpyWait (d : BitVec 5) (a : BitVec 5) : Statement (.cpyWait d a) := by
  intro hwf
  refine control_back ?_
  obtain ⟨cw, hw⟩ : ∃ cw : Code, cw = 48#6 ++ d ++ a ++ 5#16 := ⟨_, rfl⟩
  rw [← hw]
  have h26_6 : fld cw 26 6 = 48#6 := hw ▸ hi (hi (hi rfl))
  have h0_6 : fld cw 0 6 = 5#6 := hw ▸ lo rfl
  have h6_10 : fld cw 6 10 = 0#10 := hw ▸ lo rfl
  have h21_5 : fld cw 21 5 = d := hw ▸ hi (hi (lo all_))
  have h16_5 : fld cw 16 5 = a := hw ▸ hi (lo all_)
  clear hw
  refine (show decodeControl cw = Decode.cpy cw by unfold decodeControl; rw [h26_6]; rfl).trans ?_
  refine (show Decode.cpy cw = Decode.need (fld cw 6 10 == 0) .unusedField (.ok (.cpyWait (fld cw 21 5) (fld cw 16 5))) by unfold Decode.cpy; rw [h0_6]; rfl).trans ?_
  simp only [h6_10, h21_5, h16_5]
  rfl

theorem Sys2Proof.Laws.RoundTrip.cpyStat (d : BitVec 5) (a : BitVec 5) : Statement (.cpyStat d a) := by
  intro hwf
  refine control_back ?_
  obtain ⟨cw, hw⟩ : ∃ cw : Code, cw = 48#6 ++ d ++ a ++ 6#16 := ⟨_, rfl⟩
  rw [← hw]
  have h26_6 : fld cw 26 6 = 48#6 := hw ▸ hi (hi (hi rfl))
  have h0_6 : fld cw 0 6 = 6#6 := hw ▸ lo rfl
  have h6_10 : fld cw 6 10 = 0#10 := hw ▸ lo rfl
  have h21_5 : fld cw 21 5 = d := hw ▸ hi (hi (lo all_))
  have h16_5 : fld cw 16 5 = a := hw ▸ hi (lo all_)
  clear hw
  refine (show decodeControl cw = Decode.cpy cw by unfold decodeControl; rw [h26_6]; rfl).trans ?_
  refine (show Decode.cpy cw = Decode.need (fld cw 6 10 == 0) .unusedField (.ok (.cpyStat (fld cw 21 5) (fld cw 16 5))) by unfold Decode.cpy; rw [h0_6]; rfl).trans ?_
  simp only [h6_10, h21_5, h16_5]
  rfl

theorem Sys2Proof.Laws.RoundTrip.cbInit (d : BitVec 5) (a : BitVec 3) : Statement (.cbInit d a) := by
  intro hwf
  refine control_back ?_
  obtain ⟨cw, hw⟩ : ∃ cw : Code, cw = 49#6 ++ d ++ 0#2 ++ a ++ 0#16 := ⟨_, rfl⟩
  rw [← hw]
  have h26_6 : fld cw 26 6 = 49#6 := hw ▸ hi (hi (hi (hi rfl)))
  have h0_6 : fld cw 0 6 = 0#6 := hw ▸ lo rfl
  have h6_10 : fld cw 6 10 = 0#10 := hw ▸ lo rfl
  have h19_2 : fld cw 19 2 = 0#2 := hw ▸ hi (hi (lo rfl))
  have h21_5 : fld cw 21 5 = d := hw ▸ hi (hi (hi (lo all_)))
  have h16_3 : fld cw 16 3 = a := hw ▸ hi (lo all_)
  clear hw
  refine (show decodeControl cw = Decode.cb cw by unfold decodeControl; rw [h26_6]; rfl).trans ?_
  refine (show Decode.cb cw = Decode.need (fld cw 6 10 == 0 && fld cw 19 2 == 0) .unusedField (.ok (.cbInit (fld cw 21 5) (fld cw 16 3))) by unfold Decode.cb; rw [h0_6]; rfl).trans ?_
  simp only [h6_10, h19_2, h21_5, h16_3]
  rfl

theorem Sys2Proof.Laws.RoundTrip.cbPush (d : BitVec 5) (a : BitVec 3) (b : BitVec 5) (s : BitVec 3) (r : BitVec 1) : Statement (.cbPush d a b s r) := by
  intro hwf
  refine control_back ?_
  obtain ⟨cw, hw⟩ : ∃ cw : Code, cw = 49#6 ++ d ++ 0#2 ++ a ++ b ++ s ++ 0#1 ++ r ++ 1#6 := ⟨_, rfl⟩
  rw [← hw]
  have h26_6 : fld cw 26 6 = 49#6 := hw ▸ hi (hi (hi (hi (hi (hi (hi (hi rfl)))))))
  have h0_6 : fld cw 0 6 = 1#6 := hw ▸ lo rfl
  have h7_1 : fld cw 7 1 = 0#1 := hw ▸ hi (hi (lo rfl))
  have h19_2 : fld cw 19 2 = 0#2 := hw ▸ hi (hi (hi (hi (hi (hi (lo rfl))))))
  have h8_3 : fld cw 8 3 = s := hw ▸ hi (hi (hi (lo all_)))
  have h6_1 : fld cw 6 1 = r := hw ▸ hi (lo all_)
  have h21_5 : fld cw 21 5 = d := hw ▸ hi (hi (hi (hi (hi (hi (hi (lo all_)))))))
  have h16_3 : fld cw 16 3 = a := hw ▸ hi (hi (hi (hi (hi (lo all_)))))
  have h11_5 : fld cw 11 5 = b := hw ▸ hi (hi (hi (hi (lo all_))))
  clear hw
  refine (show decodeControl cw = Decode.cb cw by unfold decodeControl; rw [h26_6]; rfl).trans ?_
  refine (show Decode.cb cw = Decode.need (fld cw 7 1 == 0 && fld cw 19 2 == 0) .unusedField (Decode.need (Form.scopeOrd (fld cw 8 3) ((fld cw 6 1) == 1)) .badScope (.ok (.cbPush (fld cw 21 5) (fld cw 16 3) (fld cw 11 5) (fld cw 8 3) (fld cw 6 1)))) by unfold Decode.cb; rw [h0_6]; rfl).trans ?_
  simp only [h7_1, h19_2, h8_3, h6_1, h21_5, h16_3, h11_5]
  simp only [Instr.wf] at hwf
  simp_all [Decode.need]

theorem Sys2Proof.Laws.RoundTrip.cbPop (d : BitVec 5) (a : BitVec 3) (b : BitVec 5) (s : BitVec 3) (q : BitVec 1) : Statement (.cbPop d a b s q) := by
  intro hwf
  refine control_back ?_
  obtain ⟨cw, hw⟩ : ∃ cw : Code, cw = 49#6 ++ d ++ 0#2 ++ a ++ b ++ s ++ q ++ 2#7 := ⟨_, rfl⟩
  rw [← hw]
  have h26_6 : fld cw 26 6 = 49#6 := hw ▸ hi (hi (hi (hi (hi (hi (hi rfl))))))
  have h0_6 : fld cw 0 6 = 2#6 := hw ▸ lo rfl
  have h6_1 : fld cw 6 1 = 0#1 := hw ▸ lo rfl
  have h19_2 : fld cw 19 2 = 0#2 := hw ▸ hi (hi (hi (hi (hi (lo rfl)))))
  have h8_3 : fld cw 8 3 = s := hw ▸ hi (hi (lo all_))
  have h7_1 : fld cw 7 1 = q := hw ▸ hi (lo all_)
  have h21_5 : fld cw 21 5 = d := hw ▸ hi (hi (hi (hi (hi (hi (lo all_))))))
  have h16_3 : fld cw 16 3 = a := hw ▸ hi (hi (hi (hi (lo all_))))
  have h11_5 : fld cw 11 5 = b := hw ▸ hi (hi (hi (lo all_)))
  clear hw
  refine (show decodeControl cw = Decode.cb cw by unfold decodeControl; rw [h26_6]; rfl).trans ?_
  refine (show Decode.cb cw = Decode.need (fld cw 6 1 == 0 && fld cw 19 2 == 0) .unusedField (Decode.need (Form.scopeOrd (fld cw 8 3) ((fld cw 7 1) == 1)) .badScope (.ok (.cbPop (fld cw 21 5) (fld cw 16 3) (fld cw 11 5) (fld cw 8 3) (fld cw 7 1)))) by unfold Decode.cb; rw [h0_6]; rfl).trans ?_
  simp only [h6_1, h19_2, h8_3, h7_1, h21_5, h16_3, h11_5]
  simp only [Instr.wf] at hwf
  simp_all [Decode.need]

theorem Sys2Proof.Laws.RoundTrip.cbAvail (d : BitVec 5) (a : BitVec 3) : Statement (.cbAvail d a) := by
  intro hwf
  refine control_back ?_
  obtain ⟨cw, hw⟩ : ∃ cw : Code, cw = 49#6 ++ d ++ 0#2 ++ a ++ 3#16 := ⟨_, rfl⟩
  rw [← hw]
  have h26_6 : fld cw 26 6 = 49#6 := hw ▸ hi (hi (hi (hi rfl)))
  have h0_6 : fld cw 0 6 = 3#6 := hw ▸ lo rfl
  have h6_10 : fld cw 6 10 = 0#10 := hw ▸ lo rfl
  have h19_2 : fld cw 19 2 = 0#2 := hw ▸ hi (hi (lo rfl))
  have h21_5 : fld cw 21 5 = d := hw ▸ hi (hi (hi (lo all_)))
  have h16_3 : fld cw 16 3 = a := hw ▸ hi (lo all_)
  clear hw
  refine (show decodeControl cw = Decode.cb cw by unfold decodeControl; rw [h26_6]; rfl).trans ?_
  refine (show Decode.cb cw = Decode.need (fld cw 6 10 == 0 && fld cw 19 2 == 0) .unusedField (.ok (.cbAvail (fld cw 21 5) (fld cw 16 3))) by unfold Decode.cb; rw [h0_6]; rfl).trans ?_
  simp only [h6_10, h19_2, h21_5, h16_3]
  rfl

theorem Sys2Proof.Laws.RoundTrip.cbRoom (d : BitVec 5) (a : BitVec 3) : Statement (.cbRoom d a) := by
  intro hwf
  refine control_back ?_
  obtain ⟨cw, hw⟩ : ∃ cw : Code, cw = 49#6 ++ d ++ 0#2 ++ a ++ 4#16 := ⟨_, rfl⟩
  rw [← hw]
  have h26_6 : fld cw 26 6 = 49#6 := hw ▸ hi (hi (hi (hi rfl)))
  have h0_6 : fld cw 0 6 = 4#6 := hw ▸ lo rfl
  have h6_10 : fld cw 6 10 = 0#10 := hw ▸ lo rfl
  have h19_2 : fld cw 19 2 = 0#2 := hw ▸ hi (hi (lo rfl))
  have h21_5 : fld cw 21 5 = d := hw ▸ hi (hi (hi (lo all_)))
  have h16_3 : fld cw 16 3 = a := hw ▸ hi (lo all_)
  clear hw
  refine (show decodeControl cw = Decode.cb cw by unfold decodeControl; rw [h26_6]; rfl).trans ?_
  refine (show Decode.cb cw = Decode.need (fld cw 6 10 == 0 && fld cw 19 2 == 0) .unusedField (.ok (.cbRoom (fld cw 21 5) (fld cw 16 3))) by unfold Decode.cb; rw [h0_6]; rfl).trans ?_
  simp only [h6_10, h19_2, h21_5, h16_3]
  rfl

theorem Sys2Proof.Laws.RoundTrip.prsIssue (d : BitVec 5) (a : BitVec 5) (b : BitVec 5) (s : BitVec 3) (q : BitVec 1) (r : BitVec 1) : Statement (.prsIssue d a b s q r) := by
  intro hwf
  refine control_back ?_
  obtain ⟨cw, hw⟩ : ∃ cw : Code, cw = 50#6 ++ d ++ a ++ b ++ s ++ q ++ r ++ 0#6 := ⟨_, rfl⟩
  rw [← hw]
  have h26_6 : fld cw 26 6 = 50#6 := hw ▸ hi (hi (hi (hi (hi (hi (hi rfl))))))
  have h0_6 : fld cw 0 6 = 0#6 := hw ▸ lo rfl
  have h8_3 : fld cw 8 3 = s := hw ▸ hi (hi (hi (lo all_)))
  have h7_1 : fld cw 7 1 = q := hw ▸ hi (hi (lo all_))
  have h6_1 : fld cw 6 1 = r := hw ▸ hi (lo all_)
  have h21_5 : fld cw 21 5 = d := hw ▸ hi (hi (hi (hi (hi (hi (lo all_))))))
  have h16_5 : fld cw 16 5 = a := hw ▸ hi (hi (hi (hi (hi (lo all_)))))
  have h11_5 : fld cw 11 5 = b := hw ▸ hi (hi (hi (hi (lo all_))))
  clear hw
  refine (show decodeControl cw = Decode.prs cw by unfold decodeControl; rw [h26_6]; rfl).trans ?_
  refine (show Decode.prs cw = Decode.need (Form.scopeOrd (fld cw 8 3) ((fld cw 7 1) == 1 || (fld cw 6 1) == 1)) .badScope (.ok (.prsIssue (fld cw 21 5) (fld cw 16 5) (fld cw 11 5) (fld cw 8 3) (fld cw 7 1) (fld cw 6 1))) by unfold Decode.prs; rw [h0_6]; rfl).trans ?_
  simp only [h8_3, h7_1, h6_1, h21_5, h16_5, h11_5]
  simp only [Instr.wf] at hwf
  simp_all [Decode.need]

theorem Sys2Proof.Laws.RoundTrip.prsRead (d : BitVec 5) (a : BitVec 5) (b : BitVec 5) : Statement (.prsRead d a b) := by
  intro hwf
  refine control_back ?_
  obtain ⟨cw, hw⟩ : ∃ cw : Code, cw = 50#6 ++ d ++ a ++ b ++ 1#11 := ⟨_, rfl⟩
  rw [← hw]
  have h26_6 : fld cw 26 6 = 50#6 := hw ▸ hi (hi (hi (hi rfl)))
  have h0_6 : fld cw 0 6 = 1#6 := hw ▸ lo rfl
  have h6_5 : fld cw 6 5 = 0#5 := hw ▸ lo rfl
  have h21_5 : fld cw 21 5 = d := hw ▸ hi (hi (hi (lo all_)))
  have h16_5 : fld cw 16 5 = a := hw ▸ hi (hi (lo all_))
  have h11_5 : fld cw 11 5 = b := hw ▸ hi (lo all_)
  clear hw
  refine (show decodeControl cw = Decode.prs cw by unfold decodeControl; rw [h26_6]; rfl).trans ?_
  refine (show Decode.prs cw = Decode.need (fld cw 6 5 == 0) .unusedField (.ok (.prsRead (fld cw 21 5) (fld cw 16 5) (fld cw 11 5))) by unfold Decode.prs; rw [h0_6]; rfl).trans ?_
  simp only [h6_5, h21_5, h16_5, h11_5]
  rfl

theorem Sys2Proof.Laws.RoundTrip.flueExp2 (d : BitVec 5) (a : BitVec 5) : Statement (.flueExp2 d a) := by
  intro hwf
  refine control_back ?_
  obtain ⟨cw, hw⟩ : ∃ cw : Code, cw = 51#6 ++ d ++ a ++ 0#16 := ⟨_, rfl⟩
  rw [← hw]
  have h26_6 : fld cw 26 6 = 51#6 := hw ▸ hi (hi (hi rfl))
  have h0_6 : fld cw 0 6 = 0#6 := hw ▸ lo rfl
  have h6_10 : fld cw 6 10 = 0#10 := hw ▸ lo rfl
  have h21_5 : fld cw 21 5 = d := hw ▸ hi (hi (lo all_))
  have h16_5 : fld cw 16 5 = a := hw ▸ hi (lo all_)
  clear hw
  refine (show decodeControl cw = Decode.flue cw by unfold decodeControl; rw [h26_6]; rfl).trans ?_
  refine (show Decode.flue cw = Decode.need (fld cw 6 10 == 0) .unusedField (.ok (.flueExp2 (fld cw 21 5) (fld cw 16 5))) by unfold Decode.flue; rw [h0_6]; rfl).trans ?_
  simp only [h6_10, h21_5, h16_5]
  rfl

theorem Sys2Proof.Laws.RoundTrip.flueLog2 (d : BitVec 5) (a : BitVec 5) : Statement (.flueLog2 d a) := by
  intro hwf
  refine control_back ?_
  obtain ⟨cw, hw⟩ : ∃ cw : Code, cw = 51#6 ++ d ++ a ++ 1#16 := ⟨_, rfl⟩
  rw [← hw]
  have h26_6 : fld cw 26 6 = 51#6 := hw ▸ hi (hi (hi rfl))
  have h0_6 : fld cw 0 6 = 1#6 := hw ▸ lo rfl
  have h6_10 : fld cw 6 10 = 0#10 := hw ▸ lo rfl
  have h21_5 : fld cw 21 5 = d := hw ▸ hi (hi (lo all_))
  have h16_5 : fld cw 16 5 = a := hw ▸ hi (lo all_)
  clear hw
  refine (show decodeControl cw = Decode.flue cw by unfold decodeControl; rw [h26_6]; rfl).trans ?_
  refine (show Decode.flue cw = Decode.need (fld cw 6 10 == 0) .unusedField (.ok (.flueLog2 (fld cw 21 5) (fld cw 16 5))) by unfold Decode.flue; rw [h0_6]; rfl).trans ?_
  simp only [h6_10, h21_5, h16_5]
  rfl

theorem Sys2Proof.Laws.RoundTrip.flueRcp (d : BitVec 5) (a : BitVec 5) : Statement (.flueRcp d a) := by
  intro hwf
  refine control_back ?_
  obtain ⟨cw, hw⟩ : ∃ cw : Code, cw = 51#6 ++ d ++ a ++ 2#16 := ⟨_, rfl⟩
  rw [← hw]
  have h26_6 : fld cw 26 6 = 51#6 := hw ▸ hi (hi (hi rfl))
  have h0_6 : fld cw 0 6 = 2#6 := hw ▸ lo rfl
  have h6_10 : fld cw 6 10 = 0#10 := hw ▸ lo rfl
  have h21_5 : fld cw 21 5 = d := hw ▸ hi (hi (lo all_))
  have h16_5 : fld cw 16 5 = a := hw ▸ hi (lo all_)
  clear hw
  refine (show decodeControl cw = Decode.flue cw by unfold decodeControl; rw [h26_6]; rfl).trans ?_
  refine (show Decode.flue cw = Decode.need (fld cw 6 10 == 0) .unusedField (.ok (.flueRcp (fld cw 21 5) (fld cw 16 5))) by unfold Decode.flue; rw [h0_6]; rfl).trans ?_
  simp only [h6_10, h21_5, h16_5]
  rfl

theorem Sys2Proof.Laws.RoundTrip.flueRsqrt (d : BitVec 5) (a : BitVec 5) : Statement (.flueRsqrt d a) := by
  intro hwf
  refine control_back ?_
  obtain ⟨cw, hw⟩ : ∃ cw : Code, cw = 51#6 ++ d ++ a ++ 3#16 := ⟨_, rfl⟩
  rw [← hw]
  have h26_6 : fld cw 26 6 = 51#6 := hw ▸ hi (hi (hi rfl))
  have h0_6 : fld cw 0 6 = 3#6 := hw ▸ lo rfl
  have h6_10 : fld cw 6 10 = 0#10 := hw ▸ lo rfl
  have h21_5 : fld cw 21 5 = d := hw ▸ hi (hi (lo all_))
  have h16_5 : fld cw 16 5 = a := hw ▸ hi (lo all_)
  clear hw
  refine (show decodeControl cw = Decode.flue cw by unfold decodeControl; rw [h26_6]; rfl).trans ?_
  refine (show Decode.flue cw = Decode.need (fld cw 6 10 == 0) .unusedField (.ok (.flueRsqrt (fld cw 21 5) (fld cw 16 5))) by unfold Decode.flue; rw [h0_6]; rfl).trans ?_
  simp only [h6_10, h21_5, h16_5]
  rfl

theorem Sys2Proof.Laws.RoundTrip.flueSqrt (d : BitVec 5) (a : BitVec 5) : Statement (.flueSqrt d a) := by
  intro hwf
  refine control_back ?_
  obtain ⟨cw, hw⟩ : ∃ cw : Code, cw = 51#6 ++ d ++ a ++ 4#16 := ⟨_, rfl⟩
  rw [← hw]
  have h26_6 : fld cw 26 6 = 51#6 := hw ▸ hi (hi (hi rfl))
  have h0_6 : fld cw 0 6 = 4#6 := hw ▸ lo rfl
  have h6_10 : fld cw 6 10 = 0#10 := hw ▸ lo rfl
  have h21_5 : fld cw 21 5 = d := hw ▸ hi (hi (lo all_))
  have h16_5 : fld cw 16 5 = a := hw ▸ hi (lo all_)
  clear hw
  refine (show decodeControl cw = Decode.flue cw by unfold decodeControl; rw [h26_6]; rfl).trans ?_
  refine (show Decode.flue cw = Decode.need (fld cw 6 10 == 0) .unusedField (.ok (.flueSqrt (fld cw 21 5) (fld cw 16 5))) by unfold Decode.flue; rw [h0_6]; rfl).trans ?_
  simp only [h6_10, h21_5, h16_5]
  rfl

theorem Sys2Proof.Laws.RoundTrip.flueSinpi (d : BitVec 5) (a : BitVec 5) : Statement (.flueSinpi d a) := by
  intro hwf
  refine control_back ?_
  obtain ⟨cw, hw⟩ : ∃ cw : Code, cw = 51#6 ++ d ++ a ++ 5#16 := ⟨_, rfl⟩
  rw [← hw]
  have h26_6 : fld cw 26 6 = 51#6 := hw ▸ hi (hi (hi rfl))
  have h0_6 : fld cw 0 6 = 5#6 := hw ▸ lo rfl
  have h6_10 : fld cw 6 10 = 0#10 := hw ▸ lo rfl
  have h21_5 : fld cw 21 5 = d := hw ▸ hi (hi (lo all_))
  have h16_5 : fld cw 16 5 = a := hw ▸ hi (lo all_)
  clear hw
  refine (show decodeControl cw = Decode.flue cw by unfold decodeControl; rw [h26_6]; rfl).trans ?_
  refine (show Decode.flue cw = Decode.need (fld cw 6 10 == 0) .unusedField (.ok (.flueSinpi (fld cw 21 5) (fld cw 16 5))) by unfold Decode.flue; rw [h0_6]; rfl).trans ?_
  simp only [h6_10, h21_5, h16_5]
  rfl

theorem Sys2Proof.Laws.RoundTrip.flueCospi (d : BitVec 5) (a : BitVec 5) : Statement (.flueCospi d a) := by
  intro hwf
  refine control_back ?_
  obtain ⟨cw, hw⟩ : ∃ cw : Code, cw = 51#6 ++ d ++ a ++ 6#16 := ⟨_, rfl⟩
  rw [← hw]
  have h26_6 : fld cw 26 6 = 51#6 := hw ▸ hi (hi (hi rfl))
  have h0_6 : fld cw 0 6 = 6#6 := hw ▸ lo rfl
  have h6_10 : fld cw 6 10 = 0#10 := hw ▸ lo rfl
  have h21_5 : fld cw 21 5 = d := hw ▸ hi (hi (lo all_))
  have h16_5 : fld cw 16 5 = a := hw ▸ hi (lo all_)
  clear hw
  refine (show decodeControl cw = Decode.flue cw by unfold decodeControl; rw [h26_6]; rfl).trans ?_
  refine (show Decode.flue cw = Decode.need (fld cw 6 10 == 0) .unusedField (.ok (.flueCospi (fld cw 21 5) (fld cw 16 5))) by unfold Decode.flue; rw [h0_6]; rfl).trans ?_
  simp only [h6_10, h21_5, h16_5]
  rfl

theorem Sys2Proof.Laws.RoundTrip.flueTanh (d : BitVec 5) (a : BitVec 5) : Statement (.flueTanh d a) := by
  intro hwf
  refine control_back ?_
  obtain ⟨cw, hw⟩ : ∃ cw : Code, cw = 51#6 ++ d ++ a ++ 7#16 := ⟨_, rfl⟩
  rw [← hw]
  have h26_6 : fld cw 26 6 = 51#6 := hw ▸ hi (hi (hi rfl))
  have h0_6 : fld cw 0 6 = 7#6 := hw ▸ lo rfl
  have h6_10 : fld cw 6 10 = 0#10 := hw ▸ lo rfl
  have h21_5 : fld cw 21 5 = d := hw ▸ hi (hi (lo all_))
  have h16_5 : fld cw 16 5 = a := hw ▸ hi (lo all_)
  clear hw
  refine (show decodeControl cw = Decode.flue cw by unfold decodeControl; rw [h26_6]; rfl).trans ?_
  refine (show Decode.flue cw = Decode.need (fld cw 6 10 == 0) .unusedField (.ok (.flueTanh (fld cw 21 5) (fld cw 16 5))) by unfold Decode.flue; rw [h0_6]; rfl).trans ?_
  simp only [h6_10, h21_5, h16_5]
  rfl

theorem Sys2Proof.Laws.RoundTrip.flueSigm (d : BitVec 5) (a : BitVec 5) : Statement (.flueSigm d a) := by
  intro hwf
  refine control_back ?_
  obtain ⟨cw, hw⟩ : ∃ cw : Code, cw = 51#6 ++ d ++ a ++ 8#16 := ⟨_, rfl⟩
  rw [← hw]
  have h26_6 : fld cw 26 6 = 51#6 := hw ▸ hi (hi (hi rfl))
  have h0_6 : fld cw 0 6 = 8#6 := hw ▸ lo rfl
  have h6_10 : fld cw 6 10 = 0#10 := hw ▸ lo rfl
  have h21_5 : fld cw 21 5 = d := hw ▸ hi (hi (lo all_))
  have h16_5 : fld cw 16 5 = a := hw ▸ hi (lo all_)
  clear hw
  refine (show decodeControl cw = Decode.flue cw by unfold decodeControl; rw [h26_6]; rfl).trans ?_
  refine (show Decode.flue cw = Decode.need (fld cw 6 10 == 0) .unusedField (.ok (.flueSigm (fld cw 21 5) (fld cw 16 5))) by unfold Decode.flue; rw [h0_6]; rfl).trans ?_
  simp only [h6_10, h21_5, h16_5]
  rfl

theorem Sys2Proof.Laws.RoundTrip.rep (c : BitVec 6) (d : BitVec 1) (a : BitVec 1) (b : BitVec 1) (e : BitVec 2) (f : BitVec 2) (g : BitVec 2) : Statement (.rep c d a b e f g) := by
  intro hwf
  refine control_back ?_
  obtain ⟨cw, hw⟩ : ∃ cw : Code, cw = 62#6 ++ c ++ d ++ a ++ b ++ e ++ f ++ g ++ 0#11 := ⟨_, rfl⟩
  rw [← hw]
  have h26_6 : fld cw 26 6 = 62#6 := hw ▸ hi (hi (hi (hi (hi (hi (hi (hi rfl)))))))
  have h0_11 : fld cw 0 11 = 0#11 := hw ▸ lo rfl
  have h19_1 : fld cw 19 1 = d := hw ▸ hi (hi (hi (hi (hi (hi (lo all_))))))
  have h15_2 : fld cw 15 2 = e := hw ▸ hi (hi (hi (lo all_)))
  have h18_1 : fld cw 18 1 = a := hw ▸ hi (hi (hi (hi (hi (lo all_)))))
  have h13_2 : fld cw 13 2 = f := hw ▸ hi (hi (lo all_))
  have h17_1 : fld cw 17 1 = b := hw ▸ hi (hi (hi (hi (lo all_))))
  have h11_2 : fld cw 11 2 = g := hw ▸ hi (lo all_)
  have h20_6 : fld cw 20 6 = c := hw ▸ hi (hi (hi (hi (hi (hi (hi (lo all_)))))))
  clear hw
  refine (show decodeControl cw = Decode.need (fld cw 0 11 == 0) .unusedField (Decode.need (Form.strideOk (fld cw 19 1) (fld cw 15 2) && Form.strideOk (fld cw 18 1) (fld cw 13 2) && Form.strideOk (fld cw 17 1) (fld cw 11 2)) .badStride (.ok (.rep (fld cw 20 6) (fld cw 19 1) (fld cw 18 1) (fld cw 17 1) (fld cw 15 2) (fld cw 13 2) (fld cw 11 2)))) by unfold decodeControl; rw [h26_6]; rfl).trans ?_
  simp only [h0_11, h19_1, h15_2, h18_1, h13_2, h17_1, h11_2, h20_6]
  simp only [Instr.wf] at hwf
  simp_all [Decode.need]

theorem Sys2Proof.Laws.RoundTrip.elemNop (e : BitVec 1) : Statement (.elemNop e) := by
  intro hwf
  refine element_back ?_
  obtain ⟨cw, hw⟩ : ∃ cw : Code, cw = 0#7 ++ 0#16 ++ e ++ 0#8 := ⟨_, rfl⟩
  rw [← hw]
  have h25_7 : fld cw 25 7 = 0#7 := hw ▸ hi (hi (hi rfl))
  have h8_1 : fld cw 8 1 = e := hw ▸ hi (lo all_)
  have h22_3 : fld cw 22 3 = 0#3 := hw ▸ hi (hi (lo rfl))
  have h19_3 : fld cw 19 3 = 0#3 := hw ▸ hi (hi (lo rfl))
  have h16_3 : fld cw 16 3 = 0#3 := hw ▸ hi (hi (lo rfl))
  have h12_4 : fld cw 12 4 = 0#4 := hw ▸ hi (hi (lo rfl))
  have h10_2 : fld cw 10 2 = 0#2 := hw ▸ hi (hi (lo rfl))
  have h9_1 : fld cw 9 1 = 0#1 := hw ▸ hi (hi (lo rfl))
  have h0_8 : fld cw 0 8 = 0#8 := hw ▸ lo rfl
  clear hw
  refine (show decodeElement cw = Decode.elemIf cw 0x00 (.elemNop (fld cw 8 1)) by unfold decodeElement; rw [h25_7]; rfl).trans ?_
  refine (elem_ok ?_).trans ?_
  · simp only [h22_3, h19_3, h16_3, h12_4, h10_2, h9_1, h0_8]
    exact eq_of_beq hwf
  · simp only [h8_1]

theorem Sys2Proof.Laws.RoundTrip.elemAdd (a : BitVec 3) (b : BitVec 3) (d : BitVec 3) (t : BitVec 4) (s : BitVec 1) (e : BitVec 1) (p : BitVec 8) : Statement (.elemAdd a b d t s e p) := by
  intro hwf
  refine element_back ?_
  obtain ⟨cw, hw⟩ : ∃ cw : Code, cw = 1#7 ++ a ++ b ++ d ++ t ++ 0#2 ++ s ++ e ++ p := ⟨_, rfl⟩
  rw [← hw]
  have h25_7 : fld cw 25 7 = 1#7 := hw ▸ hi (hi (hi (hi (hi (hi (hi (hi rfl)))))))
  have h22_3 : fld cw 22 3 = a := hw ▸ hi (hi (hi (hi (hi (hi (hi (lo all_)))))))
  have h19_3 : fld cw 19 3 = b := hw ▸ hi (hi (hi (hi (hi (hi (lo all_))))))
  have h16_3 : fld cw 16 3 = d := hw ▸ hi (hi (hi (hi (hi (lo all_)))))
  have h12_4 : fld cw 12 4 = t := hw ▸ hi (hi (hi (hi (lo all_))))
  have h9_1 : fld cw 9 1 = s := hw ▸ hi (hi (lo all_))
  have h8_1 : fld cw 8 1 = e := hw ▸ hi (lo all_)
  have h0_8 : fld cw 0 8 = p := hw ▸ lo all_
  have h10_2 : fld cw 10 2 = 0#2 := hw ▸ hi (hi (hi (lo rfl)))
  clear hw
  refine (show decodeElement cw = Decode.elemIf cw 0x01 (.elemAdd (fld cw 22 3) (fld cw 19 3) (fld cw 16 3) (fld cw 12 4) (fld cw 9 1) (fld cw 8 1) (fld cw 0 8)) by unfold decodeElement; rw [h25_7]; rfl).trans ?_
  refine (elem_ok ?_).trans ?_
  · simp only [h22_3, h19_3, h16_3, h12_4, h10_2, h9_1, h0_8]
    exact eq_of_beq hwf
  · simp only [h22_3, h19_3, h16_3, h12_4, h9_1, h8_1, h0_8]

theorem Sys2Proof.Laws.RoundTrip.elemSub (a : BitVec 3) (b : BitVec 3) (d : BitVec 3) (t : BitVec 4) (s : BitVec 1) (e : BitVec 1) (p : BitVec 8) : Statement (.elemSub a b d t s e p) := by
  intro hwf
  refine element_back ?_
  obtain ⟨cw, hw⟩ : ∃ cw : Code, cw = 2#7 ++ a ++ b ++ d ++ t ++ 0#2 ++ s ++ e ++ p := ⟨_, rfl⟩
  rw [← hw]
  have h25_7 : fld cw 25 7 = 2#7 := hw ▸ hi (hi (hi (hi (hi (hi (hi (hi rfl)))))))
  have h22_3 : fld cw 22 3 = a := hw ▸ hi (hi (hi (hi (hi (hi (hi (lo all_)))))))
  have h19_3 : fld cw 19 3 = b := hw ▸ hi (hi (hi (hi (hi (hi (lo all_))))))
  have h16_3 : fld cw 16 3 = d := hw ▸ hi (hi (hi (hi (hi (lo all_)))))
  have h12_4 : fld cw 12 4 = t := hw ▸ hi (hi (hi (hi (lo all_))))
  have h9_1 : fld cw 9 1 = s := hw ▸ hi (hi (lo all_))
  have h8_1 : fld cw 8 1 = e := hw ▸ hi (lo all_)
  have h0_8 : fld cw 0 8 = p := hw ▸ lo all_
  have h10_2 : fld cw 10 2 = 0#2 := hw ▸ hi (hi (hi (lo rfl)))
  clear hw
  refine (show decodeElement cw = Decode.elemIf cw 0x02 (.elemSub (fld cw 22 3) (fld cw 19 3) (fld cw 16 3) (fld cw 12 4) (fld cw 9 1) (fld cw 8 1) (fld cw 0 8)) by unfold decodeElement; rw [h25_7]; rfl).trans ?_
  refine (elem_ok ?_).trans ?_
  · simp only [h22_3, h19_3, h16_3, h12_4, h10_2, h9_1, h0_8]
    exact eq_of_beq hwf
  · simp only [h22_3, h19_3, h16_3, h12_4, h9_1, h8_1, h0_8]

theorem Sys2Proof.Laws.RoundTrip.elemMul (a : BitVec 3) (b : BitVec 3) (d : BitVec 3) (t : BitVec 4) (s : BitVec 1) (e : BitVec 1) (p : BitVec 8) : Statement (.elemMul a b d t s e p) := by
  intro hwf
  refine element_back ?_
  obtain ⟨cw, hw⟩ : ∃ cw : Code, cw = 3#7 ++ a ++ b ++ d ++ t ++ 0#2 ++ s ++ e ++ p := ⟨_, rfl⟩
  rw [← hw]
  have h25_7 : fld cw 25 7 = 3#7 := hw ▸ hi (hi (hi (hi (hi (hi (hi (hi rfl)))))))
  have h22_3 : fld cw 22 3 = a := hw ▸ hi (hi (hi (hi (hi (hi (hi (lo all_)))))))
  have h19_3 : fld cw 19 3 = b := hw ▸ hi (hi (hi (hi (hi (hi (lo all_))))))
  have h16_3 : fld cw 16 3 = d := hw ▸ hi (hi (hi (hi (hi (lo all_)))))
  have h12_4 : fld cw 12 4 = t := hw ▸ hi (hi (hi (hi (lo all_))))
  have h9_1 : fld cw 9 1 = s := hw ▸ hi (hi (lo all_))
  have h8_1 : fld cw 8 1 = e := hw ▸ hi (lo all_)
  have h0_8 : fld cw 0 8 = p := hw ▸ lo all_
  have h10_2 : fld cw 10 2 = 0#2 := hw ▸ hi (hi (hi (lo rfl)))
  clear hw
  refine (show decodeElement cw = Decode.elemIf cw 0x03 (.elemMul (fld cw 22 3) (fld cw 19 3) (fld cw 16 3) (fld cw 12 4) (fld cw 9 1) (fld cw 8 1) (fld cw 0 8)) by unfold decodeElement; rw [h25_7]; rfl).trans ?_
  refine (elem_ok ?_).trans ?_
  · simp only [h22_3, h19_3, h16_3, h12_4, h10_2, h9_1, h0_8]
    exact eq_of_beq hwf
  · simp only [h22_3, h19_3, h16_3, h12_4, h9_1, h8_1, h0_8]

theorem Sys2Proof.Laws.RoundTrip.elemMulh (a : BitVec 3) (b : BitVec 3) (d : BitVec 3) (t : BitVec 4) (e : BitVec 1) (p : BitVec 8) : Statement (.elemMulh a b d t e p) := by
  intro hwf
  refine element_back ?_
  obtain ⟨cw, hw⟩ : ∃ cw : Code, cw = 4#7 ++ a ++ b ++ d ++ t ++ 0#3 ++ e ++ p := ⟨_, rfl⟩
  rw [← hw]
  have h25_7 : fld cw 25 7 = 4#7 := hw ▸ hi (hi (hi (hi (hi (hi (hi rfl))))))
  have h22_3 : fld cw 22 3 = a := hw ▸ hi (hi (hi (hi (hi (hi (lo all_))))))
  have h19_3 : fld cw 19 3 = b := hw ▸ hi (hi (hi (hi (hi (lo all_)))))
  have h16_3 : fld cw 16 3 = d := hw ▸ hi (hi (hi (hi (lo all_))))
  have h12_4 : fld cw 12 4 = t := hw ▸ hi (hi (hi (lo all_)))
  have h8_1 : fld cw 8 1 = e := hw ▸ hi (lo all_)
  have h0_8 : fld cw 0 8 = p := hw ▸ lo all_
  have h10_2 : fld cw 10 2 = 0#2 := hw ▸ hi (hi (lo rfl))
  have h9_1 : fld cw 9 1 = 0#1 := hw ▸ hi (hi (lo rfl))
  clear hw
  refine (show decodeElement cw = Decode.elemIf cw 0x04 (.elemMulh (fld cw 22 3) (fld cw 19 3) (fld cw 16 3) (fld cw 12 4) (fld cw 8 1) (fld cw 0 8)) by unfold decodeElement; rw [h25_7]; rfl).trans ?_
  refine (elem_ok ?_).trans ?_
  · simp only [h22_3, h19_3, h16_3, h12_4, h10_2, h9_1, h0_8]
    exact eq_of_beq hwf
  · simp only [h22_3, h19_3, h16_3, h12_4, h8_1, h0_8]

theorem Sys2Proof.Laws.RoundTrip.elemMac (a : BitVec 3) (b : BitVec 3) (d : BitVec 3) (t : BitVec 4) (s : BitVec 1) (e : BitVec 1) (p : BitVec 8) : Statement (.elemMac a b d t s e p) := by
  intro hwf
  refine element_back ?_
  obtain ⟨cw, hw⟩ : ∃ cw : Code, cw = 5#7 ++ a ++ b ++ d ++ t ++ 0#2 ++ s ++ e ++ p := ⟨_, rfl⟩
  rw [← hw]
  have h25_7 : fld cw 25 7 = 5#7 := hw ▸ hi (hi (hi (hi (hi (hi (hi (hi rfl)))))))
  have h22_3 : fld cw 22 3 = a := hw ▸ hi (hi (hi (hi (hi (hi (hi (lo all_)))))))
  have h19_3 : fld cw 19 3 = b := hw ▸ hi (hi (hi (hi (hi (hi (lo all_))))))
  have h16_3 : fld cw 16 3 = d := hw ▸ hi (hi (hi (hi (hi (lo all_)))))
  have h12_4 : fld cw 12 4 = t := hw ▸ hi (hi (hi (hi (lo all_))))
  have h9_1 : fld cw 9 1 = s := hw ▸ hi (hi (lo all_))
  have h8_1 : fld cw 8 1 = e := hw ▸ hi (lo all_)
  have h0_8 : fld cw 0 8 = p := hw ▸ lo all_
  have h10_2 : fld cw 10 2 = 0#2 := hw ▸ hi (hi (hi (lo rfl)))
  clear hw
  refine (show decodeElement cw = Decode.elemIf cw 0x05 (.elemMac (fld cw 22 3) (fld cw 19 3) (fld cw 16 3) (fld cw 12 4) (fld cw 9 1) (fld cw 8 1) (fld cw 0 8)) by unfold decodeElement; rw [h25_7]; rfl).trans ?_
  refine (elem_ok ?_).trans ?_
  · simp only [h22_3, h19_3, h16_3, h12_4, h10_2, h9_1, h0_8]
    exact eq_of_beq hwf
  · simp only [h22_3, h19_3, h16_3, h12_4, h9_1, h8_1, h0_8]

theorem Sys2Proof.Laws.RoundTrip.elemMin (a : BitVec 3) (b : BitVec 3) (d : BitVec 3) (t : BitVec 4) (e : BitVec 1) (p : BitVec 8) : Statement (.elemMin a b d t e p) := by
  intro hwf
  refine element_back ?_
  obtain ⟨cw, hw⟩ : ∃ cw : Code, cw = 6#7 ++ a ++ b ++ d ++ t ++ 0#3 ++ e ++ p := ⟨_, rfl⟩
  rw [← hw]
  have h25_7 : fld cw 25 7 = 6#7 := hw ▸ hi (hi (hi (hi (hi (hi (hi rfl))))))
  have h22_3 : fld cw 22 3 = a := hw ▸ hi (hi (hi (hi (hi (hi (lo all_))))))
  have h19_3 : fld cw 19 3 = b := hw ▸ hi (hi (hi (hi (hi (lo all_)))))
  have h16_3 : fld cw 16 3 = d := hw ▸ hi (hi (hi (hi (lo all_))))
  have h12_4 : fld cw 12 4 = t := hw ▸ hi (hi (hi (lo all_)))
  have h8_1 : fld cw 8 1 = e := hw ▸ hi (lo all_)
  have h0_8 : fld cw 0 8 = p := hw ▸ lo all_
  have h10_2 : fld cw 10 2 = 0#2 := hw ▸ hi (hi (lo rfl))
  have h9_1 : fld cw 9 1 = 0#1 := hw ▸ hi (hi (lo rfl))
  clear hw
  refine (show decodeElement cw = Decode.elemIf cw 0x06 (.elemMin (fld cw 22 3) (fld cw 19 3) (fld cw 16 3) (fld cw 12 4) (fld cw 8 1) (fld cw 0 8)) by unfold decodeElement; rw [h25_7]; rfl).trans ?_
  refine (elem_ok ?_).trans ?_
  · simp only [h22_3, h19_3, h16_3, h12_4, h10_2, h9_1, h0_8]
    exact eq_of_beq hwf
  · simp only [h22_3, h19_3, h16_3, h12_4, h8_1, h0_8]

theorem Sys2Proof.Laws.RoundTrip.elemMax (a : BitVec 3) (b : BitVec 3) (d : BitVec 3) (t : BitVec 4) (e : BitVec 1) (p : BitVec 8) : Statement (.elemMax a b d t e p) := by
  intro hwf
  refine element_back ?_
  obtain ⟨cw, hw⟩ : ∃ cw : Code, cw = 7#7 ++ a ++ b ++ d ++ t ++ 0#3 ++ e ++ p := ⟨_, rfl⟩
  rw [← hw]
  have h25_7 : fld cw 25 7 = 7#7 := hw ▸ hi (hi (hi (hi (hi (hi (hi rfl))))))
  have h22_3 : fld cw 22 3 = a := hw ▸ hi (hi (hi (hi (hi (hi (lo all_))))))
  have h19_3 : fld cw 19 3 = b := hw ▸ hi (hi (hi (hi (hi (lo all_)))))
  have h16_3 : fld cw 16 3 = d := hw ▸ hi (hi (hi (hi (lo all_))))
  have h12_4 : fld cw 12 4 = t := hw ▸ hi (hi (hi (lo all_)))
  have h8_1 : fld cw 8 1 = e := hw ▸ hi (lo all_)
  have h0_8 : fld cw 0 8 = p := hw ▸ lo all_
  have h10_2 : fld cw 10 2 = 0#2 := hw ▸ hi (hi (lo rfl))
  have h9_1 : fld cw 9 1 = 0#1 := hw ▸ hi (hi (lo rfl))
  clear hw
  refine (show decodeElement cw = Decode.elemIf cw 0x07 (.elemMax (fld cw 22 3) (fld cw 19 3) (fld cw 16 3) (fld cw 12 4) (fld cw 8 1) (fld cw 0 8)) by unfold decodeElement; rw [h25_7]; rfl).trans ?_
  refine (elem_ok ?_).trans ?_
  · simp only [h22_3, h19_3, h16_3, h12_4, h10_2, h9_1, h0_8]
    exact eq_of_beq hwf
  · simp only [h22_3, h19_3, h16_3, h12_4, h8_1, h0_8]

theorem Sys2Proof.Laws.RoundTrip.elemAbs (a : BitVec 3) (d : BitVec 3) (t : BitVec 4) (s : BitVec 1) (e : BitVec 1) (p : BitVec 8) : Statement (.elemAbs a d t s e p) := by
  intro hwf
  refine element_back ?_
  obtain ⟨cw, hw⟩ : ∃ cw : Code, cw = 8#7 ++ a ++ 0#3 ++ d ++ t ++ 0#2 ++ s ++ e ++ p := ⟨_, rfl⟩
  rw [← hw]
  have h25_7 : fld cw 25 7 = 8#7 := hw ▸ hi (hi (hi (hi (hi (hi (hi (hi rfl)))))))
  have h22_3 : fld cw 22 3 = a := hw ▸ hi (hi (hi (hi (hi (hi (hi (lo all_)))))))
  have h16_3 : fld cw 16 3 = d := hw ▸ hi (hi (hi (hi (hi (lo all_)))))
  have h12_4 : fld cw 12 4 = t := hw ▸ hi (hi (hi (hi (lo all_))))
  have h9_1 : fld cw 9 1 = s := hw ▸ hi (hi (lo all_))
  have h8_1 : fld cw 8 1 = e := hw ▸ hi (lo all_)
  have h0_8 : fld cw 0 8 = p := hw ▸ lo all_
  have h19_3 : fld cw 19 3 = 0#3 := hw ▸ hi (hi (hi (hi (hi (hi (lo rfl))))))
  have h10_2 : fld cw 10 2 = 0#2 := hw ▸ hi (hi (hi (lo rfl)))
  clear hw
  refine (show decodeElement cw = Decode.elemIf cw 0x08 (.elemAbs (fld cw 22 3) (fld cw 16 3) (fld cw 12 4) (fld cw 9 1) (fld cw 8 1) (fld cw 0 8)) by unfold decodeElement; rw [h25_7]; rfl).trans ?_
  refine (elem_ok ?_).trans ?_
  · simp only [h22_3, h19_3, h16_3, h12_4, h10_2, h9_1, h0_8]
    exact eq_of_beq hwf
  · simp only [h22_3, h16_3, h12_4, h9_1, h8_1, h0_8]

theorem Sys2Proof.Laws.RoundTrip.elemNeg (a : BitVec 3) (d : BitVec 3) (t : BitVec 4) (s : BitVec 1) (e : BitVec 1) (p : BitVec 8) : Statement (.elemNeg a d t s e p) := by
  intro hwf
  refine element_back ?_
  obtain ⟨cw, hw⟩ : ∃ cw : Code, cw = 9#7 ++ a ++ 0#3 ++ d ++ t ++ 0#2 ++ s ++ e ++ p := ⟨_, rfl⟩
  rw [← hw]
  have h25_7 : fld cw 25 7 = 9#7 := hw ▸ hi (hi (hi (hi (hi (hi (hi (hi rfl)))))))
  have h22_3 : fld cw 22 3 = a := hw ▸ hi (hi (hi (hi (hi (hi (hi (lo all_)))))))
  have h16_3 : fld cw 16 3 = d := hw ▸ hi (hi (hi (hi (hi (lo all_)))))
  have h12_4 : fld cw 12 4 = t := hw ▸ hi (hi (hi (hi (lo all_))))
  have h9_1 : fld cw 9 1 = s := hw ▸ hi (hi (lo all_))
  have h8_1 : fld cw 8 1 = e := hw ▸ hi (lo all_)
  have h0_8 : fld cw 0 8 = p := hw ▸ lo all_
  have h19_3 : fld cw 19 3 = 0#3 := hw ▸ hi (hi (hi (hi (hi (hi (lo rfl))))))
  have h10_2 : fld cw 10 2 = 0#2 := hw ▸ hi (hi (hi (lo rfl)))
  clear hw
  refine (show decodeElement cw = Decode.elemIf cw 0x09 (.elemNeg (fld cw 22 3) (fld cw 16 3) (fld cw 12 4) (fld cw 9 1) (fld cw 8 1) (fld cw 0 8)) by unfold decodeElement; rw [h25_7]; rfl).trans ?_
  refine (elem_ok ?_).trans ?_
  · simp only [h22_3, h19_3, h16_3, h12_4, h10_2, h9_1, h0_8]
    exact eq_of_beq hwf
  · simp only [h22_3, h16_3, h12_4, h9_1, h8_1, h0_8]

theorem Sys2Proof.Laws.RoundTrip.elemAnd (a : BitVec 3) (b : BitVec 3) (d : BitVec 3) (t : BitVec 4) (e : BitVec 1) (p : BitVec 8) : Statement (.elemAnd a b d t e p) := by
  intro hwf
  refine element_back ?_
  obtain ⟨cw, hw⟩ : ∃ cw : Code, cw = 10#7 ++ a ++ b ++ d ++ t ++ 0#3 ++ e ++ p := ⟨_, rfl⟩
  rw [← hw]
  have h25_7 : fld cw 25 7 = 10#7 := hw ▸ hi (hi (hi (hi (hi (hi (hi rfl))))))
  have h22_3 : fld cw 22 3 = a := hw ▸ hi (hi (hi (hi (hi (hi (lo all_))))))
  have h19_3 : fld cw 19 3 = b := hw ▸ hi (hi (hi (hi (hi (lo all_)))))
  have h16_3 : fld cw 16 3 = d := hw ▸ hi (hi (hi (hi (lo all_))))
  have h12_4 : fld cw 12 4 = t := hw ▸ hi (hi (hi (lo all_)))
  have h8_1 : fld cw 8 1 = e := hw ▸ hi (lo all_)
  have h0_8 : fld cw 0 8 = p := hw ▸ lo all_
  have h10_2 : fld cw 10 2 = 0#2 := hw ▸ hi (hi (lo rfl))
  have h9_1 : fld cw 9 1 = 0#1 := hw ▸ hi (hi (lo rfl))
  clear hw
  refine (show decodeElement cw = Decode.elemIf cw 0x0A (.elemAnd (fld cw 22 3) (fld cw 19 3) (fld cw 16 3) (fld cw 12 4) (fld cw 8 1) (fld cw 0 8)) by unfold decodeElement; rw [h25_7]; rfl).trans ?_
  refine (elem_ok ?_).trans ?_
  · simp only [h22_3, h19_3, h16_3, h12_4, h10_2, h9_1, h0_8]
    exact eq_of_beq hwf
  · simp only [h22_3, h19_3, h16_3, h12_4, h8_1, h0_8]

theorem Sys2Proof.Laws.RoundTrip.elemOr (a : BitVec 3) (b : BitVec 3) (d : BitVec 3) (t : BitVec 4) (e : BitVec 1) (p : BitVec 8) : Statement (.elemOr a b d t e p) := by
  intro hwf
  refine element_back ?_
  obtain ⟨cw, hw⟩ : ∃ cw : Code, cw = 11#7 ++ a ++ b ++ d ++ t ++ 0#3 ++ e ++ p := ⟨_, rfl⟩
  rw [← hw]
  have h25_7 : fld cw 25 7 = 11#7 := hw ▸ hi (hi (hi (hi (hi (hi (hi rfl))))))
  have h22_3 : fld cw 22 3 = a := hw ▸ hi (hi (hi (hi (hi (hi (lo all_))))))
  have h19_3 : fld cw 19 3 = b := hw ▸ hi (hi (hi (hi (hi (lo all_)))))
  have h16_3 : fld cw 16 3 = d := hw ▸ hi (hi (hi (hi (lo all_))))
  have h12_4 : fld cw 12 4 = t := hw ▸ hi (hi (hi (lo all_)))
  have h8_1 : fld cw 8 1 = e := hw ▸ hi (lo all_)
  have h0_8 : fld cw 0 8 = p := hw ▸ lo all_
  have h10_2 : fld cw 10 2 = 0#2 := hw ▸ hi (hi (lo rfl))
  have h9_1 : fld cw 9 1 = 0#1 := hw ▸ hi (hi (lo rfl))
  clear hw
  refine (show decodeElement cw = Decode.elemIf cw 0x0B (.elemOr (fld cw 22 3) (fld cw 19 3) (fld cw 16 3) (fld cw 12 4) (fld cw 8 1) (fld cw 0 8)) by unfold decodeElement; rw [h25_7]; rfl).trans ?_
  refine (elem_ok ?_).trans ?_
  · simp only [h22_3, h19_3, h16_3, h12_4, h10_2, h9_1, h0_8]
    exact eq_of_beq hwf
  · simp only [h22_3, h19_3, h16_3, h12_4, h8_1, h0_8]

theorem Sys2Proof.Laws.RoundTrip.elemXor (a : BitVec 3) (b : BitVec 3) (d : BitVec 3) (t : BitVec 4) (e : BitVec 1) (p : BitVec 8) : Statement (.elemXor a b d t e p) := by
  intro hwf
  refine element_back ?_
  obtain ⟨cw, hw⟩ : ∃ cw : Code, cw = 12#7 ++ a ++ b ++ d ++ t ++ 0#3 ++ e ++ p := ⟨_, rfl⟩
  rw [← hw]
  have h25_7 : fld cw 25 7 = 12#7 := hw ▸ hi (hi (hi (hi (hi (hi (hi rfl))))))
  have h22_3 : fld cw 22 3 = a := hw ▸ hi (hi (hi (hi (hi (hi (lo all_))))))
  have h19_3 : fld cw 19 3 = b := hw ▸ hi (hi (hi (hi (hi (lo all_)))))
  have h16_3 : fld cw 16 3 = d := hw ▸ hi (hi (hi (hi (lo all_))))
  have h12_4 : fld cw 12 4 = t := hw ▸ hi (hi (hi (lo all_)))
  have h8_1 : fld cw 8 1 = e := hw ▸ hi (lo all_)
  have h0_8 : fld cw 0 8 = p := hw ▸ lo all_
  have h10_2 : fld cw 10 2 = 0#2 := hw ▸ hi (hi (lo rfl))
  have h9_1 : fld cw 9 1 = 0#1 := hw ▸ hi (hi (lo rfl))
  clear hw
  refine (show decodeElement cw = Decode.elemIf cw 0x0C (.elemXor (fld cw 22 3) (fld cw 19 3) (fld cw 16 3) (fld cw 12 4) (fld cw 8 1) (fld cw 0 8)) by unfold decodeElement; rw [h25_7]; rfl).trans ?_
  refine (elem_ok ?_).trans ?_
  · simp only [h22_3, h19_3, h16_3, h12_4, h10_2, h9_1, h0_8]
    exact eq_of_beq hwf
  · simp only [h22_3, h19_3, h16_3, h12_4, h8_1, h0_8]

theorem Sys2Proof.Laws.RoundTrip.elemNot (a : BitVec 3) (d : BitVec 3) (t : BitVec 4) (e : BitVec 1) (p : BitVec 8) : Statement (.elemNot a d t e p) := by
  intro hwf
  refine element_back ?_
  obtain ⟨cw, hw⟩ : ∃ cw : Code, cw = 13#7 ++ a ++ 0#3 ++ d ++ t ++ 0#3 ++ e ++ p := ⟨_, rfl⟩
  rw [← hw]
  have h25_7 : fld cw 25 7 = 13#7 := hw ▸ hi (hi (hi (hi (hi (hi (hi rfl))))))
  have h22_3 : fld cw 22 3 = a := hw ▸ hi (hi (hi (hi (hi (hi (lo all_))))))
  have h16_3 : fld cw 16 3 = d := hw ▸ hi (hi (hi (hi (lo all_))))
  have h12_4 : fld cw 12 4 = t := hw ▸ hi (hi (hi (lo all_)))
  have h8_1 : fld cw 8 1 = e := hw ▸ hi (lo all_)
  have h0_8 : fld cw 0 8 = p := hw ▸ lo all_
  have h19_3 : fld cw 19 3 = 0#3 := hw ▸ hi (hi (hi (hi (hi (lo rfl)))))
  have h10_2 : fld cw 10 2 = 0#2 := hw ▸ hi (hi (lo rfl))
  have h9_1 : fld cw 9 1 = 0#1 := hw ▸ hi (hi (lo rfl))
  clear hw
  refine (show decodeElement cw = Decode.elemIf cw 0x0D (.elemNot (fld cw 22 3) (fld cw 16 3) (fld cw 12 4) (fld cw 8 1) (fld cw 0 8)) by unfold decodeElement; rw [h25_7]; rfl).trans ?_
  refine (elem_ok ?_).trans ?_
  · simp only [h22_3, h19_3, h16_3, h12_4, h10_2, h9_1, h0_8]
    exact eq_of_beq hwf
  · simp only [h22_3, h16_3, h12_4, h8_1, h0_8]

theorem Sys2Proof.Laws.RoundTrip.elemShl (a : BitVec 3) (b : BitVec 3) (d : BitVec 3) (t : BitVec 4) (s : BitVec 1) (e : BitVec 1) (p : BitVec 8) : Statement (.elemShl a b d t s e p) := by
  intro hwf
  refine element_back ?_
  obtain ⟨cw, hw⟩ : ∃ cw : Code, cw = 14#7 ++ a ++ b ++ d ++ t ++ 0#2 ++ s ++ e ++ p := ⟨_, rfl⟩
  rw [← hw]
  have h25_7 : fld cw 25 7 = 14#7 := hw ▸ hi (hi (hi (hi (hi (hi (hi (hi rfl)))))))
  have h22_3 : fld cw 22 3 = a := hw ▸ hi (hi (hi (hi (hi (hi (hi (lo all_)))))))
  have h19_3 : fld cw 19 3 = b := hw ▸ hi (hi (hi (hi (hi (hi (lo all_))))))
  have h16_3 : fld cw 16 3 = d := hw ▸ hi (hi (hi (hi (hi (lo all_)))))
  have h12_4 : fld cw 12 4 = t := hw ▸ hi (hi (hi (hi (lo all_))))
  have h9_1 : fld cw 9 1 = s := hw ▸ hi (hi (lo all_))
  have h8_1 : fld cw 8 1 = e := hw ▸ hi (lo all_)
  have h0_8 : fld cw 0 8 = p := hw ▸ lo all_
  have h10_2 : fld cw 10 2 = 0#2 := hw ▸ hi (hi (hi (lo rfl)))
  clear hw
  refine (show decodeElement cw = Decode.elemIf cw 0x0E (.elemShl (fld cw 22 3) (fld cw 19 3) (fld cw 16 3) (fld cw 12 4) (fld cw 9 1) (fld cw 8 1) (fld cw 0 8)) by unfold decodeElement; rw [h25_7]; rfl).trans ?_
  refine (elem_ok ?_).trans ?_
  · simp only [h22_3, h19_3, h16_3, h12_4, h10_2, h9_1, h0_8]
    exact eq_of_beq hwf
  · simp only [h22_3, h19_3, h16_3, h12_4, h9_1, h8_1, h0_8]

theorem Sys2Proof.Laws.RoundTrip.elemShr (a : BitVec 3) (b : BitVec 3) (d : BitVec 3) (t : BitVec 4) (e : BitVec 1) (p : BitVec 8) : Statement (.elemShr a b d t e p) := by
  intro hwf
  refine element_back ?_
  obtain ⟨cw, hw⟩ : ∃ cw : Code, cw = 15#7 ++ a ++ b ++ d ++ t ++ 0#3 ++ e ++ p := ⟨_, rfl⟩
  rw [← hw]
  have h25_7 : fld cw 25 7 = 15#7 := hw ▸ hi (hi (hi (hi (hi (hi (hi rfl))))))
  have h22_3 : fld cw 22 3 = a := hw ▸ hi (hi (hi (hi (hi (hi (lo all_))))))
  have h19_3 : fld cw 19 3 = b := hw ▸ hi (hi (hi (hi (hi (lo all_)))))
  have h16_3 : fld cw 16 3 = d := hw ▸ hi (hi (hi (hi (lo all_))))
  have h12_4 : fld cw 12 4 = t := hw ▸ hi (hi (hi (lo all_)))
  have h8_1 : fld cw 8 1 = e := hw ▸ hi (lo all_)
  have h0_8 : fld cw 0 8 = p := hw ▸ lo all_
  have h10_2 : fld cw 10 2 = 0#2 := hw ▸ hi (hi (lo rfl))
  have h9_1 : fld cw 9 1 = 0#1 := hw ▸ hi (hi (lo rfl))
  clear hw
  refine (show decodeElement cw = Decode.elemIf cw 0x0F (.elemShr (fld cw 22 3) (fld cw 19 3) (fld cw 16 3) (fld cw 12 4) (fld cw 8 1) (fld cw 0 8)) by unfold decodeElement; rw [h25_7]; rfl).trans ?_
  refine (elem_ok ?_).trans ?_
  · simp only [h22_3, h19_3, h16_3, h12_4, h10_2, h9_1, h0_8]
    exact eq_of_beq hwf
  · simp only [h22_3, h19_3, h16_3, h12_4, h8_1, h0_8]

theorem Sys2Proof.Laws.RoundTrip.elemSra (a : BitVec 3) (b : BitVec 3) (d : BitVec 3) (t : BitVec 4) (e : BitVec 1) (p : BitVec 8) : Statement (.elemSra a b d t e p) := by
  intro hwf
  refine element_back ?_
  obtain ⟨cw, hw⟩ : ∃ cw : Code, cw = 16#7 ++ a ++ b ++ d ++ t ++ 0#3 ++ e ++ p := ⟨_, rfl⟩
  rw [← hw]
  have h25_7 : fld cw 25 7 = 16#7 := hw ▸ hi (hi (hi (hi (hi (hi (hi rfl))))))
  have h22_3 : fld cw 22 3 = a := hw ▸ hi (hi (hi (hi (hi (hi (lo all_))))))
  have h19_3 : fld cw 19 3 = b := hw ▸ hi (hi (hi (hi (hi (lo all_)))))
  have h16_3 : fld cw 16 3 = d := hw ▸ hi (hi (hi (hi (lo all_))))
  have h12_4 : fld cw 12 4 = t := hw ▸ hi (hi (hi (lo all_)))
  have h8_1 : fld cw 8 1 = e := hw ▸ hi (lo all_)
  have h0_8 : fld cw 0 8 = p := hw ▸ lo all_
  have h10_2 : fld cw 10 2 = 0#2 := hw ▸ hi (hi (lo rfl))
  have h9_1 : fld cw 9 1 = 0#1 := hw ▸ hi (hi (lo rfl))
  clear hw
  refine (show decodeElement cw = Decode.elemIf cw 0x10 (.elemSra (fld cw 22 3) (fld cw 19 3) (fld cw 16 3) (fld cw 12 4) (fld cw 8 1) (fld cw 0 8)) by unfold decodeElement; rw [h25_7]; rfl).trans ?_
  refine (elem_ok ?_).trans ?_
  · simp only [h22_3, h19_3, h16_3, h12_4, h10_2, h9_1, h0_8]
    exact eq_of_beq hwf
  · simp only [h22_3, h19_3, h16_3, h12_4, h8_1, h0_8]

theorem Sys2Proof.Laws.RoundTrip.elemClz (a : BitVec 3) (d : BitVec 3) (t : BitVec 4) (e : BitVec 1) (p : BitVec 8) : Statement (.elemClz a d t e p) := by
  intro hwf
  refine element_back ?_
  obtain ⟨cw, hw⟩ : ∃ cw : Code, cw = 17#7 ++ a ++ 0#3 ++ d ++ t ++ 0#3 ++ e ++ p := ⟨_, rfl⟩
  rw [← hw]
  have h25_7 : fld cw 25 7 = 17#7 := hw ▸ hi (hi (hi (hi (hi (hi (hi rfl))))))
  have h22_3 : fld cw 22 3 = a := hw ▸ hi (hi (hi (hi (hi (hi (lo all_))))))
  have h16_3 : fld cw 16 3 = d := hw ▸ hi (hi (hi (hi (lo all_))))
  have h12_4 : fld cw 12 4 = t := hw ▸ hi (hi (hi (lo all_)))
  have h8_1 : fld cw 8 1 = e := hw ▸ hi (lo all_)
  have h0_8 : fld cw 0 8 = p := hw ▸ lo all_
  have h19_3 : fld cw 19 3 = 0#3 := hw ▸ hi (hi (hi (hi (hi (lo rfl)))))
  have h10_2 : fld cw 10 2 = 0#2 := hw ▸ hi (hi (lo rfl))
  have h9_1 : fld cw 9 1 = 0#1 := hw ▸ hi (hi (lo rfl))
  clear hw
  refine (show decodeElement cw = Decode.elemIf cw 0x11 (.elemClz (fld cw 22 3) (fld cw 16 3) (fld cw 12 4) (fld cw 8 1) (fld cw 0 8)) by unfold decodeElement; rw [h25_7]; rfl).trans ?_
  refine (elem_ok ?_).trans ?_
  · simp only [h22_3, h19_3, h16_3, h12_4, h10_2, h9_1, h0_8]
    exact eq_of_beq hwf
  · simp only [h22_3, h16_3, h12_4, h8_1, h0_8]

theorem Sys2Proof.Laws.RoundTrip.elemPopc (a : BitVec 3) (d : BitVec 3) (t : BitVec 4) (e : BitVec 1) (p : BitVec 8) : Statement (.elemPopc a d t e p) := by
  intro hwf
  refine element_back ?_
  obtain ⟨cw, hw⟩ : ∃ cw : Code, cw = 18#7 ++ a ++ 0#3 ++ d ++ t ++ 0#3 ++ e ++ p := ⟨_, rfl⟩
  rw [← hw]
  have h25_7 : fld cw 25 7 = 18#7 := hw ▸ hi (hi (hi (hi (hi (hi (hi rfl))))))
  have h22_3 : fld cw 22 3 = a := hw ▸ hi (hi (hi (hi (hi (hi (lo all_))))))
  have h16_3 : fld cw 16 3 = d := hw ▸ hi (hi (hi (hi (lo all_))))
  have h12_4 : fld cw 12 4 = t := hw ▸ hi (hi (hi (lo all_)))
  have h8_1 : fld cw 8 1 = e := hw ▸ hi (lo all_)
  have h0_8 : fld cw 0 8 = p := hw ▸ lo all_
  have h19_3 : fld cw 19 3 = 0#3 := hw ▸ hi (hi (hi (hi (hi (lo rfl)))))
  have h10_2 : fld cw 10 2 = 0#2 := hw ▸ hi (hi (lo rfl))
  have h9_1 : fld cw 9 1 = 0#1 := hw ▸ hi (hi (lo rfl))
  clear hw
  refine (show decodeElement cw = Decode.elemIf cw 0x12 (.elemPopc (fld cw 22 3) (fld cw 16 3) (fld cw 12 4) (fld cw 8 1) (fld cw 0 8)) by unfold decodeElement; rw [h25_7]; rfl).trans ?_
  refine (elem_ok ?_).trans ?_
  · simp only [h22_3, h19_3, h16_3, h12_4, h10_2, h9_1, h0_8]
    exact eq_of_beq hwf
  · simp only [h22_3, h16_3, h12_4, h8_1, h0_8]

theorem Sys2Proof.Laws.RoundTrip.elemFadd (a : BitVec 3) (b : BitVec 3) (d : BitVec 3) (t : BitVec 4) (r : BitVec 2) (s : BitVec 1) (e : BitVec 1) (p : BitVec 8) : Statement (.elemFadd a b d t r s e p) := by
  intro hwf
  refine element_back ?_
  obtain ⟨cw, hw⟩ : ∃ cw : Code, cw = 24#7 ++ a ++ b ++ d ++ t ++ r ++ s ++ e ++ p := ⟨_, rfl⟩
  rw [← hw]
  have h25_7 : fld cw 25 7 = 24#7 := hw ▸ hi (hi (hi (hi (hi (hi (hi (hi rfl)))))))
  have h22_3 : fld cw 22 3 = a := hw ▸ hi (hi (hi (hi (hi (hi (hi (lo all_)))))))
  have h19_3 : fld cw 19 3 = b := hw ▸ hi (hi (hi (hi (hi (hi (lo all_))))))
  have h16_3 : fld cw 16 3 = d := hw ▸ hi (hi (hi (hi (hi (lo all_)))))
  have h12_4 : fld cw 12 4 = t := hw ▸ hi (hi (hi (hi (lo all_))))
  have h10_2 : fld cw 10 2 = r := hw ▸ hi (hi (hi (lo all_)))
  have h9_1 : fld cw 9 1 = s := hw ▸ hi (hi (lo all_))
  have h8_1 : fld cw 8 1 = e := hw ▸ hi (lo all_)
  have h0_8 : fld cw 0 8 = p := hw ▸ lo all_
  clear hw
  refine (show decodeElement cw = Decode.elemIf cw 0x18 (.elemFadd (fld cw 22 3) (fld cw 19 3) (fld cw 16 3) (fld cw 12 4) (fld cw 10 2) (fld cw 9 1) (fld cw 8 1) (fld cw 0 8)) by unfold decodeElement; rw [h25_7]; rfl).trans ?_
  refine (elem_ok ?_).trans ?_
  · simp only [h22_3, h19_3, h16_3, h12_4, h10_2, h9_1, h0_8]
    exact eq_of_beq hwf
  · simp only [h22_3, h19_3, h16_3, h12_4, h10_2, h9_1, h8_1, h0_8]

theorem Sys2Proof.Laws.RoundTrip.elemFsub (a : BitVec 3) (b : BitVec 3) (d : BitVec 3) (t : BitVec 4) (r : BitVec 2) (s : BitVec 1) (e : BitVec 1) (p : BitVec 8) : Statement (.elemFsub a b d t r s e p) := by
  intro hwf
  refine element_back ?_
  obtain ⟨cw, hw⟩ : ∃ cw : Code, cw = 25#7 ++ a ++ b ++ d ++ t ++ r ++ s ++ e ++ p := ⟨_, rfl⟩
  rw [← hw]
  have h25_7 : fld cw 25 7 = 25#7 := hw ▸ hi (hi (hi (hi (hi (hi (hi (hi rfl)))))))
  have h22_3 : fld cw 22 3 = a := hw ▸ hi (hi (hi (hi (hi (hi (hi (lo all_)))))))
  have h19_3 : fld cw 19 3 = b := hw ▸ hi (hi (hi (hi (hi (hi (lo all_))))))
  have h16_3 : fld cw 16 3 = d := hw ▸ hi (hi (hi (hi (hi (lo all_)))))
  have h12_4 : fld cw 12 4 = t := hw ▸ hi (hi (hi (hi (lo all_))))
  have h10_2 : fld cw 10 2 = r := hw ▸ hi (hi (hi (lo all_)))
  have h9_1 : fld cw 9 1 = s := hw ▸ hi (hi (lo all_))
  have h8_1 : fld cw 8 1 = e := hw ▸ hi (lo all_)
  have h0_8 : fld cw 0 8 = p := hw ▸ lo all_
  clear hw
  refine (show decodeElement cw = Decode.elemIf cw 0x19 (.elemFsub (fld cw 22 3) (fld cw 19 3) (fld cw 16 3) (fld cw 12 4) (fld cw 10 2) (fld cw 9 1) (fld cw 8 1) (fld cw 0 8)) by unfold decodeElement; rw [h25_7]; rfl).trans ?_
  refine (elem_ok ?_).trans ?_
  · simp only [h22_3, h19_3, h16_3, h12_4, h10_2, h9_1, h0_8]
    exact eq_of_beq hwf
  · simp only [h22_3, h19_3, h16_3, h12_4, h10_2, h9_1, h8_1, h0_8]

theorem Sys2Proof.Laws.RoundTrip.elemFmul (a : BitVec 3) (b : BitVec 3) (d : BitVec 3) (t : BitVec 4) (r : BitVec 2) (s : BitVec 1) (e : BitVec 1) (p : BitVec 8) : Statement (.elemFmul a b d t r s e p) := by
  intro hwf
  refine element_back ?_
  obtain ⟨cw, hw⟩ : ∃ cw : Code, cw = 26#7 ++ a ++ b ++ d ++ t ++ r ++ s ++ e ++ p := ⟨_, rfl⟩
  rw [← hw]
  have h25_7 : fld cw 25 7 = 26#7 := hw ▸ hi (hi (hi (hi (hi (hi (hi (hi rfl)))))))
  have h22_3 : fld cw 22 3 = a := hw ▸ hi (hi (hi (hi (hi (hi (hi (lo all_)))))))
  have h19_3 : fld cw 19 3 = b := hw ▸ hi (hi (hi (hi (hi (hi (lo all_))))))
  have h16_3 : fld cw 16 3 = d := hw ▸ hi (hi (hi (hi (hi (lo all_)))))
  have h12_4 : fld cw 12 4 = t := hw ▸ hi (hi (hi (hi (lo all_))))
  have h10_2 : fld cw 10 2 = r := hw ▸ hi (hi (hi (lo all_)))
  have h9_1 : fld cw 9 1 = s := hw ▸ hi (hi (lo all_))
  have h8_1 : fld cw 8 1 = e := hw ▸ hi (lo all_)
  have h0_8 : fld cw 0 8 = p := hw ▸ lo all_
  clear hw
  refine (show decodeElement cw = Decode.elemIf cw 0x1A (.elemFmul (fld cw 22 3) (fld cw 19 3) (fld cw 16 3) (fld cw 12 4) (fld cw 10 2) (fld cw 9 1) (fld cw 8 1) (fld cw 0 8)) by unfold decodeElement; rw [h25_7]; rfl).trans ?_
  refine (elem_ok ?_).trans ?_
  · simp only [h22_3, h19_3, h16_3, h12_4, h10_2, h9_1, h0_8]
    exact eq_of_beq hwf
  · simp only [h22_3, h19_3, h16_3, h12_4, h10_2, h9_1, h8_1, h0_8]

theorem Sys2Proof.Laws.RoundTrip.elemFfma (a : BitVec 3) (b : BitVec 3) (d : BitVec 3) (t : BitVec 4) (r : BitVec 2) (s : BitVec 1) (e : BitVec 1) (p : BitVec 8) : Statement (.elemFfma a b d t r s e p) := by
  intro hwf
  refine element_back ?_
  obtain ⟨cw, hw⟩ : ∃ cw : Code, cw = 27#7 ++ a ++ b ++ d ++ t ++ r ++ s ++ e ++ p := ⟨_, rfl⟩
  rw [← hw]
  have h25_7 : fld cw 25 7 = 27#7 := hw ▸ hi (hi (hi (hi (hi (hi (hi (hi rfl)))))))
  have h22_3 : fld cw 22 3 = a := hw ▸ hi (hi (hi (hi (hi (hi (hi (lo all_)))))))
  have h19_3 : fld cw 19 3 = b := hw ▸ hi (hi (hi (hi (hi (hi (lo all_))))))
  have h16_3 : fld cw 16 3 = d := hw ▸ hi (hi (hi (hi (hi (lo all_)))))
  have h12_4 : fld cw 12 4 = t := hw ▸ hi (hi (hi (hi (lo all_))))
  have h10_2 : fld cw 10 2 = r := hw ▸ hi (hi (hi (lo all_)))
  have h9_1 : fld cw 9 1 = s := hw ▸ hi (hi (lo all_))
  have h8_1 : fld cw 8 1 = e := hw ▸ hi (lo all_)
  have h0_8 : fld cw 0 8 = p := hw ▸ lo all_
  clear hw
  refine (show decodeElement cw = Decode.elemIf cw 0x1B (.elemFfma (fld cw 22 3) (fld cw 19 3) (fld cw 16 3) (fld cw 12 4) (fld cw 10 2) (fld cw 9 1) (fld cw 8 1) (fld cw 0 8)) by unfold decodeElement; rw [h25_7]; rfl).trans ?_
  refine (elem_ok ?_).trans ?_
  · simp only [h22_3, h19_3, h16_3, h12_4, h10_2, h9_1, h0_8]
    exact eq_of_beq hwf
  · simp only [h22_3, h19_3, h16_3, h12_4, h10_2, h9_1, h8_1, h0_8]

theorem Sys2Proof.Laws.RoundTrip.elemFmin (a : BitVec 3) (b : BitVec 3) (d : BitVec 3) (t : BitVec 4) (r : BitVec 2) (s : BitVec 1) (e : BitVec 1) (p : BitVec 8) : Statement (.elemFmin a b d t r s e p) := by
  intro hwf
  refine element_back ?_
  obtain ⟨cw, hw⟩ : ∃ cw : Code, cw = 28#7 ++ a ++ b ++ d ++ t ++ r ++ s ++ e ++ p := ⟨_, rfl⟩
  rw [← hw]
  have h25_7 : fld cw 25 7 = 28#7 := hw ▸ hi (hi (hi (hi (hi (hi (hi (hi rfl)))))))
  have h22_3 : fld cw 22 3 = a := hw ▸ hi (hi (hi (hi (hi (hi (hi (lo all_)))))))
  have h19_3 : fld cw 19 3 = b := hw ▸ hi (hi (hi (hi (hi (hi (lo all_))))))
  have h16_3 : fld cw 16 3 = d := hw ▸ hi (hi (hi (hi (hi (lo all_)))))
  have h12_4 : fld cw 12 4 = t := hw ▸ hi (hi (hi (hi (lo all_))))
  have h10_2 : fld cw 10 2 = r := hw ▸ hi (hi (hi (lo all_)))
  have h9_1 : fld cw 9 1 = s := hw ▸ hi (hi (lo all_))
  have h8_1 : fld cw 8 1 = e := hw ▸ hi (lo all_)
  have h0_8 : fld cw 0 8 = p := hw ▸ lo all_
  clear hw
  refine (show decodeElement cw = Decode.elemIf cw 0x1C (.elemFmin (fld cw 22 3) (fld cw 19 3) (fld cw 16 3) (fld cw 12 4) (fld cw 10 2) (fld cw 9 1) (fld cw 8 1) (fld cw 0 8)) by unfold decodeElement; rw [h25_7]; rfl).trans ?_
  refine (elem_ok ?_).trans ?_
  · simp only [h22_3, h19_3, h16_3, h12_4, h10_2, h9_1, h0_8]
    exact eq_of_beq hwf
  · simp only [h22_3, h19_3, h16_3, h12_4, h10_2, h9_1, h8_1, h0_8]

theorem Sys2Proof.Laws.RoundTrip.elemFmax (a : BitVec 3) (b : BitVec 3) (d : BitVec 3) (t : BitVec 4) (r : BitVec 2) (s : BitVec 1) (e : BitVec 1) (p : BitVec 8) : Statement (.elemFmax a b d t r s e p) := by
  intro hwf
  refine element_back ?_
  obtain ⟨cw, hw⟩ : ∃ cw : Code, cw = 29#7 ++ a ++ b ++ d ++ t ++ r ++ s ++ e ++ p := ⟨_, rfl⟩
  rw [← hw]
  have h25_7 : fld cw 25 7 = 29#7 := hw ▸ hi (hi (hi (hi (hi (hi (hi (hi rfl)))))))
  have h22_3 : fld cw 22 3 = a := hw ▸ hi (hi (hi (hi (hi (hi (hi (lo all_)))))))
  have h19_3 : fld cw 19 3 = b := hw ▸ hi (hi (hi (hi (hi (hi (lo all_))))))
  have h16_3 : fld cw 16 3 = d := hw ▸ hi (hi (hi (hi (hi (lo all_)))))
  have h12_4 : fld cw 12 4 = t := hw ▸ hi (hi (hi (hi (lo all_))))
  have h10_2 : fld cw 10 2 = r := hw ▸ hi (hi (hi (lo all_)))
  have h9_1 : fld cw 9 1 = s := hw ▸ hi (hi (lo all_))
  have h8_1 : fld cw 8 1 = e := hw ▸ hi (lo all_)
  have h0_8 : fld cw 0 8 = p := hw ▸ lo all_
  clear hw
  refine (show decodeElement cw = Decode.elemIf cw 0x1D (.elemFmax (fld cw 22 3) (fld cw 19 3) (fld cw 16 3) (fld cw 12 4) (fld cw 10 2) (fld cw 9 1) (fld cw 8 1) (fld cw 0 8)) by unfold decodeElement; rw [h25_7]; rfl).trans ?_
  refine (elem_ok ?_).trans ?_
  · simp only [h22_3, h19_3, h16_3, h12_4, h10_2, h9_1, h0_8]
    exact eq_of_beq hwf
  · simp only [h22_3, h19_3, h16_3, h12_4, h10_2, h9_1, h8_1, h0_8]

theorem Sys2Proof.Laws.RoundTrip.elemFabs (a : BitVec 3) (d : BitVec 3) (t : BitVec 4) (r : BitVec 2) (e : BitVec 1) (p : BitVec 8) : Statement (.elemFabs a d t r e p) := by
  intro hwf
  refine element_back ?_
  obtain ⟨cw, hw⟩ : ∃ cw : Code, cw = 30#7 ++ a ++ 0#3 ++ d ++ t ++ r ++ 0#1 ++ e ++ p := ⟨_, rfl⟩
  rw [← hw]
  have h25_7 : fld cw 25 7 = 30#7 := hw ▸ hi (hi (hi (hi (hi (hi (hi (hi rfl)))))))
  have h22_3 : fld cw 22 3 = a := hw ▸ hi (hi (hi (hi (hi (hi (hi (lo all_)))))))
  have h16_3 : fld cw 16 3 = d := hw ▸ hi (hi (hi (hi (hi (lo all_)))))
  have h12_4 : fld cw 12 4 = t := hw ▸ hi (hi (hi (hi (lo all_))))
  have h10_2 : fld cw 10 2 = r := hw ▸ hi (hi (hi (lo all_)))
  have h8_1 : fld cw 8 1 = e := hw ▸ hi (lo all_)
  have h0_8 : fld cw 0 8 = p := hw ▸ lo all_
  have h19_3 : fld cw 19 3 = 0#3 := hw ▸ hi (hi (hi (hi (hi (hi (lo rfl))))))
  have h9_1 : fld cw 9 1 = 0#1 := hw ▸ hi (hi (lo rfl))
  clear hw
  refine (show decodeElement cw = Decode.elemIf cw 0x1E (.elemFabs (fld cw 22 3) (fld cw 16 3) (fld cw 12 4) (fld cw 10 2) (fld cw 8 1) (fld cw 0 8)) by unfold decodeElement; rw [h25_7]; rfl).trans ?_
  refine (elem_ok ?_).trans ?_
  · simp only [h22_3, h19_3, h16_3, h12_4, h10_2, h9_1, h0_8]
    exact eq_of_beq hwf
  · simp only [h22_3, h16_3, h12_4, h10_2, h8_1, h0_8]

theorem Sys2Proof.Laws.RoundTrip.elemFneg (a : BitVec 3) (d : BitVec 3) (t : BitVec 4) (r : BitVec 2) (e : BitVec 1) (p : BitVec 8) : Statement (.elemFneg a d t r e p) := by
  intro hwf
  refine element_back ?_
  obtain ⟨cw, hw⟩ : ∃ cw : Code, cw = 31#7 ++ a ++ 0#3 ++ d ++ t ++ r ++ 0#1 ++ e ++ p := ⟨_, rfl⟩
  rw [← hw]
  have h25_7 : fld cw 25 7 = 31#7 := hw ▸ hi (hi (hi (hi (hi (hi (hi (hi rfl)))))))
  have h22_3 : fld cw 22 3 = a := hw ▸ hi (hi (hi (hi (hi (hi (hi (lo all_)))))))
  have h16_3 : fld cw 16 3 = d := hw ▸ hi (hi (hi (hi (hi (lo all_)))))
  have h12_4 : fld cw 12 4 = t := hw ▸ hi (hi (hi (hi (lo all_))))
  have h10_2 : fld cw 10 2 = r := hw ▸ hi (hi (hi (lo all_)))
  have h8_1 : fld cw 8 1 = e := hw ▸ hi (lo all_)
  have h0_8 : fld cw 0 8 = p := hw ▸ lo all_
  have h19_3 : fld cw 19 3 = 0#3 := hw ▸ hi (hi (hi (hi (hi (hi (lo rfl))))))
  have h9_1 : fld cw 9 1 = 0#1 := hw ▸ hi (hi (lo rfl))
  clear hw
  refine (show decodeElement cw = Decode.elemIf cw 0x1F (.elemFneg (fld cw 22 3) (fld cw 16 3) (fld cw 12 4) (fld cw 10 2) (fld cw 8 1) (fld cw 0 8)) by unfold decodeElement; rw [h25_7]; rfl).trans ?_
  refine (elem_ok ?_).trans ?_
  · simp only [h22_3, h19_3, h16_3, h12_4, h10_2, h9_1, h0_8]
    exact eq_of_beq hwf
  · simp only [h22_3, h16_3, h12_4, h10_2, h8_1, h0_8]

theorem Sys2Proof.Laws.RoundTrip.elemCmpeq (a : BitVec 3) (b : BitVec 3) (d : BitVec 3) (t : BitVec 4) (r : BitVec 2) (s : BitVec 1) (e : BitVec 1) (p : BitVec 8) : Statement (.elemCmpeq a b d t r s e p) := by
  intro hwf
  refine element_back ?_
  obtain ⟨cw, hw⟩ : ∃ cw : Code, cw = 32#7 ++ a ++ b ++ d ++ t ++ r ++ s ++ e ++ p := ⟨_, rfl⟩
  rw [← hw]
  have h25_7 : fld cw 25 7 = 32#7 := hw ▸ hi (hi (hi (hi (hi (hi (hi (hi rfl)))))))
  have h22_3 : fld cw 22 3 = a := hw ▸ hi (hi (hi (hi (hi (hi (hi (lo all_)))))))
  have h19_3 : fld cw 19 3 = b := hw ▸ hi (hi (hi (hi (hi (hi (lo all_))))))
  have h16_3 : fld cw 16 3 = d := hw ▸ hi (hi (hi (hi (hi (lo all_)))))
  have h12_4 : fld cw 12 4 = t := hw ▸ hi (hi (hi (hi (lo all_))))
  have h10_2 : fld cw 10 2 = r := hw ▸ hi (hi (hi (lo all_)))
  have h9_1 : fld cw 9 1 = s := hw ▸ hi (hi (lo all_))
  have h8_1 : fld cw 8 1 = e := hw ▸ hi (lo all_)
  have h0_8 : fld cw 0 8 = p := hw ▸ lo all_
  clear hw
  refine (show decodeElement cw = Decode.elemIf cw 0x20 (.elemCmpeq (fld cw 22 3) (fld cw 19 3) (fld cw 16 3) (fld cw 12 4) (fld cw 10 2) (fld cw 9 1) (fld cw 8 1) (fld cw 0 8)) by unfold decodeElement; rw [h25_7]; rfl).trans ?_
  refine (elem_ok ?_).trans ?_
  · simp only [h22_3, h19_3, h16_3, h12_4, h10_2, h9_1, h0_8]
    exact eq_of_beq hwf
  · simp only [h22_3, h19_3, h16_3, h12_4, h10_2, h9_1, h8_1, h0_8]

theorem Sys2Proof.Laws.RoundTrip.elemCmpne (a : BitVec 3) (b : BitVec 3) (d : BitVec 3) (t : BitVec 4) (r : BitVec 2) (s : BitVec 1) (e : BitVec 1) (p : BitVec 8) : Statement (.elemCmpne a b d t r s e p) := by
  intro hwf
  refine element_back ?_
  obtain ⟨cw, hw⟩ : ∃ cw : Code, cw = 33#7 ++ a ++ b ++ d ++ t ++ r ++ s ++ e ++ p := ⟨_, rfl⟩
  rw [← hw]
  have h25_7 : fld cw 25 7 = 33#7 := hw ▸ hi (hi (hi (hi (hi (hi (hi (hi rfl)))))))
  have h22_3 : fld cw 22 3 = a := hw ▸ hi (hi (hi (hi (hi (hi (hi (lo all_)))))))
  have h19_3 : fld cw 19 3 = b := hw ▸ hi (hi (hi (hi (hi (hi (lo all_))))))
  have h16_3 : fld cw 16 3 = d := hw ▸ hi (hi (hi (hi (hi (lo all_)))))
  have h12_4 : fld cw 12 4 = t := hw ▸ hi (hi (hi (hi (lo all_))))
  have h10_2 : fld cw 10 2 = r := hw ▸ hi (hi (hi (lo all_)))
  have h9_1 : fld cw 9 1 = s := hw ▸ hi (hi (lo all_))
  have h8_1 : fld cw 8 1 = e := hw ▸ hi (lo all_)
  have h0_8 : fld cw 0 8 = p := hw ▸ lo all_
  clear hw
  refine (show decodeElement cw = Decode.elemIf cw 0x21 (.elemCmpne (fld cw 22 3) (fld cw 19 3) (fld cw 16 3) (fld cw 12 4) (fld cw 10 2) (fld cw 9 1) (fld cw 8 1) (fld cw 0 8)) by unfold decodeElement; rw [h25_7]; rfl).trans ?_
  refine (elem_ok ?_).trans ?_
  · simp only [h22_3, h19_3, h16_3, h12_4, h10_2, h9_1, h0_8]
    exact eq_of_beq hwf
  · simp only [h22_3, h19_3, h16_3, h12_4, h10_2, h9_1, h8_1, h0_8]

theorem Sys2Proof.Laws.RoundTrip.elemCmplt (a : BitVec 3) (b : BitVec 3) (d : BitVec 3) (t : BitVec 4) (r : BitVec 2) (s : BitVec 1) (e : BitVec 1) (p : BitVec 8) : Statement (.elemCmplt a b d t r s e p) := by
  intro hwf
  refine element_back ?_
  obtain ⟨cw, hw⟩ : ∃ cw : Code, cw = 34#7 ++ a ++ b ++ d ++ t ++ r ++ s ++ e ++ p := ⟨_, rfl⟩
  rw [← hw]
  have h25_7 : fld cw 25 7 = 34#7 := hw ▸ hi (hi (hi (hi (hi (hi (hi (hi rfl)))))))
  have h22_3 : fld cw 22 3 = a := hw ▸ hi (hi (hi (hi (hi (hi (hi (lo all_)))))))
  have h19_3 : fld cw 19 3 = b := hw ▸ hi (hi (hi (hi (hi (hi (lo all_))))))
  have h16_3 : fld cw 16 3 = d := hw ▸ hi (hi (hi (hi (hi (lo all_)))))
  have h12_4 : fld cw 12 4 = t := hw ▸ hi (hi (hi (hi (lo all_))))
  have h10_2 : fld cw 10 2 = r := hw ▸ hi (hi (hi (lo all_)))
  have h9_1 : fld cw 9 1 = s := hw ▸ hi (hi (lo all_))
  have h8_1 : fld cw 8 1 = e := hw ▸ hi (lo all_)
  have h0_8 : fld cw 0 8 = p := hw ▸ lo all_
  clear hw
  refine (show decodeElement cw = Decode.elemIf cw 0x22 (.elemCmplt (fld cw 22 3) (fld cw 19 3) (fld cw 16 3) (fld cw 12 4) (fld cw 10 2) (fld cw 9 1) (fld cw 8 1) (fld cw 0 8)) by unfold decodeElement; rw [h25_7]; rfl).trans ?_
  refine (elem_ok ?_).trans ?_
  · simp only [h22_3, h19_3, h16_3, h12_4, h10_2, h9_1, h0_8]
    exact eq_of_beq hwf
  · simp only [h22_3, h19_3, h16_3, h12_4, h10_2, h9_1, h8_1, h0_8]

theorem Sys2Proof.Laws.RoundTrip.elemCmple (a : BitVec 3) (b : BitVec 3) (d : BitVec 3) (t : BitVec 4) (r : BitVec 2) (s : BitVec 1) (e : BitVec 1) (p : BitVec 8) : Statement (.elemCmple a b d t r s e p) := by
  intro hwf
  refine element_back ?_
  obtain ⟨cw, hw⟩ : ∃ cw : Code, cw = 35#7 ++ a ++ b ++ d ++ t ++ r ++ s ++ e ++ p := ⟨_, rfl⟩
  rw [← hw]
  have h25_7 : fld cw 25 7 = 35#7 := hw ▸ hi (hi (hi (hi (hi (hi (hi (hi rfl)))))))
  have h22_3 : fld cw 22 3 = a := hw ▸ hi (hi (hi (hi (hi (hi (hi (lo all_)))))))
  have h19_3 : fld cw 19 3 = b := hw ▸ hi (hi (hi (hi (hi (hi (lo all_))))))
  have h16_3 : fld cw 16 3 = d := hw ▸ hi (hi (hi (hi (hi (lo all_)))))
  have h12_4 : fld cw 12 4 = t := hw ▸ hi (hi (hi (hi (lo all_))))
  have h10_2 : fld cw 10 2 = r := hw ▸ hi (hi (hi (lo all_)))
  have h9_1 : fld cw 9 1 = s := hw ▸ hi (hi (lo all_))
  have h8_1 : fld cw 8 1 = e := hw ▸ hi (lo all_)
  have h0_8 : fld cw 0 8 = p := hw ▸ lo all_
  clear hw
  refine (show decodeElement cw = Decode.elemIf cw 0x23 (.elemCmple (fld cw 22 3) (fld cw 19 3) (fld cw 16 3) (fld cw 12 4) (fld cw 10 2) (fld cw 9 1) (fld cw 8 1) (fld cw 0 8)) by unfold decodeElement; rw [h25_7]; rfl).trans ?_
  refine (elem_ok ?_).trans ?_
  · simp only [h22_3, h19_3, h16_3, h12_4, h10_2, h9_1, h0_8]
    exact eq_of_beq hwf
  · simp only [h22_3, h19_3, h16_3, h12_4, h10_2, h9_1, h8_1, h0_8]

theorem Sys2Proof.Laws.RoundTrip.elemPack (a : BitVec 3) (b : BitVec 3) (d : BitVec 3) (s : BitVec 1) (e : BitVec 1) (p : BitVec 8) : Statement (.elemPack a b d s e p) := by
  intro hwf
  refine element_back ?_
  obtain ⟨cw, hw⟩ : ∃ cw : Code, cw = 36#7 ++ a ++ b ++ d ++ 36#6 ++ s ++ e ++ p := ⟨_, rfl⟩
  rw [← hw]
  have h25_7 : fld cw 25 7 = 36#7 := hw ▸ hi (hi (hi (hi (hi (hi (hi rfl))))))
  have h22_3 : fld cw 22 3 = a := hw ▸ hi (hi (hi (hi (hi (hi (lo all_))))))
  have h19_3 : fld cw 19 3 = b := hw ▸ hi (hi (hi (hi (hi (lo all_)))))
  have h16_3 : fld cw 16 3 = d := hw ▸ hi (hi (hi (hi (lo all_))))
  have h9_1 : fld cw 9 1 = s := hw ▸ hi (hi (lo all_))
  have h8_1 : fld cw 8 1 = e := hw ▸ hi (lo all_)
  have h0_8 : fld cw 0 8 = p := hw ▸ lo all_
  have h12_4 : fld cw 12 4 = 9#4 := hw ▸ hi (hi (hi (lo rfl)))
  have h10_2 : fld cw 10 2 = 0#2 := hw ▸ hi (hi (hi (lo rfl)))
  clear hw
  refine (show decodeElement cw = Decode.elemIf cw 0x24 (.elemPack (fld cw 22 3) (fld cw 19 3) (fld cw 16 3) (fld cw 9 1) (fld cw 8 1) (fld cw 0 8)) by unfold decodeElement; rw [h25_7]; rfl).trans ?_
  refine (elem_ok ?_).trans ?_
  · simp only [h22_3, h19_3, h16_3, h12_4, h10_2, h9_1, h0_8]
    exact eq_of_beq hwf
  · simp only [h22_3, h19_3, h16_3, h9_1, h8_1, h0_8]

theorem Sys2Proof.Laws.RoundTrip.elemUnpkl (a : BitVec 3) (d : BitVec 3) (e : BitVec 1) (p : BitVec 8) : Statement (.elemUnpkl a d e p) := by
  intro hwf
  refine element_back ?_
  obtain ⟨cw, hw⟩ : ∃ cw : Code, cw = 37#7 ++ a ++ 0#3 ++ d ++ 72#7 ++ e ++ p := ⟨_, rfl⟩
  rw [← hw]
  have h25_7 : fld cw 25 7 = 37#7 := hw ▸ hi (hi (hi (hi (hi (hi rfl)))))
  have h22_3 : fld cw 22 3 = a := hw ▸ hi (hi (hi (hi (hi (lo all_)))))
  have h16_3 : fld cw 16 3 = d := hw ▸ hi (hi (hi (lo all_)))
  have h8_1 : fld cw 8 1 = e := hw ▸ hi (lo all_)
  have h0_8 : fld cw 0 8 = p := hw ▸ lo all_
  have h19_3 : fld cw 19 3 = 0#3 := hw ▸ hi (hi (hi (hi (lo rfl))))
  have h12_4 : fld cw 12 4 = 9#4 := hw ▸ hi (hi (lo rfl))
  have h10_2 : fld cw 10 2 = 0#2 := hw ▸ hi (hi (lo rfl))
  have h9_1 : fld cw 9 1 = 0#1 := hw ▸ hi (hi (lo rfl))
  clear hw
  refine (show decodeElement cw = Decode.elemIf cw 0x25 (.elemUnpkl (fld cw 22 3) (fld cw 16 3) (fld cw 8 1) (fld cw 0 8)) by unfold decodeElement; rw [h25_7]; rfl).trans ?_
  refine (elem_ok ?_).trans ?_
  · simp only [h22_3, h19_3, h16_3, h12_4, h10_2, h9_1, h0_8]
    exact eq_of_beq hwf
  · simp only [h22_3, h16_3, h8_1, h0_8]

theorem Sys2Proof.Laws.RoundTrip.elemUnpkh (a : BitVec 3) (d : BitVec 3) (e : BitVec 1) (p : BitVec 8) : Statement (.elemUnpkh a d e p) := by
  intro hwf
  refine element_back ?_
  obtain ⟨cw, hw⟩ : ∃ cw : Code, cw = 38#7 ++ a ++ 0#3 ++ d ++ 72#7 ++ e ++ p := ⟨_, rfl⟩
  rw [← hw]
  have h25_7 : fld cw 25 7 = 38#7 := hw ▸ hi (hi (hi (hi (hi (hi rfl)))))
  have h22_3 : fld cw 22 3 = a := hw ▸ hi (hi (hi (hi (hi (lo all_)))))
  have h16_3 : fld cw 16 3 = d := hw ▸ hi (hi (hi (lo all_)))
  have h8_1 : fld cw 8 1 = e := hw ▸ hi (lo all_)
  have h0_8 : fld cw 0 8 = p := hw ▸ lo all_
  have h19_3 : fld cw 19 3 = 0#3 := hw ▸ hi (hi (hi (hi (lo rfl))))
  have h12_4 : fld cw 12 4 = 9#4 := hw ▸ hi (hi (lo rfl))
  have h10_2 : fld cw 10 2 = 0#2 := hw ▸ hi (hi (lo rfl))
  have h9_1 : fld cw 9 1 = 0#1 := hw ▸ hi (hi (lo rfl))
  clear hw
  refine (show decodeElement cw = Decode.elemIf cw 0x26 (.elemUnpkh (fld cw 22 3) (fld cw 16 3) (fld cw 8 1) (fld cw 0 8)) by unfold decodeElement; rw [h25_7]; rfl).trans ?_
  refine (elem_ok ?_).trans ?_
  · simp only [h22_3, h19_3, h16_3, h12_4, h10_2, h9_1, h0_8]
    exact eq_of_beq hwf
  · simp only [h22_3, h16_3, h8_1, h0_8]

theorem Sys2Proof.Laws.RoundTrip.elemPass (a : BitVec 3) (d : BitVec 3) (t : BitVec 4) (r : BitVec 2) (e : BitVec 1) (p : BitVec 8) : Statement (.elemPass a d t r e p) := by
  intro hwf
  refine element_back ?_
  obtain ⟨cw, hw⟩ : ∃ cw : Code, cw = 40#7 ++ a ++ 0#3 ++ d ++ t ++ r ++ 0#1 ++ e ++ p := ⟨_, rfl⟩
  rw [← hw]
  have h25_7 : fld cw 25 7 = 40#7 := hw ▸ hi (hi (hi (hi (hi (hi (hi (hi rfl)))))))
  have h22_3 : fld cw 22 3 = a := hw ▸ hi (hi (hi (hi (hi (hi (hi (lo all_)))))))
  have h16_3 : fld cw 16 3 = d := hw ▸ hi (hi (hi (hi (hi (lo all_)))))
  have h12_4 : fld cw 12 4 = t := hw ▸ hi (hi (hi (hi (lo all_))))
  have h10_2 : fld cw 10 2 = r := hw ▸ hi (hi (hi (lo all_)))
  have h8_1 : fld cw 8 1 = e := hw ▸ hi (lo all_)
  have h0_8 : fld cw 0 8 = p := hw ▸ lo all_
  have h19_3 : fld cw 19 3 = 0#3 := hw ▸ hi (hi (hi (hi (hi (hi (lo rfl))))))
  have h9_1 : fld cw 9 1 = 0#1 := hw ▸ hi (hi (lo rfl))
  clear hw
  refine (show decodeElement cw = Decode.elemIf cw 0x28 (.elemPass (fld cw 22 3) (fld cw 16 3) (fld cw 12 4) (fld cw 10 2) (fld cw 8 1) (fld cw 0 8)) by unfold decodeElement; rw [h25_7]; rfl).trans ?_
  refine (elem_ok ?_).trans ?_
  · simp only [h22_3, h19_3, h16_3, h12_4, h10_2, h9_1, h0_8]
    exact eq_of_beq hwf
  · simp only [h22_3, h16_3, h12_4, h10_2, h8_1, h0_8]

theorem Sys2Proof.Laws.RoundTrip.elemDup (a : BitVec 3) (d : BitVec 3) (t : BitVec 4) (r : BitVec 2) (e : BitVec 1) (p : BitVec 8) : Statement (.elemDup a d t r e p) := by
  intro hwf
  refine element_back ?_
  obtain ⟨cw, hw⟩ : ∃ cw : Code, cw = 41#7 ++ a ++ 0#3 ++ d ++ t ++ r ++ 0#1 ++ e ++ p := ⟨_, rfl⟩
  rw [← hw]
  have h25_7 : fld cw 25 7 = 41#7 := hw ▸ hi (hi (hi (hi (hi (hi (hi (hi rfl)))))))
  have h22_3 : fld cw 22 3 = a := hw ▸ hi (hi (hi (hi (hi (hi (hi (lo all_)))))))
  have h16_3 : fld cw 16 3 = d := hw ▸ hi (hi (hi (hi (hi (lo all_)))))
  have h12_4 : fld cw 12 4 = t := hw ▸ hi (hi (hi (hi (lo all_))))
  have h10_2 : fld cw 10 2 = r := hw ▸ hi (hi (hi (lo all_)))
  have h8_1 : fld cw 8 1 = e := hw ▸ hi (lo all_)
  have h0_8 : fld cw 0 8 = p := hw ▸ lo all_
  have h19_3 : fld cw 19 3 = 0#3 := hw ▸ hi (hi (hi (hi (hi (hi (lo rfl))))))
  have h9_1 : fld cw 9 1 = 0#1 := hw ▸ hi (hi (lo rfl))
  clear hw
  refine (show decodeElement cw = Decode.elemIf cw 0x29 (.elemDup (fld cw 22 3) (fld cw 16 3) (fld cw 12 4) (fld cw 10 2) (fld cw 8 1) (fld cw 0 8)) by unfold decodeElement; rw [h25_7]; rfl).trans ?_
  refine (elem_ok ?_).trans ?_
  · simp only [h22_3, h19_3, h16_3, h12_4, h10_2, h9_1, h0_8]
    exact eq_of_beq hwf
  · simp only [h22_3, h16_3, h12_4, h10_2, h8_1, h0_8]

theorem Sys2Proof.Laws.RoundTrip.elemSteert (a : BitVec 3) (b : BitVec 3) (d : BitVec 3) (t : BitVec 4) (r : BitVec 2) (e : BitVec 1) (p : BitVec 8) : Statement (.elemSteert a b d t r e p) := by
  intro hwf
  refine element_back ?_
  obtain ⟨cw, hw⟩ : ∃ cw : Code, cw = 42#7 ++ a ++ b ++ d ++ t ++ r ++ 0#1 ++ e ++ p := ⟨_, rfl⟩
  rw [← hw]
  have h25_7 : fld cw 25 7 = 42#7 := hw ▸ hi (hi (hi (hi (hi (hi (hi (hi rfl)))))))
  have h22_3 : fld cw 22 3 = a := hw ▸ hi (hi (hi (hi (hi (hi (hi (lo all_)))))))
  have h19_3 : fld cw 19 3 = b := hw ▸ hi (hi (hi (hi (hi (hi (lo all_))))))
  have h16_3 : fld cw 16 3 = d := hw ▸ hi (hi (hi (hi (hi (lo all_)))))
  have h12_4 : fld cw 12 4 = t := hw ▸ hi (hi (hi (hi (lo all_))))
  have h10_2 : fld cw 10 2 = r := hw ▸ hi (hi (hi (lo all_)))
  have h8_1 : fld cw 8 1 = e := hw ▸ hi (lo all_)
  have h0_8 : fld cw 0 8 = p := hw ▸ lo all_
  have h9_1 : fld cw 9 1 = 0#1 := hw ▸ hi (hi (lo rfl))
  clear hw
  refine (show decodeElement cw = Decode.elemIf cw 0x2A (.elemSteert (fld cw 22 3) (fld cw 19 3) (fld cw 16 3) (fld cw 12 4) (fld cw 10 2) (fld cw 8 1) (fld cw 0 8)) by unfold decodeElement; rw [h25_7]; rfl).trans ?_
  refine (elem_ok ?_).trans ?_
  · simp only [h22_3, h19_3, h16_3, h12_4, h10_2, h9_1, h0_8]
    exact eq_of_beq hwf
  · simp only [h22_3, h19_3, h16_3, h12_4, h10_2, h8_1, h0_8]

theorem Sys2Proof.Laws.RoundTrip.elemSteerf (a : BitVec 3) (b : BitVec 3) (d : BitVec 3) (t : BitVec 4) (r : BitVec 2) (e : BitVec 1) (p : BitVec 8) : Statement (.elemSteerf a b d t r e p) := by
  intro hwf
  refine element_back ?_
  obtain ⟨cw, hw⟩ : ∃ cw : Code, cw = 43#7 ++ a ++ b ++ d ++ t ++ r ++ 0#1 ++ e ++ p := ⟨_, rfl⟩
  rw [← hw]
  have h25_7 : fld cw 25 7 = 43#7 := hw ▸ hi (hi (hi (hi (hi (hi (hi (hi rfl)))))))
  have h22_3 : fld cw 22 3 = a := hw ▸ hi (hi (hi (hi (hi (hi (hi (lo all_)))))))
  have h19_3 : fld cw 19 3 = b := hw ▸ hi (hi (hi (hi (hi (hi (lo all_))))))
  have h16_3 : fld cw 16 3 = d := hw ▸ hi (hi (hi (hi (hi (lo all_)))))
  have h12_4 : fld cw 12 4 = t := hw ▸ hi (hi (hi (hi (lo all_))))
  have h10_2 : fld cw 10 2 = r := hw ▸ hi (hi (hi (lo all_)))
  have h8_1 : fld cw 8 1 = e := hw ▸ hi (lo all_)
  have h0_8 : fld cw 0 8 = p := hw ▸ lo all_
  have h9_1 : fld cw 9 1 = 0#1 := hw ▸ hi (hi (lo rfl))
  clear hw
  refine (show decodeElement cw = Decode.elemIf cw 0x2B (.elemSteerf (fld cw 22 3) (fld cw 19 3) (fld cw 16 3) (fld cw 12 4) (fld cw 10 2) (fld cw 8 1) (fld cw 0 8)) by unfold decodeElement; rw [h25_7]; rfl).trans ?_
  refine (elem_ok ?_).trans ?_
  · simp only [h22_3, h19_3, h16_3, h12_4, h10_2, h9_1, h0_8]
    exact eq_of_beq hwf
  · simp only [h22_3, h19_3, h16_3, h12_4, h10_2, h8_1, h0_8]

theorem Sys2Proof.Laws.RoundTrip.elemMerge (a : BitVec 3) (b : BitVec 3) (d : BitVec 3) (t : BitVec 4) (r : BitVec 2) (e : BitVec 1) (p : BitVec 8) : Statement (.elemMerge a b d t r e p) := by
  intro hwf
  refine element_back ?_
  obtain ⟨cw, hw⟩ : ∃ cw : Code, cw = 44#7 ++ a ++ b ++ d ++ t ++ r ++ 0#1 ++ e ++ p := ⟨_, rfl⟩
  rw [← hw]
  have h25_7 : fld cw 25 7 = 44#7 := hw ▸ hi (hi (hi (hi (hi (hi (hi (hi rfl)))))))
  have h22_3 : fld cw 22 3 = a := hw ▸ hi (hi (hi (hi (hi (hi (hi (lo all_)))))))
  have h19_3 : fld cw 19 3 = b := hw ▸ hi (hi (hi (hi (hi (hi (lo all_))))))
  have h16_3 : fld cw 16 3 = d := hw ▸ hi (hi (hi (hi (hi (lo all_)))))
  have h12_4 : fld cw 12 4 = t := hw ▸ hi (hi (hi (hi (lo all_))))
  have h10_2 : fld cw 10 2 = r := hw ▸ hi (hi (hi (lo all_)))
  have h8_1 : fld cw 8 1 = e := hw ▸ hi (lo all_)
  have h0_8 : fld cw 0 8 = p := hw ▸ lo all_
  have h9_1 : fld cw 9 1 = 0#1 := hw ▸ hi (hi (lo rfl))
  clear hw
  refine (show decodeElement cw = Decode.elemIf cw 0x2C (.elemMerge (fld cw 22 3) (fld cw 19 3) (fld cw 16 3) (fld cw 12 4) (fld cw 10 2) (fld cw 8 1) (fld cw 0 8)) by unfold decodeElement; rw [h25_7]; rfl).trans ?_
  refine (elem_ok ?_).trans ?_
  · simp only [h22_3, h19_3, h16_3, h12_4, h10_2, h9_1, h0_8]
    exact eq_of_beq hwf
  · simp only [h22_3, h19_3, h16_3, h12_4, h10_2, h8_1, h0_8]

theorem Sys2Proof.Laws.RoundTrip.elemSelect (a : BitVec 3) (b : BitVec 3) (d : BitVec 3) (t : BitVec 4) (r : BitVec 2) (e : BitVec 1) (p : BitVec 8) : Statement (.elemSelect a b d t r e p) := by
  intro hwf
  refine element_back ?_
  obtain ⟨cw, hw⟩ : ∃ cw : Code, cw = 45#7 ++ a ++ b ++ d ++ t ++ r ++ 0#1 ++ e ++ p := ⟨_, rfl⟩
  rw [← hw]
  have h25_7 : fld cw 25 7 = 45#7 := hw ▸ hi (hi (hi (hi (hi (hi (hi (hi rfl)))))))
  have h22_3 : fld cw 22 3 = a := hw ▸ hi (hi (hi (hi (hi (hi (hi (lo all_)))))))
  have h19_3 : fld cw 19 3 = b := hw ▸ hi (hi (hi (hi (hi (hi (lo all_))))))
  have h16_3 : fld cw 16 3 = d := hw ▸ hi (hi (hi (hi (hi (lo all_)))))
  have h12_4 : fld cw 12 4 = t := hw ▸ hi (hi (hi (hi (lo all_))))
  have h10_2 : fld cw 10 2 = r := hw ▸ hi (hi (hi (lo all_)))
  have h8_1 : fld cw 8 1 = e := hw ▸ hi (lo all_)
  have h0_8 : fld cw 0 8 = p := hw ▸ lo all_
  have h9_1 : fld cw 9 1 = 0#1 := hw ▸ hi (hi (lo rfl))
  clear hw
  refine (show decodeElement cw = Decode.elemIf cw 0x2D (.elemSelect (fld cw 22 3) (fld cw 19 3) (fld cw 16 3) (fld cw 12 4) (fld cw 10 2) (fld cw 8 1) (fld cw 0 8)) by unfold decodeElement; rw [h25_7]; rfl).trans ?_
  refine (elem_ok ?_).trans ?_
  · simp only [h22_3, h19_3, h16_3, h12_4, h10_2, h9_1, h0_8]
    exact eq_of_beq hwf
  · simp only [h22_3, h19_3, h16_3, h12_4, h10_2, h8_1, h0_8]

theorem Sys2Proof.Laws.RoundTrip.elemConst (a : BitVec 3) (d : BitVec 3) (t : BitVec 4) (r : BitVec 2) (e : BitVec 1) (p : BitVec 8) : Statement (.elemConst a d t r e p) := by
  intro hwf
  refine element_back ?_
  obtain ⟨cw, hw⟩ : ∃ cw : Code, cw = 48#7 ++ a ++ 0#3 ++ d ++ t ++ r ++ 0#1 ++ e ++ p := ⟨_, rfl⟩
  rw [← hw]
  have h25_7 : fld cw 25 7 = 48#7 := hw ▸ hi (hi (hi (hi (hi (hi (hi (hi rfl)))))))
  have h22_3 : fld cw 22 3 = a := hw ▸ hi (hi (hi (hi (hi (hi (hi (lo all_)))))))
  have h16_3 : fld cw 16 3 = d := hw ▸ hi (hi (hi (hi (hi (lo all_)))))
  have h12_4 : fld cw 12 4 = t := hw ▸ hi (hi (hi (hi (lo all_))))
  have h10_2 : fld cw 10 2 = r := hw ▸ hi (hi (hi (lo all_)))
  have h8_1 : fld cw 8 1 = e := hw ▸ hi (lo all_)
  have h0_8 : fld cw 0 8 = p := hw ▸ lo all_
  have h19_3 : fld cw 19 3 = 0#3 := hw ▸ hi (hi (hi (hi (hi (hi (lo rfl))))))
  have h9_1 : fld cw 9 1 = 0#1 := hw ▸ hi (hi (lo rfl))
  clear hw
  refine (show decodeElement cw = Decode.elemIf cw 0x30 (.elemConst (fld cw 22 3) (fld cw 16 3) (fld cw 12 4) (fld cw 10 2) (fld cw 8 1) (fld cw 0 8)) by unfold decodeElement; rw [h25_7]; rfl).trans ?_
  refine (elem_ok ?_).trans ?_
  · simp only [h22_3, h19_3, h16_3, h12_4, h10_2, h9_1, h0_8]
    exact eq_of_beq hwf
  · simp only [h22_3, h16_3, h12_4, h10_2, h8_1, h0_8]

theorem Sys2Proof.Laws.RoundTrip.elemIter (a : BitVec 3) (b : BitVec 3) (d : BitVec 3) (t : BitVec 4) (e : BitVec 1) (p : BitVec 8) : Statement (.elemIter a b d t e p) := by
  intro hwf
  refine element_back ?_
  obtain ⟨cw, hw⟩ : ∃ cw : Code, cw = 49#7 ++ a ++ b ++ d ++ t ++ 0#3 ++ e ++ p := ⟨_, rfl⟩
  rw [← hw]
  have h25_7 : fld cw 25 7 = 49#7 := hw ▸ hi (hi (hi (hi (hi (hi (hi rfl))))))
  have h22_3 : fld cw 22 3 = a := hw ▸ hi (hi (hi (hi (hi (hi (lo all_))))))
  have h19_3 : fld cw 19 3 = b := hw ▸ hi (hi (hi (hi (hi (lo all_)))))
  have h16_3 : fld cw 16 3 = d := hw ▸ hi (hi (hi (hi (lo all_))))
  have h12_4 : fld cw 12 4 = t := hw ▸ hi (hi (hi (lo all_)))
  have h8_1 : fld cw 8 1 = e := hw ▸ hi (lo all_)
  have h0_8 : fld cw 0 8 = p := hw ▸ lo all_
  have h10_2 : fld cw 10 2 = 0#2 := hw ▸ hi (hi (lo rfl))
  have h9_1 : fld cw 9 1 = 0#1 := hw ▸ hi (hi (lo rfl))
  clear hw
  refine (show decodeElement cw = Decode.elemIf cw 0x31 (.elemIter (fld cw 22 3) (fld cw 19 3) (fld cw 16 3) (fld cw 12 4) (fld cw 8 1) (fld cw 0 8)) by unfold decodeElement; rw [h25_7]; rfl).trans ?_
  refine (elem_ok ?_).trans ?_
  · simp only [h22_3, h19_3, h16_3, h12_4, h10_2, h9_1, h0_8]
    exact eq_of_beq hwf
  · simp only [h22_3, h19_3, h16_3, h12_4, h8_1, h0_8]

theorem Sys2Proof.Laws.RoundTrip.elemCvth (a : BitVec 3) (d : BitVec 3) (t : BitVec 4) (r : BitVec 2) (s : BitVec 1) (e : BitVec 1) (p : BitVec 8) : Statement (.elemCvth a d t r s e p) := by
  intro hwf
  refine element_back ?_
  obtain ⟨cw, hw⟩ : ∃ cw : Code, cw = 56#7 ++ a ++ 0#3 ++ d ++ t ++ r ++ s ++ e ++ p := ⟨_, rfl⟩
  rw [← hw]
  have h25_7 : fld cw 25 7 = 56#7 := hw ▸ hi (hi (hi (hi (hi (hi (hi (hi rfl)))))))
  have h22_3 : fld cw 22 3 = a := hw ▸ hi (hi (hi (hi (hi (hi (hi (lo all_)))))))
  have h16_3 : fld cw 16 3 = d := hw ▸ hi (hi (hi (hi (hi (lo all_)))))
  have h12_4 : fld cw 12 4 = t := hw ▸ hi (hi (hi (hi (lo all_))))
  have h10_2 : fld cw 10 2 = r := hw ▸ hi (hi (hi (lo all_)))
  have h9_1 : fld cw 9 1 = s := hw ▸ hi (hi (lo all_))
  have h8_1 : fld cw 8 1 = e := hw ▸ hi (lo all_)
  have h0_8 : fld cw 0 8 = p := hw ▸ lo all_
  have h19_3 : fld cw 19 3 = 0#3 := hw ▸ hi (hi (hi (hi (hi (hi (lo rfl))))))
  clear hw
  refine (show decodeElement cw = Decode.elemIf cw 0x38 (.elemCvth (fld cw 22 3) (fld cw 16 3) (fld cw 12 4) (fld cw 10 2) (fld cw 9 1) (fld cw 8 1) (fld cw 0 8)) by unfold decodeElement; rw [h25_7]; rfl).trans ?_
  refine (elem_ok ?_).trans ?_
  · simp only [h22_3, h19_3, h16_3, h12_4, h10_2, h9_1, h0_8]
    exact eq_of_beq hwf
  · simp only [h22_3, h16_3, h12_4, h10_2, h9_1, h8_1, h0_8]

theorem Sys2Proof.Laws.RoundTrip.elemCvti (a : BitVec 3) (d : BitVec 3) (t : BitVec 4) (r : BitVec 2) (s : BitVec 1) (e : BitVec 1) (p : BitVec 8) : Statement (.elemCvti a d t r s e p) := by
  intro hwf
  refine element_back ?_
  obtain ⟨cw, hw⟩ : ∃ cw : Code, cw = 57#7 ++ a ++ 0#3 ++ d ++ t ++ r ++ s ++ e ++ p := ⟨_, rfl⟩
  rw [← hw]
  have h25_7 : fld cw 25 7 = 57#7 := hw ▸ hi (hi (hi (hi (hi (hi (hi (hi rfl)))))))
  have h22_3 : fld cw 22 3 = a := hw ▸ hi (hi (hi (hi (hi (hi (hi (lo all_)))))))
  have h16_3 : fld cw 16 3 = d := hw ▸ hi (hi (hi (hi (hi (lo all_)))))
  have h12_4 : fld cw 12 4 = t := hw ▸ hi (hi (hi (hi (lo all_))))
  have h10_2 : fld cw 10 2 = r := hw ▸ hi (hi (hi (lo all_)))
  have h9_1 : fld cw 9 1 = s := hw ▸ hi (hi (lo all_))
  have h8_1 : fld cw 8 1 = e := hw ▸ hi (lo all_)
  have h0_8 : fld cw 0 8 = p := hw ▸ lo all_
  have h19_3 : fld cw 19 3 = 0#3 := hw ▸ hi (hi (hi (hi (hi (hi (lo rfl))))))
  clear hw
  refine (show decodeElement cw = Decode.elemIf cw 0x39 (.elemCvti (fld cw 22 3) (fld cw 16 3) (fld cw 12 4) (fld cw 10 2) (fld cw 9 1) (fld cw 8 1) (fld cw 0 8)) by unfold decodeElement; rw [h25_7]; rfl).trans ?_
  refine (elem_ok ?_).trans ?_
  · simp only [h22_3, h19_3, h16_3, h12_4, h10_2, h9_1, h0_8]
    exact eq_of_beq hwf
  · simp only [h22_3, h16_3, h12_4, h10_2, h9_1, h8_1, h0_8]

theorem Sys2Proof.Laws.RoundTrip.elemCvtf (a : BitVec 3) (d : BitVec 3) (t : BitVec 4) (r : BitVec 2) (s : BitVec 1) (e : BitVec 1) (p : BitVec 8) : Statement (.elemCvtf a d t r s e p) := by
  intro hwf
  refine element_back ?_
  obtain ⟨cw, hw⟩ : ∃ cw : Code, cw = 58#7 ++ a ++ 0#3 ++ d ++ t ++ r ++ s ++ e ++ p := ⟨_, rfl⟩
  rw [← hw]
  have h25_7 : fld cw 25 7 = 58#7 := hw ▸ hi (hi (hi (hi (hi (hi (hi (hi rfl)))))))
  have h22_3 : fld cw 22 3 = a := hw ▸ hi (hi (hi (hi (hi (hi (hi (lo all_)))))))
  have h16_3 : fld cw 16 3 = d := hw ▸ hi (hi (hi (hi (hi (lo all_)))))
  have h12_4 : fld cw 12 4 = t := hw ▸ hi (hi (hi (hi (lo all_))))
  have h10_2 : fld cw 10 2 = r := hw ▸ hi (hi (hi (lo all_)))
  have h9_1 : fld cw 9 1 = s := hw ▸ hi (hi (lo all_))
  have h8_1 : fld cw 8 1 = e := hw ▸ hi (lo all_)
  have h0_8 : fld cw 0 8 = p := hw ▸ lo all_
  have h19_3 : fld cw 19 3 = 0#3 := hw ▸ hi (hi (hi (hi (hi (hi (lo rfl))))))
  clear hw
  refine (show decodeElement cw = Decode.elemIf cw 0x3A (.elemCvtf (fld cw 22 3) (fld cw 16 3) (fld cw 12 4) (fld cw 10 2) (fld cw 9 1) (fld cw 8 1) (fld cw 0 8)) by unfold decodeElement; rw [h25_7]; rfl).trans ?_
  refine (elem_ok ?_).trans ?_
  · simp only [h22_3, h19_3, h16_3, h12_4, h10_2, h9_1, h0_8]
    exact eq_of_beq hwf
  · simp only [h22_3, h16_3, h12_4, h10_2, h9_1, h8_1, h0_8]

theorem Sys2Proof.Laws.RoundTrip.elemCvts (a : BitVec 3) (d : BitVec 3) (t : BitVec 4) (r : BitVec 2) (s : BitVec 1) (e : BitVec 1) (p : BitVec 8) : Statement (.elemCvts a d t r s e p) := by
  intro hwf
  refine element_back ?_
  obtain ⟨cw, hw⟩ : ∃ cw : Code, cw = 59#7 ++ a ++ 0#3 ++ d ++ t ++ r ++ s ++ e ++ p := ⟨_, rfl⟩
  rw [← hw]
  have h25_7 : fld cw 25 7 = 59#7 := hw ▸ hi (hi (hi (hi (hi (hi (hi (hi rfl)))))))
  have h22_3 : fld cw 22 3 = a := hw ▸ hi (hi (hi (hi (hi (hi (hi (lo all_)))))))
  have h16_3 : fld cw 16 3 = d := hw ▸ hi (hi (hi (hi (hi (lo all_)))))
  have h12_4 : fld cw 12 4 = t := hw ▸ hi (hi (hi (hi (lo all_))))
  have h10_2 : fld cw 10 2 = r := hw ▸ hi (hi (hi (lo all_)))
  have h9_1 : fld cw 9 1 = s := hw ▸ hi (hi (lo all_))
  have h8_1 : fld cw 8 1 = e := hw ▸ hi (lo all_)
  have h0_8 : fld cw 0 8 = p := hw ▸ lo all_
  have h19_3 : fld cw 19 3 = 0#3 := hw ▸ hi (hi (hi (hi (hi (hi (lo rfl))))))
  clear hw
  refine (show decodeElement cw = Decode.elemIf cw 0x3B (.elemCvts (fld cw 22 3) (fld cw 16 3) (fld cw 12 4) (fld cw 10 2) (fld cw 9 1) (fld cw 8 1) (fld cw 0 8)) by unfold decodeElement; rw [h25_7]; rfl).trans ?_
  refine (elem_ok ?_).trans ?_
  · simp only [h22_3, h19_3, h16_3, h12_4, h10_2, h9_1, h0_8]
    exact eq_of_beq hwf
  · simp only [h22_3, h16_3, h12_4, h10_2, h9_1, h8_1, h0_8]

theorem Sys2Proof.Laws.RoundTrip.elemHdrGet (a : BitVec 3) (d : BitVec 3) (e : BitVec 1) (p : BitVec 8) : Statement (.elemHdrGet a d e p) := by
  intro hwf
  refine element_back ?_
  obtain ⟨cw, hw⟩ : ∃ cw : Code, cw = 60#7 ++ a ++ 0#3 ++ d ++ 16#7 ++ e ++ p := ⟨_, rfl⟩
  rw [← hw]
  have h25_7 : fld cw 25 7 = 60#7 := hw ▸ hi (hi (hi (hi (hi (hi rfl)))))
  have h22_3 : fld cw 22 3 = a := hw ▸ hi (hi (hi (hi (hi (lo all_)))))
  have h16_3 : fld cw 16 3 = d := hw ▸ hi (hi (hi (lo all_)))
  have h8_1 : fld cw 8 1 = e := hw ▸ hi (lo all_)
  have h0_8 : fld cw 0 8 = p := hw ▸ lo all_
  have h19_3 : fld cw 19 3 = 0#3 := hw ▸ hi (hi (hi (hi (lo rfl))))
  have h12_4 : fld cw 12 4 = 2#4 := hw ▸ hi (hi (lo rfl))
  have h10_2 : fld cw 10 2 = 0#2 := hw ▸ hi (hi (lo rfl))
  have h9_1 : fld cw 9 1 = 0#1 := hw ▸ hi (hi (lo rfl))
  clear hw
  refine (show decodeElement cw = Decode.elemIf cw 0x3C (.elemHdrGet (fld cw 22 3) (fld cw 16 3) (fld cw 8 1) (fld cw 0 8)) by unfold decodeElement; rw [h25_7]; rfl).trans ?_
  refine (elem_ok ?_).trans ?_
  · simp only [h22_3, h19_3, h16_3, h12_4, h10_2, h9_1, h0_8]
    exact eq_of_beq hwf
  · simp only [h22_3, h16_3, h8_1, h0_8]

theorem Sys2Proof.Laws.RoundTrip.elemHdrPut (a : BitVec 3) (d : BitVec 3) (e : BitVec 1) (p : BitVec 8) : Statement (.elemHdrPut a d e p) := by
  intro hwf
  refine element_back ?_
  obtain ⟨cw, hw⟩ : ∃ cw : Code, cw = 61#7 ++ a ++ 0#3 ++ d ++ 16#7 ++ e ++ p := ⟨_, rfl⟩
  rw [← hw]
  have h25_7 : fld cw 25 7 = 61#7 := hw ▸ hi (hi (hi (hi (hi (hi rfl)))))
  have h22_3 : fld cw 22 3 = a := hw ▸ hi (hi (hi (hi (hi (lo all_)))))
  have h16_3 : fld cw 16 3 = d := hw ▸ hi (hi (hi (lo all_)))
  have h8_1 : fld cw 8 1 = e := hw ▸ hi (lo all_)
  have h0_8 : fld cw 0 8 = p := hw ▸ lo all_
  have h19_3 : fld cw 19 3 = 0#3 := hw ▸ hi (hi (hi (hi (lo rfl))))
  have h12_4 : fld cw 12 4 = 2#4 := hw ▸ hi (hi (lo rfl))
  have h10_2 : fld cw 10 2 = 0#2 := hw ▸ hi (hi (lo rfl))
  have h9_1 : fld cw 9 1 = 0#1 := hw ▸ hi (hi (lo rfl))
  clear hw
  refine (show decodeElement cw = Decode.elemIf cw 0x3D (.elemHdrPut (fld cw 22 3) (fld cw 16 3) (fld cw 8 1) (fld cw 0 8)) by unfold decodeElement; rw [h25_7]; rfl).trans ?_
  refine (elem_ok ?_).trans ?_
  · simp only [h22_3, h19_3, h16_3, h12_4, h10_2, h9_1, h0_8]
    exact eq_of_beq hwf
  · simp only [h22_3, h16_3, h8_1, h0_8]

theorem Sys2Proof.Laws.RoundTrip.elemLmac (a : BitVec 3) (b : BitVec 3) (d : BitVec 3) (e : BitVec 1) (p : BitVec 8) : Statement (.elemLmac a b d e p) := by
  intro hwf
  refine element_back ?_
  obtain ⟨cw, hw⟩ : ∃ cw : Code, cw = 64#7 ++ a ++ b ++ d ++ 64#7 ++ e ++ p := ⟨_, rfl⟩
  rw [← hw]
  have h25_7 : fld cw 25 7 = 64#7 := hw ▸ hi (hi (hi (hi (hi (hi rfl)))))
  have h22_3 : fld cw 22 3 = a := hw ▸ hi (hi (hi (hi (hi (lo all_)))))
  have h19_3 : fld cw 19 3 = b := hw ▸ hi (hi (hi (hi (lo all_))))
  have h16_3 : fld cw 16 3 = d := hw ▸ hi (hi (hi (lo all_)))
  have h8_1 : fld cw 8 1 = e := hw ▸ hi (lo all_)
  have h0_8 : fld cw 0 8 = p := hw ▸ lo all_
  have h12_4 : fld cw 12 4 = 8#4 := hw ▸ hi (hi (lo rfl))
  have h10_2 : fld cw 10 2 = 0#2 := hw ▸ hi (hi (lo rfl))
  have h9_1 : fld cw 9 1 = 0#1 := hw ▸ hi (hi (lo rfl))
  clear hw
  refine (show decodeElement cw = Decode.elemIf cw 0x40 (.elemLmac (fld cw 22 3) (fld cw 19 3) (fld cw 16 3) (fld cw 8 1) (fld cw 0 8)) by unfold decodeElement; rw [h25_7]; rfl).trans ?_
  refine (elem_ok ?_).trans ?_
  · simp only [h22_3, h19_3, h16_3, h12_4, h10_2, h9_1, h0_8]
    exact eq_of_beq hwf
  · simp only [h22_3, h19_3, h16_3, h8_1, h0_8]

theorem Sys2Proof.Laws.RoundTrip.elemLfin (a : BitVec 3) (d : BitVec 3) (e : BitVec 1) (p : BitVec 8) : Statement (.elemLfin a d e p) := by
  intro hwf
  refine element_back ?_
  obtain ⟨cw, hw⟩ : ∃ cw : Code, cw = 65#7 ++ a ++ 0#3 ++ d ++ 64#7 ++ e ++ p := ⟨_, rfl⟩
  rw [← hw]
  have h25_7 : fld cw 25 7 = 65#7 := hw ▸ hi (hi (hi (hi (hi (hi rfl)))))
  have h22_3 : fld cw 22 3 = a := hw ▸ hi (hi (hi (hi (hi (lo all_)))))
  have h16_3 : fld cw 16 3 = d := hw ▸ hi (hi (hi (lo all_)))
  have h8_1 : fld cw 8 1 = e := hw ▸ hi (lo all_)
  have h0_8 : fld cw 0 8 = p := hw ▸ lo all_
  have h19_3 : fld cw 19 3 = 0#3 := hw ▸ hi (hi (hi (hi (lo rfl))))
  have h12_4 : fld cw 12 4 = 8#4 := hw ▸ hi (hi (lo rfl))
  have h10_2 : fld cw 10 2 = 0#2 := hw ▸ hi (hi (lo rfl))
  have h9_1 : fld cw 9 1 = 0#1 := hw ▸ hi (hi (lo rfl))
  clear hw
  refine (show decodeElement cw = Decode.elemIf cw 0x41 (.elemLfin (fld cw 22 3) (fld cw 16 3) (fld cw 8 1) (fld cw 0 8)) by unfold decodeElement; rw [h25_7]; rfl).trans ?_
  refine (elem_ok ?_).trans ?_
  · simp only [h22_3, h19_3, h16_3, h12_4, h10_2, h9_1, h0_8]
    exact eq_of_beq hwf
  · simp only [h22_3, h16_3, h8_1, h0_8]

theorem Sys2Proof.Laws.RoundTrip.elemBound (a : BitVec 3) (b : BitVec 3) (d : BitVec 3) (e : BitVec 1) (p : BitVec 8) : Statement (.elemBound a b d e p) := by
  intro hwf
  refine element_back ?_
  obtain ⟨cw, hw⟩ : ∃ cw : Code, cw = 88#7 ++ a ++ b ++ d ++ 16#7 ++ e ++ p := ⟨_, rfl⟩
  rw [← hw]
  have h25_7 : fld cw 25 7 = 88#7 := hw ▸ hi (hi (hi (hi (hi (hi rfl)))))
  have h22_3 : fld cw 22 3 = a := hw ▸ hi (hi (hi (hi (hi (lo all_)))))
  have h19_3 : fld cw 19 3 = b := hw ▸ hi (hi (hi (hi (lo all_))))
  have h16_3 : fld cw 16 3 = d := hw ▸ hi (hi (hi (lo all_)))
  have h8_1 : fld cw 8 1 = e := hw ▸ hi (lo all_)
  have h0_8 : fld cw 0 8 = p := hw ▸ lo all_
  have h12_4 : fld cw 12 4 = 2#4 := hw ▸ hi (hi (lo rfl))
  have h10_2 : fld cw 10 2 = 0#2 := hw ▸ hi (hi (lo rfl))
  have h9_1 : fld cw 9 1 = 0#1 := hw ▸ hi (hi (lo rfl))
  clear hw
  refine (show decodeElement cw = Decode.elemIf cw 0x58 (.elemBound (fld cw 22 3) (fld cw 19 3) (fld cw 16 3) (fld cw 8 1) (fld cw 0 8)) by unfold decodeElement; rw [h25_7]; rfl).trans ?_
  refine (elem_ok ?_).trans ?_
  · simp only [h22_3, h19_3, h16_3, h12_4, h10_2, h9_1, h0_8]
    exact eq_of_beq hwf
  · simp only [h22_3, h19_3, h16_3, h8_1, h0_8]

theorem Sys2Proof.Laws.RoundTrip.elemErrgen (a : BitVec 3) (d : BitVec 3) (e : BitVec 1) (p : BitVec 8) : Statement (.elemErrgen a d e p) := by
  intro hwf
  refine element_back ?_
  obtain ⟨cw, hw⟩ : ∃ cw : Code, cw = 89#7 ++ a ++ 0#3 ++ d ++ 16#7 ++ e ++ p := ⟨_, rfl⟩
  rw [← hw]
  have h25_7 : fld cw 25 7 = 89#7 := hw ▸ hi (hi (hi (hi (hi (hi rfl)))))
  have h22_3 : fld cw 22 3 = a := hw ▸ hi (hi (hi (hi (hi (lo all_)))))
  have h16_3 : fld cw 16 3 = d := hw ▸ hi (hi (hi (lo all_)))
  have h8_1 : fld cw 8 1 = e := hw ▸ hi (lo all_)
  have h0_8 : fld cw 0 8 = p := hw ▸ lo all_
  have h19_3 : fld cw 19 3 = 0#3 := hw ▸ hi (hi (hi (hi (lo rfl))))
  have h12_4 : fld cw 12 4 = 2#4 := hw ▸ hi (hi (lo rfl))
  have h10_2 : fld cw 10 2 = 0#2 := hw ▸ hi (hi (lo rfl))
  have h9_1 : fld cw 9 1 = 0#1 := hw ▸ hi (hi (lo rfl))
  clear hw
  refine (show decodeElement cw = Decode.elemIf cw 0x59 (.elemErrgen (fld cw 22 3) (fld cw 16 3) (fld cw 8 1) (fld cw 0 8)) by unfold decodeElement; rw [h25_7]; rfl).trans ?_
  refine (elem_ok ?_).trans ?_
  · simp only [h22_3, h19_3, h16_3, h12_4, h10_2, h9_1, h0_8]
    exact eq_of_beq hwf
  · simp only [h22_3, h16_3, h8_1, h0_8]

theorem Sys2Proof.Laws.RoundTrip.elemSink (a : BitVec 3) (t : BitVec 4) (r : BitVec 2) (e : BitVec 1) (p : BitVec 8) : Statement (.elemSink a t r e p) := by
  intro hwf
  refine element_back ?_
  obtain ⟨cw, hw⟩ : ∃ cw : Code, cw = 90#7 ++ a ++ 7#6 ++ t ++ r ++ 0#1 ++ e ++ p := ⟨_, rfl⟩
  rw [← hw]
  have h25_7 : fld cw 25 7 = 90#7 := hw ▸ hi (hi (hi (hi (hi (hi (hi rfl))))))
  have h22_3 : fld cw 22 3 = a := hw ▸ hi (hi (hi (hi (hi (hi (lo all_))))))
  have h12_4 : fld cw 12 4 = t := hw ▸ hi (hi (hi (hi (lo all_))))
  have h10_2 : fld cw 10 2 = r := hw ▸ hi (hi (hi (lo all_)))
  have h8_1 : fld cw 8 1 = e := hw ▸ hi (lo all_)
  have h0_8 : fld cw 0 8 = p := hw ▸ lo all_
  have h19_3 : fld cw 19 3 = 0#3 := hw ▸ hi (hi (hi (hi (hi (lo rfl)))))
  have h16_3 : fld cw 16 3 = 7#3 := hw ▸ hi (hi (hi (hi (hi (lo rfl)))))
  have h9_1 : fld cw 9 1 = 0#1 := hw ▸ hi (hi (lo rfl))
  clear hw
  refine (show decodeElement cw = Decode.elemIf cw 0x5A (.elemSink (fld cw 22 3) (fld cw 12 4) (fld cw 10 2) (fld cw 8 1) (fld cw 0 8)) by unfold decodeElement; rw [h25_7]; rfl).trans ?_
  refine (elem_ok ?_).trans ?_
  · simp only [h22_3, h19_3, h16_3, h12_4, h10_2, h9_1, h0_8]
    exact eq_of_beq hwf
  · simp only [h22_3, h12_4, h10_2, h8_1, h0_8]

theorem Sys2Proof.Laws.RoundTrip.elemTlook (a : BitVec 3) (d : BitVec 3) (e : BitVec 1) (p : BitVec 8) : Statement (.elemTlook a d e p) := by
  intro hwf
  refine element_back ?_
  obtain ⟨cw, hw⟩ : ∃ cw : Code, cw = 92#7 ++ a ++ 0#3 ++ d ++ 16#7 ++ e ++ p := ⟨_, rfl⟩
  rw [← hw]
  have h25_7 : fld cw 25 7 = 92#7 := hw ▸ hi (hi (hi (hi (hi (hi rfl)))))
  have h22_3 : fld cw 22 3 = a := hw ▸ hi (hi (hi (hi (hi (lo all_)))))
  have h16_3 : fld cw 16 3 = d := hw ▸ hi (hi (hi (lo all_)))
  have h8_1 : fld cw 8 1 = e := hw ▸ hi (lo all_)
  have h0_8 : fld cw 0 8 = p := hw ▸ lo all_
  have h19_3 : fld cw 19 3 = 0#3 := hw ▸ hi (hi (hi (hi (lo rfl))))
  have h12_4 : fld cw 12 4 = 2#4 := hw ▸ hi (hi (lo rfl))
  have h10_2 : fld cw 10 2 = 0#2 := hw ▸ hi (hi (lo rfl))
  have h9_1 : fld cw 9 1 = 0#1 := hw ▸ hi (hi (lo rfl))
  clear hw
  refine (show decodeElement cw = Decode.elemIf cw 0x5C (.elemTlook (fld cw 22 3) (fld cw 16 3) (fld cw 8 1) (fld cw 0 8)) by unfold decodeElement; rw [h25_7]; rfl).trans ?_
  refine (elem_ok ?_).trans ?_
  · simp only [h22_3, h19_3, h16_3, h12_4, h10_2, h9_1, h0_8]
    exact eq_of_beq hwf
  · simp only [h22_3, h16_3, h8_1, h0_8]

theorem Sys2Proof.Laws.RoundTrip.elemRcsend (a : BitVec 3) (b : BitVec 3) (d : BitVec 3) (t : BitVec 4) (r : BitVec 2) (e : BitVec 1) (p : BitVec 8) : Statement (.elemRcsend a b d t r e p) := by
  intro hwf
  refine element_back ?_
  obtain ⟨cw, hw⟩ : ∃ cw : Code, cw = 96#7 ++ a ++ b ++ d ++ t ++ r ++ 0#1 ++ e ++ p := ⟨_, rfl⟩
  rw [← hw]
  have h25_7 : fld cw 25 7 = 96#7 := hw ▸ hi (hi (hi (hi (hi (hi (hi (hi rfl)))))))
  have h22_3 : fld cw 22 3 = a := hw ▸ hi (hi (hi (hi (hi (hi (hi (lo all_)))))))
  have h19_3 : fld cw 19 3 = b := hw ▸ hi (hi (hi (hi (hi (hi (lo all_))))))
  have h16_3 : fld cw 16 3 = d := hw ▸ hi (hi (hi (hi (hi (lo all_)))))
  have h12_4 : fld cw 12 4 = t := hw ▸ hi (hi (hi (hi (lo all_))))
  have h10_2 : fld cw 10 2 = r := hw ▸ hi (hi (hi (lo all_)))
  have h8_1 : fld cw 8 1 = e := hw ▸ hi (lo all_)
  have h0_8 : fld cw 0 8 = p := hw ▸ lo all_
  have h9_1 : fld cw 9 1 = 0#1 := hw ▸ hi (hi (lo rfl))
  clear hw
  refine (show decodeElement cw = Decode.elemIf cw 0x60 (.elemRcsend (fld cw 22 3) (fld cw 19 3) (fld cw 16 3) (fld cw 12 4) (fld cw 10 2) (fld cw 8 1) (fld cw 0 8)) by unfold decodeElement; rw [h25_7]; rfl).trans ?_
  refine (elem_ok ?_).trans ?_
  · simp only [h22_3, h19_3, h16_3, h12_4, h10_2, h9_1, h0_8]
    exact eq_of_beq hwf
  · simp only [h22_3, h19_3, h16_3, h12_4, h10_2, h8_1, h0_8]

theorem Sys2Proof.Laws.RoundTrip.elemPhasen (a : BitVec 3) (d : BitVec 3) (e : BitVec 1) (p : BitVec 8) : Statement (.elemPhasen a d e p) := by
  intro hwf
  refine element_back ?_
  obtain ⟨cw, hw⟩ : ∃ cw : Code, cw = 97#7 ++ a ++ 0#3 ++ d ++ 16#7 ++ e ++ p := ⟨_, rfl⟩
  rw [← hw]
  have h25_7 : fld cw 25 7 = 97#7 := hw ▸ hi (hi (hi (hi (hi (hi rfl)))))
  have h22_3 : fld cw 22 3 = a := hw ▸ hi (hi (hi (hi (hi (lo all_)))))
  have h16_3 : fld cw 16 3 = d := hw ▸ hi (hi (hi (lo all_)))
  have h8_1 : fld cw 8 1 = e := hw ▸ hi (lo all_)
  have h0_8 : fld cw 0 8 = p := hw ▸ lo all_
  have h19_3 : fld cw 19 3 = 0#3 := hw ▸ hi (hi (hi (hi (lo rfl))))
  have h12_4 : fld cw 12 4 = 2#4 := hw ▸ hi (hi (lo rfl))
  have h10_2 : fld cw 10 2 = 0#2 := hw ▸ hi (hi (lo rfl))
  have h9_1 : fld cw 9 1 = 0#1 := hw ▸ hi (hi (lo rfl))
  clear hw
  refine (show decodeElement cw = Decode.elemIf cw 0x61 (.elemPhasen (fld cw 22 3) (fld cw 16 3) (fld cw 8 1) (fld cw 0 8)) by unfold decodeElement; rw [h25_7]; rfl).trans ?_
  refine (elem_ok ?_).trans ?_
  · simp only [h22_3, h19_3, h16_3, h12_4, h10_2, h9_1, h0_8]
    exact eq_of_beq hwf
  · simp only [h22_3, h16_3, h8_1, h0_8]

theorem Sys2Proof.Laws.RoundTrip.elemThread (a : BitVec 3) (d : BitVec 3) (e : BitVec 1) (p : BitVec 8) : Statement (.elemThread a d e p) := by
  intro hwf
  refine element_back ?_
  obtain ⟨cw, hw⟩ : ∃ cw : Code, cw = 98#7 ++ a ++ 0#3 ++ d ++ 16#7 ++ e ++ p := ⟨_, rfl⟩
  rw [← hw]
  have h25_7 : fld cw 25 7 = 98#7 := hw ▸ hi (hi (hi (hi (hi (hi rfl)))))
  have h22_3 : fld cw 22 3 = a := hw ▸ hi (hi (hi (hi (hi (lo all_)))))
  have h16_3 : fld cw 16 3 = d := hw ▸ hi (hi (hi (lo all_)))
  have h8_1 : fld cw 8 1 = e := hw ▸ hi (lo all_)
  have h0_8 : fld cw 0 8 = p := hw ▸ lo all_
  have h19_3 : fld cw 19 3 = 0#3 := hw ▸ hi (hi (hi (hi (lo rfl))))
  have h12_4 : fld cw 12 4 = 2#4 := hw ▸ hi (hi (lo rfl))
  have h10_2 : fld cw 10 2 = 0#2 := hw ▸ hi (hi (lo rfl))
  have h9_1 : fld cw 9 1 = 0#1 := hw ▸ hi (hi (lo rfl))
  clear hw
  refine (show decodeElement cw = Decode.elemIf cw 0x62 (.elemThread (fld cw 22 3) (fld cw 16 3) (fld cw 8 1) (fld cw 0 8)) by unfold decodeElement; rw [h25_7]; rfl).trans ?_
  refine (elem_ok ?_).trans ?_
  · simp only [h22_3, h19_3, h16_3, h12_4, h10_2, h9_1, h0_8]
    exact eq_of_beq hwf
  · simp only [h22_3, h16_3, h8_1, h0_8]

theorem Sys2Proof.Laws.RoundTrip.elemCtok (a : BitVec 3) (d : BitVec 3) (e : BitVec 1) (p : BitVec 8) : Statement (.elemCtok a d e p) := by
  intro hwf
  refine element_back ?_
  obtain ⟨cw, hw⟩ : ∃ cw : Code, cw = 99#7 ++ a ++ 0#3 ++ d ++ 16#7 ++ e ++ p := ⟨_, rfl⟩
  rw [← hw]
  have h25_7 : fld cw 25 7 = 99#7 := hw ▸ hi (hi (hi (hi (hi (hi rfl)))))
  have h22_3 : fld cw 22 3 = a := hw ▸ hi (hi (hi (hi (hi (lo all_)))))
  have h16_3 : fld cw 16 3 = d := hw ▸ hi (hi (hi (lo all_)))
  have h8_1 : fld cw 8 1 = e := hw ▸ hi (lo all_)
  have h0_8 : fld cw 0 8 = p := hw ▸ lo all_
  have h19_3 : fld cw 19 3 = 0#3 := hw ▸ hi (hi (hi (hi (lo rfl))))
  have h12_4 : fld cw 12 4 = 2#4 := hw ▸ hi (hi (lo rfl))
  have h10_2 : fld cw 10 2 = 0#2 := hw ▸ hi (hi (lo rfl))
  have h9_1 : fld cw 9 1 = 0#1 := hw ▸ hi (hi (lo rfl))
  clear hw
  refine (show decodeElement cw = Decode.elemIf cw 0x63 (.elemCtok (fld cw 22 3) (fld cw 16 3) (fld cw 8 1) (fld cw 0 8)) by unfold decodeElement; rw [h25_7]; rfl).trans ?_
  refine (elem_ok ?_).trans ?_
  · simp only [h22_3, h19_3, h16_3, h12_4, h10_2, h9_1, h0_8]
    exact eq_of_beq hwf
  · simp only [h22_3, h16_3, h8_1, h0_8]

theorem Sys2Proof.Laws.RoundTrip.bld (asrc : BitVec 3) (dsrc : BitVec 3) (dst : BitVec 3) (typ : BitVec 4) (off : BitVec 12) (seq : BitVec 10) (pre : BitVec 10) (suc : BitVec 10) (first : BitVec 1) (last : BitVec 1) : Statement (.bld asrc dsrc dst typ off seq pre suc first last) := by
  intro hwf
  obtain ⟨u, hu⟩ : ∃ u : Code, u = 72#7 ++ asrc ++ dsrc ++ dst ++ typ ++ off := ⟨_, rfl⟩
  obtain ⟨v, hv⟩ : ∃ v : Code, v = seq ++ pre ++ suc ++ first ++ last := ⟨_, rfl⟩
  change NodeBack _ [72#7 ++ asrc ++ dsrc ++ dst ++ typ ++ off, seq ++ pre ++ suc ++ first ++ last]
  rw [← hu, ← hv]
  have hu25 : fld u 25 7 = 72#7 := hu ▸ hi (hi (hi (hi (hi rfl))))
  have hu22 : fld u 22 3 = asrc := hu ▸ hi (hi (hi (hi (lo all_))))
  have hu19 : fld u 19 3 = dsrc := hu ▸ hi (hi (hi (lo all_)))
  have hu16 : fld u 16 3 = dst := hu ▸ hi (hi (lo all_))
  have hu12 : fld u 12 4 = typ := hu ▸ hi (lo all_)
  have hu0 : fld u 0 12 = off := hu ▸ lo all_
  have hv22 : fld v 22 10 = seq := hv ▸ hi (hi (hi (hi all_)))
  have hv12 : fld v 12 10 = pre := hv ▸ hi (hi (hi (lo all_)))
  have hv2 : fld v 2 10 = suc := hv ▸ hi (hi (lo all_))
  have hv1 : fld v 1 1 = first := hv ▸ hi (lo all_)
  have hv0 : fld v 0 1 = last := hv ▸ lo all_
  clear hu hv
  refine node_back (NodeForm.ofWords u v) ?_ ?_
  · simp only [NodeForm.ofWords, hu25, hu22, hu19, hu16, hu12, hu0, hv22, hv12, hv2, hv1, hv0]; rfl
  · simp only [NodeForm.bad, NodeForm.ofWords, hu25, hu22, hu19, hu16, hu12, hu0, hv22, hv12, hv2, hv1, hv0]; exact eq_of_beq hwf

theorem Sys2Proof.Laws.RoundTrip.bst (asrc : BitVec 3) (dsrc : BitVec 3) (dst : BitVec 3) (typ : BitVec 4) (off : BitVec 12) (seq : BitVec 10) (pre : BitVec 10) (suc : BitVec 10) (first : BitVec 1) (last : BitVec 1) : Statement (.bst asrc dsrc dst typ off seq pre suc first last) := by
  intro hwf
  obtain ⟨u, hu⟩ : ∃ u : Code, u = 73#7 ++ asrc ++ dsrc ++ dst ++ typ ++ off := ⟨_, rfl⟩
  obtain ⟨v, hv⟩ : ∃ v : Code, v = seq ++ pre ++ suc ++ first ++ last := ⟨_, rfl⟩
  change NodeBack _ [73#7 ++ asrc ++ dsrc ++ dst ++ typ ++ off, seq ++ pre ++ suc ++ first ++ last]
  rw [← hu, ← hv]
  have hu25 : fld u 25 7 = 73#7 := hu ▸ hi (hi (hi (hi (hi rfl))))
  have hu22 : fld u 22 3 = asrc := hu ▸ hi (hi (hi (hi (lo all_))))
  have hu19 : fld u 19 3 = dsrc := hu ▸ hi (hi (hi (lo all_)))
  have hu16 : fld u 16 3 = dst := hu ▸ hi (hi (lo all_))
  have hu12 : fld u 12 4 = typ := hu ▸ hi (lo all_)
  have hu0 : fld u 0 12 = off := hu ▸ lo all_
  have hv22 : fld v 22 10 = seq := hv ▸ hi (hi (hi (hi all_)))
  have hv12 : fld v 12 10 = pre := hv ▸ hi (hi (hi (lo all_)))
  have hv2 : fld v 2 10 = suc := hv ▸ hi (hi (lo all_))
  have hv1 : fld v 1 1 = first := hv ▸ hi (lo all_)
  have hv0 : fld v 0 1 = last := hv ▸ lo all_
  clear hu hv
  refine node_back (NodeForm.ofWords u v) ?_ ?_
  · simp only [NodeForm.ofWords, hu25, hu22, hu19, hu16, hu12, hu0, hv22, hv12, hv2, hv1, hv0]; rfl
  · simp only [NodeForm.bad, NodeForm.ofWords, hu25, hu22, hu19, hu16, hu12, hu0, hv22, hv12, hv2, hv1, hv0]; exact eq_of_beq hwf

theorem Sys2Proof.Laws.RoundTrip.mld (asrc : BitVec 3) (dsrc : BitVec 3) (dst : BitVec 3) (typ : BitVec 4) (off : BitVec 12) (seq : BitVec 10) (pre : BitVec 10) (suc : BitVec 10) (first : BitVec 1) (last : BitVec 1) : Statement (.mld asrc dsrc dst typ off seq pre suc first last) := by
  intro hwf
  obtain ⟨u, hu⟩ : ∃ u : Code, u = 74#7 ++ asrc ++ dsrc ++ dst ++ typ ++ off := ⟨_, rfl⟩
  obtain ⟨v, hv⟩ : ∃ v : Code, v = seq ++ pre ++ suc ++ first ++ last := ⟨_, rfl⟩
  change NodeBack _ [74#7 ++ asrc ++ dsrc ++ dst ++ typ ++ off, seq ++ pre ++ suc ++ first ++ last]
  rw [← hu, ← hv]
  have hu25 : fld u 25 7 = 74#7 := hu ▸ hi (hi (hi (hi (hi rfl))))
  have hu22 : fld u 22 3 = asrc := hu ▸ hi (hi (hi (hi (lo all_))))
  have hu19 : fld u 19 3 = dsrc := hu ▸ hi (hi (hi (lo all_)))
  have hu16 : fld u 16 3 = dst := hu ▸ hi (hi (lo all_))
  have hu12 : fld u 12 4 = typ := hu ▸ hi (lo all_)
  have hu0 : fld u 0 12 = off := hu ▸ lo all_
  have hv22 : fld v 22 10 = seq := hv ▸ hi (hi (hi (hi all_)))
  have hv12 : fld v 12 10 = pre := hv ▸ hi (hi (hi (lo all_)))
  have hv2 : fld v 2 10 = suc := hv ▸ hi (hi (lo all_))
  have hv1 : fld v 1 1 = first := hv ▸ hi (lo all_)
  have hv0 : fld v 0 1 = last := hv ▸ lo all_
  clear hu hv
  refine node_back (NodeForm.ofWords u v) ?_ ?_
  · simp only [NodeForm.ofWords, hu25, hu22, hu19, hu16, hu12, hu0, hv22, hv12, hv2, hv1, hv0]; rfl
  · simp only [NodeForm.bad, NodeForm.ofWords, hu25, hu22, hu19, hu16, hu12, hu0, hv22, hv12, hv2, hv1, hv0]; exact eq_of_beq hwf

theorem Sys2Proof.Laws.RoundTrip.mst (asrc : BitVec 3) (dsrc : BitVec 3) (dst : BitVec 3) (typ : BitVec 4) (off : BitVec 12) (seq : BitVec 10) (pre : BitVec 10) (suc : BitVec 10) (first : BitVec 1) (last : BitVec 1) : Statement (.mst asrc dsrc dst typ off seq pre suc first last) := by
  intro hwf
  obtain ⟨u, hu⟩ : ∃ u : Code, u = 75#7 ++ asrc ++ dsrc ++ dst ++ typ ++ off := ⟨_, rfl⟩
  obtain ⟨v, hv⟩ : ∃ v : Code, v = seq ++ pre ++ suc ++ first ++ last := ⟨_, rfl⟩
  change NodeBack _ [75#7 ++ asrc ++ dsrc ++ dst ++ typ ++ off, seq ++ pre ++ suc ++ first ++ last]
  rw [← hu, ← hv]
  have hu25 : fld u 25 7 = 75#7 := hu ▸ hi (hi (hi (hi (hi rfl))))
  have hu22 : fld u 22 3 = asrc := hu ▸ hi (hi (hi (hi (lo all_))))
  have hu19 : fld u 19 3 = dsrc := hu ▸ hi (hi (hi (lo all_)))
  have hu16 : fld u 16 3 = dst := hu ▸ hi (hi (lo all_))
  have hu12 : fld u 12 4 = typ := hu ▸ hi (lo all_)
  have hu0 : fld u 0 12 = off := hu ▸ lo all_
  have hv22 : fld v 22 10 = seq := hv ▸ hi (hi (hi (hi all_)))
  have hv12 : fld v 12 10 = pre := hv ▸ hi (hi (hi (lo all_)))
  have hv2 : fld v 2 10 = suc := hv ▸ hi (hi (lo all_))
  have hv1 : fld v 1 1 = first := hv ▸ hi (lo all_)
  have hv0 : fld v 0 1 = last := hv ▸ lo all_
  clear hu hv
  refine node_back (NodeForm.ofWords u v) ?_ ?_
  · simp only [NodeForm.ofWords, hu25, hu22, hu19, hu16, hu12, hu0, hv22, hv12, hv2, hv1, hv0]; rfl
  · simp only [NodeForm.bad, NodeForm.ofWords, hu25, hu22, hu19, hu16, hu12, hu0, hv22, hv12, hv2, hv1, hv0]; exact eq_of_beq hwf

theorem Sys2Proof.Laws.RoundTrip.matAdd (asrc : BitVec 3) (dsrc : BitVec 3) (dst : BitVec 3) (typ : BitVec 4) (off : BitVec 12) (seq : BitVec 10) (pre : BitVec 10) (suc : BitVec 10) (first : BitVec 1) (last : BitVec 1) : Statement (.matAdd asrc dsrc dst typ off seq pre suc first last) := by
  intro hwf
  obtain ⟨u, hu⟩ : ∃ u : Code, u = 76#7 ++ asrc ++ dsrc ++ dst ++ typ ++ off := ⟨_, rfl⟩
  obtain ⟨v, hv⟩ : ∃ v : Code, v = seq ++ pre ++ suc ++ first ++ last := ⟨_, rfl⟩
  change NodeBack _ [76#7 ++ asrc ++ dsrc ++ dst ++ typ ++ off, seq ++ pre ++ suc ++ first ++ last]
  rw [← hu, ← hv]
  have hu25 : fld u 25 7 = 76#7 := hu ▸ hi (hi (hi (hi (hi rfl))))
  have hu22 : fld u 22 3 = asrc := hu ▸ hi (hi (hi (hi (lo all_))))
  have hu19 : fld u 19 3 = dsrc := hu ▸ hi (hi (hi (lo all_)))
  have hu16 : fld u 16 3 = dst := hu ▸ hi (hi (lo all_))
  have hu12 : fld u 12 4 = typ := hu ▸ hi (lo all_)
  have hu0 : fld u 0 12 = off := hu ▸ lo all_
  have hv22 : fld v 22 10 = seq := hv ▸ hi (hi (hi (hi all_)))
  have hv12 : fld v 12 10 = pre := hv ▸ hi (hi (hi (lo all_)))
  have hv2 : fld v 2 10 = suc := hv ▸ hi (hi (lo all_))
  have hv1 : fld v 1 1 = first := hv ▸ hi (lo all_)
  have hv0 : fld v 0 1 = last := hv ▸ lo all_
  clear hu hv
  refine node_back (NodeForm.ofWords u v) ?_ ?_
  · simp only [NodeForm.ofWords, hu25, hu22, hu19, hu16, hu12, hu0, hv22, hv12, hv2, hv1, hv0]; rfl
  · simp only [NodeForm.bad, NodeForm.ofWords, hu25, hu22, hu19, hu16, hu12, hu0, hv22, hv12, hv2, hv1, hv0]; exact eq_of_beq hwf

theorem Sys2Proof.Laws.RoundTrip.matFadd (asrc : BitVec 3) (dsrc : BitVec 3) (dst : BitVec 3) (typ : BitVec 4) (off : BitVec 12) (seq : BitVec 10) (pre : BitVec 10) (suc : BitVec 10) (first : BitVec 1) (last : BitVec 1) : Statement (.matFadd asrc dsrc dst typ off seq pre suc first last) := by
  intro hwf
  obtain ⟨u, hu⟩ : ∃ u : Code, u = 77#7 ++ asrc ++ dsrc ++ dst ++ typ ++ off := ⟨_, rfl⟩
  obtain ⟨v, hv⟩ : ∃ v : Code, v = seq ++ pre ++ suc ++ first ++ last := ⟨_, rfl⟩
  change NodeBack _ [77#7 ++ asrc ++ dsrc ++ dst ++ typ ++ off, seq ++ pre ++ suc ++ first ++ last]
  rw [← hu, ← hv]
  have hu25 : fld u 25 7 = 77#7 := hu ▸ hi (hi (hi (hi (hi rfl))))
  have hu22 : fld u 22 3 = asrc := hu ▸ hi (hi (hi (hi (lo all_))))
  have hu19 : fld u 19 3 = dsrc := hu ▸ hi (hi (hi (lo all_)))
  have hu16 : fld u 16 3 = dst := hu ▸ hi (hi (lo all_))
  have hu12 : fld u 12 4 = typ := hu ▸ hi (lo all_)
  have hu0 : fld u 0 12 = off := hu ▸ lo all_
  have hv22 : fld v 22 10 = seq := hv ▸ hi (hi (hi (hi all_)))
  have hv12 : fld v 12 10 = pre := hv ▸ hi (hi (hi (lo all_)))
  have hv2 : fld v 2 10 = suc := hv ▸ hi (hi (lo all_))
  have hv1 : fld v 1 1 = first := hv ▸ hi (lo all_)
  have hv0 : fld v 0 1 = last := hv ▸ lo all_
  clear hu hv
  refine node_back (NodeForm.ofWords u v) ?_ ?_
  · simp only [NodeForm.ofWords, hu25, hu22, hu19, hu16, hu12, hu0, hv22, hv12, hv2, hv1, hv0]; rfl
  · simp only [NodeForm.bad, NodeForm.ofWords, hu25, hu22, hu19, hu16, hu12, hu0, hv22, hv12, hv2, hv1, hv0]; exact eq_of_beq hwf

theorem Sys2Proof.Laws.RoundTrip.matAnd (asrc : BitVec 3) (dsrc : BitVec 3) (dst : BitVec 3) (typ : BitVec 4) (off : BitVec 12) (seq : BitVec 10) (pre : BitVec 10) (suc : BitVec 10) (first : BitVec 1) (last : BitVec 1) : Statement (.matAnd asrc dsrc dst typ off seq pre suc first last) := by
  intro hwf
  obtain ⟨u, hu⟩ : ∃ u : Code, u = 78#7 ++ asrc ++ dsrc ++ dst ++ typ ++ off := ⟨_, rfl⟩
  obtain ⟨v, hv⟩ : ∃ v : Code, v = seq ++ pre ++ suc ++ first ++ last := ⟨_, rfl⟩
  change NodeBack _ [78#7 ++ asrc ++ dsrc ++ dst ++ typ ++ off, seq ++ pre ++ suc ++ first ++ last]
  rw [← hu, ← hv]
  have hu25 : fld u 25 7 = 78#7 := hu ▸ hi (hi (hi (hi (hi rfl))))
  have hu22 : fld u 22 3 = asrc := hu ▸ hi (hi (hi (hi (lo all_))))
  have hu19 : fld u 19 3 = dsrc := hu ▸ hi (hi (hi (lo all_)))
  have hu16 : fld u 16 3 = dst := hu ▸ hi (hi (lo all_))
  have hu12 : fld u 12 4 = typ := hu ▸ hi (lo all_)
  have hu0 : fld u 0 12 = off := hu ▸ lo all_
  have hv22 : fld v 22 10 = seq := hv ▸ hi (hi (hi (hi all_)))
  have hv12 : fld v 12 10 = pre := hv ▸ hi (hi (hi (lo all_)))
  have hv2 : fld v 2 10 = suc := hv ▸ hi (hi (lo all_))
  have hv1 : fld v 1 1 = first := hv ▸ hi (lo all_)
  have hv0 : fld v 0 1 = last := hv ▸ lo all_
  clear hu hv
  refine node_back (NodeForm.ofWords u v) ?_ ?_
  · simp only [NodeForm.ofWords, hu25, hu22, hu19, hu16, hu12, hu0, hv22, hv12, hv2, hv1, hv0]; rfl
  · simp only [NodeForm.bad, NodeForm.ofWords, hu25, hu22, hu19, hu16, hu12, hu0, hv22, hv12, hv2, hv1, hv0]; exact eq_of_beq hwf

theorem Sys2Proof.Laws.RoundTrip.matOr (asrc : BitVec 3) (dsrc : BitVec 3) (dst : BitVec 3) (typ : BitVec 4) (off : BitVec 12) (seq : BitVec 10) (pre : BitVec 10) (suc : BitVec 10) (first : BitVec 1) (last : BitVec 1) : Statement (.matOr asrc dsrc dst typ off seq pre suc first last) := by
  intro hwf
  obtain ⟨u, hu⟩ : ∃ u : Code, u = 79#7 ++ asrc ++ dsrc ++ dst ++ typ ++ off := ⟨_, rfl⟩
  obtain ⟨v, hv⟩ : ∃ v : Code, v = seq ++ pre ++ suc ++ first ++ last := ⟨_, rfl⟩
  change NodeBack _ [79#7 ++ asrc ++ dsrc ++ dst ++ typ ++ off, seq ++ pre ++ suc ++ first ++ last]
  rw [← hu, ← hv]
  have hu25 : fld u 25 7 = 79#7 := hu ▸ hi (hi (hi (hi (hi rfl))))
  have hu22 : fld u 22 3 = asrc := hu ▸ hi (hi (hi (hi (lo all_))))
  have hu19 : fld u 19 3 = dsrc := hu ▸ hi (hi (hi (lo all_)))
  have hu16 : fld u 16 3 = dst := hu ▸ hi (hi (lo all_))
  have hu12 : fld u 12 4 = typ := hu ▸ hi (lo all_)
  have hu0 : fld u 0 12 = off := hu ▸ lo all_
  have hv22 : fld v 22 10 = seq := hv ▸ hi (hi (hi (hi all_)))
  have hv12 : fld v 12 10 = pre := hv ▸ hi (hi (hi (lo all_)))
  have hv2 : fld v 2 10 = suc := hv ▸ hi (hi (lo all_))
  have hv1 : fld v 1 1 = first := hv ▸ hi (lo all_)
  have hv0 : fld v 0 1 = last := hv ▸ lo all_
  clear hu hv
  refine node_back (NodeForm.ofWords u v) ?_ ?_
  · simp only [NodeForm.ofWords, hu25, hu22, hu19, hu16, hu12, hu0, hv22, hv12, hv2, hv1, hv0]; rfl
  · simp only [NodeForm.bad, NodeForm.ofWords, hu25, hu22, hu19, hu16, hu12, hu0, hv22, hv12, hv2, hv1, hv0]; exact eq_of_beq hwf

theorem Sys2Proof.Laws.RoundTrip.matMin (asrc : BitVec 3) (dsrc : BitVec 3) (dst : BitVec 3) (typ : BitVec 4) (off : BitVec 12) (seq : BitVec 10) (pre : BitVec 10) (suc : BitVec 10) (first : BitVec 1) (last : BitVec 1) : Statement (.matMin asrc dsrc dst typ off seq pre suc first last) := by
  intro hwf
  obtain ⟨u, hu⟩ : ∃ u : Code, u = 80#7 ++ asrc ++ dsrc ++ dst ++ typ ++ off := ⟨_, rfl⟩
  obtain ⟨v, hv⟩ : ∃ v : Code, v = seq ++ pre ++ suc ++ first ++ last := ⟨_, rfl⟩
  change NodeBack _ [80#7 ++ asrc ++ dsrc ++ dst ++ typ ++ off, seq ++ pre ++ suc ++ first ++ last]
  rw [← hu, ← hv]
  have hu25 : fld u 25 7 = 80#7 := hu ▸ hi (hi (hi (hi (hi rfl))))
  have hu22 : fld u 22 3 = asrc := hu ▸ hi (hi (hi (hi (lo all_))))
  have hu19 : fld u 19 3 = dsrc := hu ▸ hi (hi (hi (lo all_)))
  have hu16 : fld u 16 3 = dst := hu ▸ hi (hi (lo all_))
  have hu12 : fld u 12 4 = typ := hu ▸ hi (lo all_)
  have hu0 : fld u 0 12 = off := hu ▸ lo all_
  have hv22 : fld v 22 10 = seq := hv ▸ hi (hi (hi (hi all_)))
  have hv12 : fld v 12 10 = pre := hv ▸ hi (hi (hi (lo all_)))
  have hv2 : fld v 2 10 = suc := hv ▸ hi (hi (lo all_))
  have hv1 : fld v 1 1 = first := hv ▸ hi (lo all_)
  have hv0 : fld v 0 1 = last := hv ▸ lo all_
  clear hu hv
  refine node_back (NodeForm.ofWords u v) ?_ ?_
  · simp only [NodeForm.ofWords, hu25, hu22, hu19, hu16, hu12, hu0, hv22, hv12, hv2, hv1, hv0]; rfl
  · simp only [NodeForm.bad, NodeForm.ofWords, hu25, hu22, hu19, hu16, hu12, hu0, hv22, hv12, hv2, hv1, hv0]; exact eq_of_beq hwf

theorem Sys2Proof.Laws.RoundTrip.matMax (asrc : BitVec 3) (dsrc : BitVec 3) (dst : BitVec 3) (typ : BitVec 4) (off : BitVec 12) (seq : BitVec 10) (pre : BitVec 10) (suc : BitVec 10) (first : BitVec 1) (last : BitVec 1) : Statement (.matMax asrc dsrc dst typ off seq pre suc first last) := by
  intro hwf
  obtain ⟨u, hu⟩ : ∃ u : Code, u = 81#7 ++ asrc ++ dsrc ++ dst ++ typ ++ off := ⟨_, rfl⟩
  obtain ⟨v, hv⟩ : ∃ v : Code, v = seq ++ pre ++ suc ++ first ++ last := ⟨_, rfl⟩
  change NodeBack _ [81#7 ++ asrc ++ dsrc ++ dst ++ typ ++ off, seq ++ pre ++ suc ++ first ++ last]
  rw [← hu, ← hv]
  have hu25 : fld u 25 7 = 81#7 := hu ▸ hi (hi (hi (hi (hi rfl))))
  have hu22 : fld u 22 3 = asrc := hu ▸ hi (hi (hi (hi (lo all_))))
  have hu19 : fld u 19 3 = dsrc := hu ▸ hi (hi (hi (lo all_)))
  have hu16 : fld u 16 3 = dst := hu ▸ hi (hi (lo all_))
  have hu12 : fld u 12 4 = typ := hu ▸ hi (lo all_)
  have hu0 : fld u 0 12 = off := hu ▸ lo all_
  have hv22 : fld v 22 10 = seq := hv ▸ hi (hi (hi (hi all_)))
  have hv12 : fld v 12 10 = pre := hv ▸ hi (hi (hi (lo all_)))
  have hv2 : fld v 2 10 = suc := hv ▸ hi (hi (lo all_))
  have hv1 : fld v 1 1 = first := hv ▸ hi (lo all_)
  have hv0 : fld v 0 1 = last := hv ▸ lo all_
  clear hu hv
  refine node_back (NodeForm.ofWords u v) ?_ ?_
  · simp only [NodeForm.ofWords, hu25, hu22, hu19, hu16, hu12, hu0, hv22, hv12, hv2, hv1, hv0]; rfl
  · simp only [NodeForm.bad, NodeForm.ofWords, hu25, hu22, hu19, hu16, hu12, hu0, hv22, hv12, hv2, hv1, hv0]; exact eq_of_beq hwf

theorem Sys2Proof.Laws.RoundTrip.matSwap (asrc : BitVec 3) (dsrc : BitVec 3) (dst : BitVec 3) (typ : BitVec 4) (off : BitVec 12) (seq : BitVec 10) (pre : BitVec 10) (suc : BitVec 10) (first : BitVec 1) (last : BitVec 1) : Statement (.matSwap asrc dsrc dst typ off seq pre suc first last) := by
  intro hwf
  obtain ⟨u, hu⟩ : ∃ u : Code, u = 82#7 ++ asrc ++ dsrc ++ dst ++ typ ++ off := ⟨_, rfl⟩
  obtain ⟨v, hv⟩ : ∃ v : Code, v = seq ++ pre ++ suc ++ first ++ last := ⟨_, rfl⟩
  change NodeBack _ [82#7 ++ asrc ++ dsrc ++ dst ++ typ ++ off, seq ++ pre ++ suc ++ first ++ last]
  rw [← hu, ← hv]
  have hu25 : fld u 25 7 = 82#7 := hu ▸ hi (hi (hi (hi (hi rfl))))
  have hu22 : fld u 22 3 = asrc := hu ▸ hi (hi (hi (hi (lo all_))))
  have hu19 : fld u 19 3 = dsrc := hu ▸ hi (hi (hi (lo all_)))
  have hu16 : fld u 16 3 = dst := hu ▸ hi (hi (lo all_))
  have hu12 : fld u 12 4 = typ := hu ▸ hi (lo all_)
  have hu0 : fld u 0 12 = off := hu ▸ lo all_
  have hv22 : fld v 22 10 = seq := hv ▸ hi (hi (hi (hi all_)))
  have hv12 : fld v 12 10 = pre := hv ▸ hi (hi (hi (lo all_)))
  have hv2 : fld v 2 10 = suc := hv ▸ hi (hi (lo all_))
  have hv1 : fld v 1 1 = first := hv ▸ hi (lo all_)
  have hv0 : fld v 0 1 = last := hv ▸ lo all_
  clear hu hv
  refine node_back (NodeForm.ofWords u v) ?_ ?_
  · simp only [NodeForm.ofWords, hu25, hu22, hu19, hu16, hu12, hu0, hv22, hv12, hv2, hv1, hv0]; rfl
  · simp only [NodeForm.bad, NodeForm.ofWords, hu25, hu22, hu19, hu16, hu12, hu0, hv22, hv12, hv2, hv1, hv0]; exact eq_of_beq hwf

theorem Sys2Proof.Laws.RoundTrip.routerTokenHop (x0 : Nat) (x1 : Nat) (x2 : Nat) (x3 : Nat) : Statement (.routerTokenHop x0 x1 x2 x3) :=
  fun _ => rfl

theorem Sys2Proof.Laws.RoundTrip.actorFiringStart (x0 : Nat) : Statement (.actorFiringStart x0) :=
  fun _ => rfl

theorem Sys2Proof.Laws.RoundTrip.firingStep (x0 : Nat) : Statement (.firingStep x0) :=
  fun _ => rfl

theorem Sys2Proof.Laws.RoundTrip.waveArrival (x0 : Nat) (x1 : Nat) (x2 : Nat) : Statement (.waveArrival x0 x1 x2) :=
  fun _ => rfl

theorem Sys2Proof.Laws.RoundTrip.tileReconfigure (x0 : Nat) : Statement (.tileReconfigure x0) :=
  fun _ => rfl

theorem Sys2Proof.Laws.RoundTrip.configLoadComplete (x0 : Nat) (x1 : Nat) : Statement (.configLoadComplete x0 x1) :=
  fun _ => rfl

theorem Sys2Proof.Laws.RoundTrip.configLoadRefused (x0 : Nat) (x1 : Nat) : Statement (.configLoadRefused x0 x1) :=
  fun _ => rfl

theorem Sys2Proof.Laws.RoundTrip.threadEnqueue (x0 : Nat) (x1 : Nat) : Statement (.threadEnqueue x0 x1) :=
  fun _ => rfl

theorem Sys2Proof.Laws.RoundTrip.blockSchedulerSelect (x0 : Nat) : Statement (.blockSchedulerSelect x0) :=
  fun _ => rfl

theorem Sys2Proof.Laws.RoundTrip.memNodePerform (x0 : Nat) (x1 : Nat) : Statement (.memNodePerform x0 x1) :=
  fun _ => rfl

theorem Sys2Proof.Laws.RoundTrip.memNodeReturn (x0 : Nat) (x1 : Nat) : Statement (.memNodeReturn x0 x1) :=
  fun _ => rfl

theorem Sys2Proof.Laws.RoundTrip.edgeReadElement (x0 : Nat) (x1 : Nat) : Statement (.edgeReadElement x0 x1) :=
  fun _ => rfl

theorem Sys2Proof.Laws.RoundTrip.edgeWriteCommit (x0 : Nat) (x1 : Nat) : Statement (.edgeWriteCommit x0 x1) :=
  fun _ => rfl

theorem Sys2Proof.Laws.RoundTrip.wideEngineBeat (x0 : Nat) (x1 : Nat) : Statement (.wideEngineBeat x0 x1) :=
  fun _ => rfl

theorem Sys2Proof.Laws.RoundTrip.ringBeat (x0 : Nat) (x1 : Nat) : Statement (.ringBeat x0 x1) :=
  fun _ => rfl

theorem Sys2Proof.Laws.RoundTrip.kindleHandoff (x0 : Nat) (x1 : Nat) (x2 : Nat) : Statement (.kindleHandoff x0 x1 x2) :=
  fun _ => rfl

theorem Sys2Proof.Laws.RoundTrip.pressMma (x0 : Nat) : Statement (.pressMma x0) :=
  fun _ => rfl

theorem Sys2Proof.Laws.RoundTrip.pressMmaBeat (x0 : Nat) : Statement (.pressMmaBeat x0) :=
  fun _ => rfl

theorem Sys2Proof.Laws.RoundTrip.pressRead (x0 : Nat) : Statement (.pressRead x0) :=
  fun _ => rfl

theorem Sys2Proof.Laws.RoundTrip.pressDrain (x0 : Nat) : Statement (.pressDrain x0) :=
  fun _ => rfl

theorem Sys2Proof.Laws.RoundTrip.pressDrainBeat (x0 : Nat) : Statement (.pressDrainBeat x0) :=
  fun _ => rfl

theorem Sys2Proof.Laws.RoundTrip.pressZero (x0 : Nat) : Statement (.pressZero x0) :=
  fun _ => rfl

theorem Sys2Proof.Laws.RoundTrip.pressLoadw (x0 : Nat) : Statement (.pressLoadw x0) :=
  fun _ => rfl

theorem Sys2Proof.Laws.RoundTrip.flueTokenExp2 (x0 : Nat) : Statement (.flueTokenExp2 x0) :=
  fun _ => rfl

theorem Sys2Proof.Laws.RoundTrip.flueTokenLog2 (x0 : Nat) : Statement (.flueTokenLog2 x0) :=
  fun _ => rfl

theorem Sys2Proof.Laws.RoundTrip.flueTokenRcp (x0 : Nat) : Statement (.flueTokenRcp x0) :=
  fun _ => rfl

theorem Sys2Proof.Laws.RoundTrip.flueTokenRsqrt (x0 : Nat) : Statement (.flueTokenRsqrt x0) :=
  fun _ => rfl

theorem Sys2Proof.Laws.RoundTrip.flueTokenSqrt (x0 : Nat) : Statement (.flueTokenSqrt x0) :=
  fun _ => rfl

theorem Sys2Proof.Laws.RoundTrip.flueTokenSinpi (x0 : Nat) : Statement (.flueTokenSinpi x0) :=
  fun _ => rfl

theorem Sys2Proof.Laws.RoundTrip.flueTokenCospi (x0 : Nat) : Statement (.flueTokenCospi x0) :=
  fun _ => rfl

theorem Sys2Proof.Laws.RoundTrip.flueTokenTanh (x0 : Nat) : Statement (.flueTokenTanh x0) :=
  fun _ => rfl

theorem Sys2Proof.Laws.RoundTrip.flueTokenSigm (x0 : Nat) : Statement (.flueTokenSigm x0) :=
  fun _ => rfl

theorem Sys2Proof.Laws.RoundTrip.flueTokenMalformed (x0 : Nat) : Statement (.flueTokenMalformed x0) :=
  fun _ => rfl

theorem Sys2Proof.Laws.RoundTrip.flueReply (x0 : Nat) : Statement (.flueReply x0) :=
  fun _ => rfl

theorem Sys2Proof.Laws.RoundTrip.copyUnit (x0 : Nat) (x1 : Nat) : Statement (.copyUnit x0 x1) :=
  fun _ => rfl

theorem Sys2Proof.Laws.RoundTrip.stokerAccessComplete (x0 : Nat) : Statement (.stokerAccessComplete x0) :=
  fun _ => rfl

theorem Sys2Proof.Laws.RoundTrip.memorySideApply (x0 : Nat) : Statement (.memorySideApply x0) :=
  fun _ => rfl

theorem Sys2Proof.Laws.RoundTrip.phasedWriteAtHome (x0 : Nat) : Statement (.phasedWriteAtHome x0) :=
  fun _ => rfl

theorem Sys2Proof.Laws.RoundTrip.sweeperReturn (x0 : Nat) (x1 : Nat) : Statement (.sweeperReturn x0 x1) :=
  fun _ => rfl

theorem Sys2Proof.Laws.RoundTrip.phaseBoundaryComplete (x0 : Nat) (x1 : Nat) (x2 : Nat) : Statement (.phaseBoundaryComplete x0 x1 x2) :=
  fun _ => rfl

theorem Sys2Proof.Laws.RoundTrip.contextWake (x0 : Nat) : Statement (.contextWake x0) :=
  fun _ => rfl

theorem Sys2Proof.Laws.RoundTrip.asyncEventTrap (x0 : Nat) : Statement (.asyncEventTrap x0) :=
  fun _ => rfl

theorem Sys2Proof.Laws.RoundTrip.watchdogExpiry (x0 : Nat) : Statement (.watchdogExpiry x0) :=
  fun _ => rfl

theorem Sys2Proof.Laws.RoundTrip.drainComplete (x0 : Nat) : Statement (.drainComplete x0) :=
  fun _ => rfl

theorem Sys2Proof.Laws.RoundTrip.drainEscalation (x0 : Nat) : Statement (.drainEscalation x0) :=
  fun _ => rfl

theorem Sys2Proof.Laws.RoundTrip.freezeReadoutComplete (x0 : Nat) : Statement (.freezeReadoutComplete x0) :=
  fun _ => rfl

theorem Sys2Proof.Laws.RoundTrip.relocationComplete (x0 : Nat) : Statement (.relocationComplete x0) :=
  fun _ => rfl

theorem Sys2Proof.Laws.RoundTrip.placerServe (x0 : Nat) : Statement (.placerServe x0) :=
  fun _ => rfl

theorem Sys2Proof.Laws.RoundTrip.leaseEnd (x0 : Nat) : Statement (.leaseEnd x0) :=
  fun _ => rfl

theorem Sys2Proof.Laws.RoundTrip.launch (x0 : Nat) (x1 : Nat) : Statement (.launch x0 x1) :=
  fun _ => rfl

theorem Sys2Proof.Laws.RoundTrip.indirect (x0 : Nat) (x1 : Nat) : Statement (.indirect x0 x1) :=
  fun _ => rfl

theorem Sys2Proof.Laws.RoundTrip.pred (x0 : Nat) (x1 : Nat) : Statement (.pred x0 x1) :=
  fun _ => rfl

theorem Sys2Proof.Laws.RoundTrip.loop (x0 : Nat) (x1 : Nat) : Statement (.loop x0 x1) :=
  fun _ => rfl

theorem Sys2Proof.Laws.RoundTrip.waitPacket (x0 : Nat) (x1 : Nat) : Statement (.waitPacket x0 x1) :=
  fun _ => rfl

theorem Sys2Proof.Laws.RoundTrip.waitPacketSatisfied (x0 : Nat) (x1 : Nat) : Statement (.waitPacketSatisfied x0 x1) :=
  fun _ => rfl

theorem Sys2Proof.Laws.RoundTrip.waitPacketTimeout (x0 : Nat) (x1 : Nat) : Statement (.waitPacketTimeout x0 x1) :=
  fun _ => rfl

theorem Sys2Proof.Laws.RoundTrip.signal (x0 : Nat) (x1 : Nat) : Statement (.signal x0 x1) :=
  fun _ => rfl

theorem Sys2Proof.Laws.RoundTrip.copyPacket (x0 : Nat) (x1 : Nat) : Statement (.copyPacket x0 x1) :=
  fun _ => rfl

theorem Sys2Proof.Laws.RoundTrip.prefetchPacket (x0 : Nat) (x1 : Nat) : Statement (.prefetchPacket x0 x1) :=
  fun _ => rfl

theorem Sys2Proof.Laws.RoundTrip.discardPacket (x0 : Nat) (x1 : Nat) : Statement (.discardPacket x0 x1) :=
  fun _ => rfl

theorem Sys2Proof.Laws.RoundTrip.fetchFence (x0 : Nat) (x1 : Nat) : Statement (.fetchFence x0 x1) :=
  fun _ => rfl

theorem Sys2Proof.Laws.RoundTrip.commandProcessorRestart (x0 : Nat) : Statement (.commandProcessorRestart x0) :=
  fun _ => rfl

theorem Sys2Proof.Laws.RoundTrip.registerWrite (x0 : Nat) (x1 : Nat) (x2 : Word) : Statement (.registerWrite x0 x1 x2) :=
  fun _ => rfl

theorem Sys2Proof.Laws.RoundTrip.pcfgWrite (x0 : Nat) (x1 : Nat) (x2 : Word) : Statement (.pcfgWrite x0 x1 x2) :=
  fun _ => rfl

theorem Sys2Proof.Laws.RoundTrip.rightsWrite (x0 : Nat) (x1 : Nat) (x2 : Word) : Statement (.rightsWrite x0 x1 x2) :=
  fun _ => rfl

theorem Sys2Proof.Laws.RoundTrip.dietabWrite (x0 : Nat) (x1 : Nat) (x2 : Word) : Statement (.dietabWrite x0 x1 x2) :=
  fun _ => rfl

theorem Sys2Proof.Laws.RoundTrip.allotWrite (x0 : Nat) (x1 : Nat) (x2 : Word) : Statement (.allotWrite x0 x1 x2) :=
  fun _ => rfl

theorem Sys2Proof.Laws.RoundTrip.poolsegWrite (x0 : Nat) (x1 : Nat) (x2 : Word) : Statement (.poolsegWrite x0 x1 x2) :=
  fun _ => rfl

theorem Sys2Proof.Laws.RoundTrip.ivcmd (x0 : Nat) (x1 : Nat) (x2 : Word) : Statement (.ivcmd x0 x1 x2) :=
  fun _ => rfl

theorem Sys2Proof.Laws.RoundTrip.ivcmdDone (x0 : Nat) : Statement (.ivcmdDone x0) :=
  fun _ => rfl

theorem Sys2Proof.Laws.RoundTrip.migrateFrame (x0 : Nat) (x1 : Nat) (x2 : Nat) : Statement (.migrateFrame x0 x1 x2) :=
  fun _ => rfl

theorem Sys2Proof.Laws.RoundTrip.lend (x0 : Nat) (x1 : Nat) (x2 : Word) : Statement (.lend x0 x1 x2) :=
  fun _ => rfl

theorem Sys2Proof.Laws.RoundTrip.queueEnable (x0 : Nat) (x1 : Nat) (x2 : Word) : Statement (.queueEnable x0 x1 x2) :=
  fun _ => rfl

theorem Sys2Proof.Laws.RoundTrip.queueDisable (x0 : Nat) (x1 : Nat) (x2 : Word) : Statement (.queueDisable x0 x1 x2) :=
  fun _ => rfl

theorem Sys2Proof.Laws.RoundTrip.queueResume (x0 : Nat) (x1 : Nat) (x2 : Word) : Statement (.queueResume x0 x1 x2) :=
  fun _ => rfl

theorem Sys2Proof.Laws.RoundTrip.qtailDoorbell (x0 : Nat) (x1 : Nat) (x2 : Word) : Statement (.qtailDoorbell x0 x1 x2) :=
  fun _ => rfl

theorem Sys2Proof.Laws.RoundTrip.cringHeadWrite (x0 : Nat) (x1 : Nat) (x2 : Word) : Statement (.cringHeadWrite x0 x1 x2) :=
  fun _ => rfl

theorem Sys2Proof.Laws.RoundTrip.hqheadWrite (x0 : Nat) (x1 : Nat) (x2 : Word) : Statement (.hqheadWrite x0 x1 x2) :=
  fun _ => rfl

theorem Sys2Proof.Laws.RoundTrip.faultReplyResume (x0 : Nat) (x1 : Nat) (x2 : Word) : Statement (.faultReplyResume x0 x1 x2) :=
  fun _ => rfl

theorem Sys2Proof.Laws.RoundTrip.faultReplySave (x0 : Nat) (x1 : Nat) (x2 : Word) : Statement (.faultReplySave x0 x1 x2) :=
  fun _ => rfl

theorem Sys2Proof.Laws.RoundTrip.faultReplyEnd (x0 : Nat) (x1 : Nat) (x2 : Word) : Statement (.faultReplyEnd x0 x1 x2) :=
  fun _ => rfl

theorem Sys2Proof.Laws.RoundTrip.dbgHaltUnit (x0 : Nat) (x1 : Nat) (x2 : Word) : Statement (.dbgHaltUnit x0 x1 x2) :=
  fun _ => rfl

theorem Sys2Proof.Laws.RoundTrip.dbgResumeUnit (x0 : Nat) (x1 : Nat) (x2 : Word) : Statement (.dbgResumeUnit x0 x1 x2) :=
  fun _ => rfl

theorem Sys2Proof.Laws.RoundTrip.dbgHaltLease (x0 : Nat) (x1 : Nat) (x2 : Word) : Statement (.dbgHaltLease x0 x1 x2) :=
  fun _ => rfl

theorem Sys2Proof.Laws.RoundTrip.dbgResumeLease (x0 : Nat) (x1 : Nat) (x2 : Word) : Statement (.dbgResumeLease x0 x1 x2) :=
  fun _ => rfl

theorem Sys2Proof.Laws.RoundTrip.dbgReadWord (x0 : Nat) (x1 : Nat) (x2 : Word) : Statement (.dbgReadWord x0 x1 x2) :=
  fun _ => rfl

theorem Sys2Proof.Laws.RoundTrip.dbgWriteWord (x0 : Nat) (x1 : Nat) (x2 : Word) : Statement (.dbgWriteWord x0 x1 x2) :=
  fun _ => rfl

theorem Sys2Proof.Laws.RoundTrip.mstatFullRetrain (x0 : Nat) (x1 : Nat) (x2 : Word) : Statement (.mstatFullRetrain x0 x1 x2) :=
  fun _ => rfl

theorem Sys2Proof.Laws.RoundTrip.mstatClear (x0 : Nat) (x1 : Nat) (x2 : Word) : Statement (.mstatClear x0 x1 x2) :=
  fun _ => rfl

theorem Sys2Proof.Laws.RoundTrip.dcfgWrite (x0 : Nat) (x1 : Nat) (x2 : Word) : Statement (.dcfgWrite x0 x1 x2) :=
  fun _ => rfl

theorem Sys2Proof.Laws.RoundTrip.pkgidWrite (x0 : Nat) (x1 : Nat) (x2 : Word) : Statement (.pkgidWrite x0 x1 x2) :=
  fun _ => rfl

theorem Sys2Proof.Laws.RoundTrip.gstatEnable (x0 : Nat) (x1 : Nat) (x2 : Word) : Statement (.gstatEnable x0 x1 x2) :=
  fun _ => rfl

theorem Sys2Proof.Laws.RoundTrip.gstatClear (x0 : Nat) (x1 : Nat) (x2 : Word) : Statement (.gstatClear x0 x1 x2) :=
  fun _ => rfl

theorem Sys2Proof.Laws.RoundTrip.connSetup (x0 : Nat) (x1 : Nat) (x2 : Word) : Statement (.connSetup x0 x1 x2) :=
  fun _ => rfl

theorem Sys2Proof.Laws.RoundTrip.connTeardown (x0 : Nat) (x1 : Nat) (x2 : Word) : Statement (.connTeardown x0 x1 x2) :=
  fun _ => rfl

theorem Sys2Proof.Laws.RoundTrip.circuitSetupDone (x0 : Nat) : Statement (.circuitSetupDone x0) :=
  fun _ => rfl

theorem Sys2Proof.Laws.RoundTrip.circuitTeardownDone (x0 : Nat) : Statement (.circuitTeardownDone x0) :=
  fun _ => rfl

theorem Sys2Proof.Laws.RoundTrip.asrcWrite (x0 : Nat) (x1 : Nat) (x2 : Word) : Statement (.asrcWrite x0 x1 x2) :=
  fun _ => rfl

theorem Sys2Proof.Laws.RoundTrip.mext (x0 : Nat) (x1 : Nat) (x2 : Word) : Statement (.mext x0 x1 x2) :=
  fun _ => rfl

theorem Sys2Proof.Laws.RoundTrip.quarantine (x0 : Nat) (x1 : Nat) (x2 : Word) : Statement (.quarantine x0 x1 x2) :=
  fun _ => rfl

theorem Sys2Proof.Laws.RoundTrip.quarantineLift (x0 : Nat) (x1 : Nat) (x2 : Word) : Statement (.quarantineLift x0 x1 x2) :=
  fun _ => rfl

theorem Sys2Proof.Laws.RoundTrip.ftcmd (x0 : Nat) (x1 : Nat) (x2 : Word) : Statement (.ftcmd x0 x1 x2) :=
  fun _ => rfl

theorem Sys2Proof.Laws.RoundTrip.ftcmdDone : Statement (.ftcmdDone) :=
  fun _ => rfl

theorem Sys2Proof.Laws.RoundTrip.getVersion (x0 : Nat) (x1 : Nat) (x2 : Word) : Statement (.getVersion x0 x1 x2) :=
  fun _ => rfl

theorem Sys2Proof.Laws.RoundTrip.getCapabilities (x0 : Nat) (x1 : Nat) (x2 : Word) : Statement (.getCapabilities x0 x1 x2) :=
  fun _ => rfl

theorem Sys2Proof.Laws.RoundTrip.negotiateAlgorithms (x0 : Nat) (x1 : Nat) (x2 : Word) : Statement (.negotiateAlgorithms x0 x1 x2) :=
  fun _ => rfl

theorem Sys2Proof.Laws.RoundTrip.getCertificate (x0 : Nat) (x1 : Nat) (x2 : Word) : Statement (.getCertificate x0 x1 x2) :=
  fun _ => rfl

theorem Sys2Proof.Laws.RoundTrip.challenge (x0 : Nat) (x1 : Nat) (x2 : Word) : Statement (.challenge x0 x1 x2) :=
  fun _ => rfl

theorem Sys2Proof.Laws.RoundTrip.getMeasurements (x0 : Nat) (x1 : Nat) (x2 : Word) : Statement (.getMeasurements x0 x1 x2) :=
  fun _ => rfl

theorem Sys2Proof.Laws.RoundTrip.spdmUnsupportedRequest (x0 : Nat) (x1 : Nat) (x2 : Word) : Statement (.spdmUnsupportedRequest x0 x1 x2) :=
  fun _ => rfl

theorem Sys2Proof.Laws.RoundTrip.seamFlitReceive (x0 : Nat) (x1 : Nat) (x2 : Bool) (x3 : BitVec 64) : Statement (.seamFlitReceive x0 x1 x2 x3) :=
  fun _ => rfl

theorem Sys2Proof.Laws.RoundTrip.seamReplayTimeout (x0 : Nat) (x1 : Nat) : Statement (.seamReplayTimeout x0 x1) :=
  fun _ => rfl

theorem Sys2Proof.Laws.RoundTrip.seamRetrainEnd (x0 : Nat) (x1 : BitVec 64) : Statement (.seamRetrainEnd x0 x1) :=
  fun _ => rfl

theorem Sys2Proof.Laws.RoundTrip.goriskFlitReceive (x0 : Nat) (x1 : Nat) (x2 : Bool) : Statement (.goriskFlitReceive x0 x1 x2) :=
  fun _ => rfl

theorem Sys2Proof.Laws.RoundTrip.goriskRemoteRequest (x0 : Nat) : Statement (.goriskRemoteRequest x0) :=
  fun _ => rfl

theorem Sys2Proof.Laws.RoundTrip.goriskRequestTimeout (x0 : Nat) : Statement (.goriskRequestTimeout x0) :=
  fun _ => rfl

theorem Sys2Proof.Laws.RoundTrip.damperPeriod : Statement (.damperPeriod) :=
  fun _ => rfl

theorem Sys2Proof.Laws.RoundTrip.damperTick (x0 : Nat) : Statement (.damperTick x0) :=
  fun _ => rfl

theorem Sys2Proof.Laws.RoundTrip.budgetPeriod : Statement (.budgetPeriod) :=
  fun _ => rfl

theorem Sys2Proof.Laws.RoundTrip.budgetReport (x0 : Nat) : Statement (.budgetReport x0) :=
  fun _ => rfl

theorem Sys2Proof.Laws.RoundTrip.packageReset : Statement (.packageReset) :=
  fun _ => rfl

theorem Sys2Proof.Laws.RoundTrip.clockGlitch : Statement (.clockGlitch) :=
  fun _ => rfl

theorem Sys2Proof.Laws.RoundTrip.supplyGlitch : Statement (.supplyGlitch) :=
  fun _ => rfl

theorem Sys2Proof.Laws.RoundTrip.tamperMesh : Statement (.tamperMesh) :=
  fun _ => rfl

theorem Sys2Proof.Laws.RoundTrip.thermalTrip (x0 : Nat) : Statement (.thermalTrip x0) :=
  fun _ => rfl

theorem Sys2Proof.Laws.RoundTrip.goriskPortTrainingDone (x0 : Nat) (x1 : Nat) : Statement (.goriskPortTrainingDone x0 x1) :=
  fun _ => rfl

theorem Sys2Proof.Laws.RoundTrip.goriskReplayTimeout (x0 : Nat) (x1 : Nat) : Statement (.goriskReplayTimeout x0 x1) :=
  fun _ => rfl

theorem Sys2Proof.Laws.RoundTrip.frameMigrationComplete (x0 : Nat) : Statement (.frameMigrationComplete x0) :=
  fun _ => rfl

theorem Sys2Proof.Laws.RoundTrip.resumeDone (x0 : Nat) : Statement (.resumeDone x0) :=
  fun _ => rfl

theorem Sys2Proof.Laws.RoundTrip.eret : Statement (.eret) := by
  intro hwf
  refine control_back ?_
  obtain ⟨cw, hw⟩ : ∃ cw : Code, cw = 38#6 ++ 1#26 := ⟨_, rfl⟩
  rw [← hw]
  have h26_6 : fld cw 26 6 = 38#6 := hw ▸ hi rfl
  have h0_6 : fld cw 0 6 = 1#6 := hw ▸ lo rfl
  have h6_20 : fld cw 6 20 = 0#20 := hw ▸ lo rfl
  clear hw
  refine (show decodeControl cw = Decode.sys cw by unfold decodeControl; rw [h26_6]; rfl).trans ?_
  refine (show Decode.sys cw = Decode.need (fld cw 6 20 == 0) .unusedField (.ok (.eret)) by unfold Decode.sys; rw [h0_6]; rfl).trans ?_
  simp only [h6_20]
  rfl

theorem Sys2Proof.Laws.RoundTrip.wfe : Statement (.wfe) := by
  intro hwf
  refine control_back ?_
  obtain ⟨cw, hw⟩ : ∃ cw : Code, cw = 38#6 ++ 6#26 := ⟨_, rfl⟩
  rw [← hw]
  have h26_6 : fld cw 26 6 = 38#6 := hw ▸ hi rfl
  have h0_6 : fld cw 0 6 = 6#6 := hw ▸ lo rfl
  have h6_20 : fld cw 6 20 = 0#20 := hw ▸ lo rfl
  clear hw
  refine (show decodeControl cw = Decode.sys cw by unfold decodeControl; rw [h26_6]; rfl).trans ?_
  refine (show Decode.sys cw = Decode.need (fld cw 6 20 == 0) .unusedField (.ok (.wfe)) by unfold Decode.sys; rw [h0_6]; rfl).trans ?_
  simp only [h6_20]
  rfl

theorem Sys2Proof.Laws.RoundTrip.halt : Statement (.halt) := by
  intro hwf
  refine control_back ?_
  obtain ⟨cw, hw⟩ : ∃ cw : Code, cw = 38#6 ++ 7#26 := ⟨_, rfl⟩
  rw [← hw]
  have h26_6 : fld cw 26 6 = 38#6 := hw ▸ hi rfl
  have h0_6 : fld cw 0 6 = 7#6 := hw ▸ lo rfl
  have h6_20 : fld cw 6 20 = 0#20 := hw ▸ lo rfl
  clear hw
  refine (show decodeControl cw = Decode.sys cw by unfold decodeControl; rw [h26_6]; rfl).trans ?_
  refine (show Decode.sys cw = Decode.need (fld cw 6 20 == 0) .unusedField (.ok (.halt)) by unfold Decode.sys; rw [h0_6]; rfl).trans ?_
  simp only [h6_20]
  rfl

theorem Sys2Proof.Laws.RoundTrip.brk : Statement (.brk) := by
  intro hwf
  refine control_back ?_
  obtain ⟨cw, hw⟩ : ∃ cw : Code, cw = 38#6 ++ 8#26 := ⟨_, rfl⟩
  rw [← hw]
  have h26_6 : fld cw 26 6 = 38#6 := hw ▸ hi rfl
  have h0_6 : fld cw 0 6 = 8#6 := hw ▸ lo rfl
  have h6_20 : fld cw 6 20 = 0#20 := hw ▸ lo rfl
  clear hw
  refine (show decodeControl cw = Decode.sys cw by unfold decodeControl; rw [h26_6]; rfl).trans ?_
  refine (show Decode.sys cw = Decode.need (fld cw 6 20 == 0) .unusedField (.ok (.brk)) by unfold Decode.sys; rw [h0_6]; rfl).trans ?_
  simp only [h6_20]
  rfl

theorem Sys2Proof.Laws.RoundTrip.ifence : Statement (.ifence) := by
  intro hwf
  refine control_back ?_
  obtain ⟨cw, hw⟩ : ∃ cw : Code, cw = 38#6 ++ 9#26 := ⟨_, rfl⟩
  rw [← hw]
  have h26_6 : fld cw 26 6 = 38#6 := hw ▸ hi rfl
  have h0_6 : fld cw 0 6 = 9#6 := hw ▸ lo rfl
  have h6_20 : fld cw 6 20 = 0#20 := hw ▸ lo rfl
  clear hw
  refine (show decodeControl cw = Decode.sys cw by unfold decodeControl; rw [h26_6]; rfl).trans ?_
  refine (show Decode.sys cw = Decode.need (fld cw 6 20 == 0) .unusedField (.ok (.ifence)) by unfold Decode.sys; rw [h0_6]; rfl).trans ?_
  simp only [h6_20]
  rfl
end

