-- ==== Sys2Proof/Safety.lean ====
section
/-! DEFINITION. What counts as a safe run, and the terms in which statements say what an instruction does and what it leaves. -/

namespace Sys2Proof

open Sys2Proof.Machine

/-- A step answers a next state: no fault and no refusal. -/
def Answers (s : State) : Prop := ∃ t, step s = .next t

/-- A run of n steps, each of which answers. -/
def SafeRun : Nat → State → Prop
  | 0, _ => True
  | n + 1, s => ∃ t, step s = .next t ∧ SafeRun n t

/-- The state after n steps, each of which answers. -/
def stateAfter : Nat → State → Option State
  | 0, s => some s
  | n + 1, s => match step s with
    | .next t => stateAfter n t
    | _ => none

/-- Both memories are in their canonical form. -/
def Canonical (s : State) : Prop := s.mem.wf = true ∧ s.host.wf = true

/-- A halted package (R440, R441): pkgstat.state is 2. -/
def Halted (s : State) : Prop := s.pkg.state = 2

/-! ### What an instruction of a stoker context leaves -/

/-- The running context has issued an instruction outside a repeat (R48) and without status.step (R27). -/
abbrev Issues (s : State) : Prop :=
  s.cc.st = .ready ∧ s.cc.busy = none ∧ s.cc.wait = none ∧ s.cc.repOn = false ∧ s.cc.status.extractLsb' 3 1 = 0#1

/-- Beside the running context, nothing has changed but its lease's count of cycles without progress (R367), which is 0. -/
abbrev OnlyContext (s t : State) : Prop :=
  t = { s with ctxs := t.ctxs, leases := t.leases }
  ∧ (∀ k, k ≠ s.cur.ctx → t.ctx k = s.ctx k)
  ∧ (∀ l, t.lease l = if l = s.cc.lease then { s.lease l with prog := 0 } else s.lease l)
  ∧ (∀ a, t.mem.read a = s.mem.read a)
  ∧ (∀ a, t.host.read a = s.host.read a)

/-- The instruction answers the state in which the running context is c, and nothing beside it has changed. -/
abbrev GivesCtx (i : Instr) (s : State) (c : Ctx → Prop) : Prop := ∃ t, exec i s = .next t ∧ OnlyContext s t ∧ c t.cc

/-- A context whose general register d took a value, pc going to p; a write of g0 is discarded and g0 reads 0 (R23). -/
abbrev TookG (d : BitVec 5) (v p : Word) (c c' : Ctx) : Prop :=
  c' = { c with g := c'.g, pc := p } ∧ c'.rg 0 = 0 ∧ ∀ x, x ≠ 0 → c'.rg x = if x = d then v else c.rg x

/-- The instruction writes v to g[d] and falls through, and changes nothing else. -/
abbrev ResultG (i : Instr) (s : State) (d : BitVec 5) (v : Word) : Prop := GivesCtx i s (TookG d v (s.cc.pc + 4) s.cc)

/-- A context whose address register d took a value, and which fell through. -/
abbrev TookA (d : BitVec 3) (v : Addr) (c c' : Ctx) : Prop :=
  c' = { c with a := c'.a, pc := c.pc + 4 } ∧ ∀ x, c'.ra x = if x = d then v else c.ra x

/-- The instruction writes v to a[d] and falls through, and changes nothing else. -/
abbrev ResultA (i : Instr) (s : State) (d : BitVec 3) (v : Addr) : Prop := GivesCtx i s (TookA d v s.cc)

/-- A context whose float register d took a value, and which ORed sticky flags into fcr and fell through (R29, R97). -/
abbrev TookF (d : BitVec 5) (v flags : Word) (c c' : Ctx) : Prop :=
  c' = { c with f := c'.f, fcr := c.fcr ||| flags, pc := c.pc + 4 } ∧ ∀ x, c'.rf x = if x = d then v else c.rf x

/-- The instruction writes v to f[d], sets sticky flags and falls through, and changes nothing else. -/
abbrev ResultF (i : Instr) (s : State) (d : BitVec 5) (v flags : Word) : Prop := GivesCtx i s (TookF d v flags s.cc)

/-- The instruction writes v to g[d], sets sticky flags and falls through, and changes nothing else. -/
abbrev ResultGF (i : Instr) (s : State) (d : BitVec 5) (v flags : Word) : Prop :=
  GivesCtx i s (fun c => c = { s.cc with g := c.g, fcr := s.cc.fcr ||| flags, pc := s.cc.pc + 4 }
    ∧ c.rg 0 = 0 ∧ ∀ x, x ≠ 0 → c.rg x = if x = d then v else s.cc.rg x)

/-- The instruction only moves pc on. -/
abbrev FallsThrough (i : Instr) (s : State) : Prop := GivesCtx i s (fun c => c = { s.cc with pc := s.cc.pc + 4 })

/-- status at trap entry (R152): ie moves to pie, ie is 0, intrap is 1, and the other bits stay. -/
abbrev StatusEntered (w w' : Word) : Prop :=
  w'.getLsbD 0 = false ∧ w'.getLsbD 1 = w.getLsbD 0 ∧ w'.getLsbD 2 = true ∧ ∀ n, 2 < n → w'.getLsbD n = w.getLsbD n

/-- A context that has entered its trap handler for a synchronous fault of its own level (R152). -/
abbrev Entered (code : Nat) (tval tvalh : Word) (c c' : Ctx) : Prop :=
  c' = { c with epc := c.pc, cause := BitVec.ofNat 64 (2 * 2 ^ 8 + code), tval, tvalh, status := c'.status, pc := c.tvec }
  ∧ StatusEntered c.status c'.status

/-- Nothing but the running context has changed. -/
abbrev ContextAlone (s t : State) : Prop :=
  t = { s with ctxs := t.ctxs } ∧ (∀ k, k ≠ s.cur.ctx → t.ctx k = s.ctx k)

/-- The instruction takes a trap to tvec: R152 for an instruction outside a repeat. -/
abbrev Enters (i : Instr) (s : State) (code : Nat) (tval tvalh : Word) : Prop :=
  ∃ t, exec i s = .next t ∧ ContextAlone s t ∧ Entered code tval tvalh s.cc t.cc

/-- The running context can take a trap of its own (R152): it is not in its handler, and it has one. -/
abbrev CanTrap (s : State) : Prop := s.cc.status.extractLsb' 2 1 = 0#1 ∧ s.cc.tvec ≠ 0

/-- As ResultG, on top of what else the instruction has changed: u is s with that change, in which no register has changed. -/
abbrev ResultGOn (i : Instr) (s u : State) (d : BitVec 5) (v : Word) : Prop :=
  ∃ t, exec i s = .next t ∧ OnlyContext u t ∧ TookG d v (s.cc.pc + 4) s.cc t.cc

/-- As FallsThrough, on top of what else the instruction has changed. -/
abbrev FallsOn (i : Instr) (s u : State) : Prop :=
  ∃ t, exec i s = .next t ∧ OnlyContext u t ∧ t.cc = { s.cc with pc := s.cc.pc + 4 }

/-- The context waits in the instruction: pc stays, and nothing else changes but what it waits for. -/
abbrev WaitsFor (i : Instr) (s : State) (w : Wait) : Prop :=
  ∃ t, exec i s = .next t ∧ ContextAlone s t ∧ t.cc = { s.cc with st := .waiting, wait := some w }

/-! ### Repeats and single-step (R155, R163) -/

/-- A context that completed an instruction of a repeat, m being what the instruction itself made of it (R163): before the last repeat
repstate.next moves on and pc stays at the prefix; after it repstate.active and status.rep clear and pc moves past the pair of words. -/
abbrev Advanced (m c : Ctx) : Prop :=
  let next := m.repstate.extractLsb' 0 6
  let cnt := m.repstate.extractLsb' 6 6
  c = { m with repstate := c.repstate, status := c.status, repOn := decide (next.toNat < cnt.toNat),
               pc := if next.toNat < cnt.toNat then m.pc else m.pc + 8 }
  ∧ (if next.toNat < cnt.toNat then
      c.status = m.status ∧ c.repstate.extractLsb' 0 6 = next + 1 ∧ ∀ n, 6 ≤ n → c.repstate.getLsbD n = m.repstate.getLsbD n
    else
      (∀ n, c.status.getLsbD n = (decide (n ≠ 4) && m.status.getLsbD n))
      ∧ ∀ n, c.repstate.getLsbD n = (decide (n ≠ 31) && m.repstate.getLsbD n))

/-- The instruction completes in the state u, in which its context would be as P says (R155): the context stops with cause 0x16, and
the record goes to the debug level. -/
abbrev StepStops (i : Instr) (s : State) (level : Nat) (frame : State → State → Prop) (P : Ctx → Prop) : Prop :=
  ∃ u m, frame s u ∧ P m
    ∧ u.cc = { m with st := .halted, dbgPrev := .ready, dbgHalt := true, haltBy := level,
                      cause := BitVec.ofNat 64 (level * 2 ^ 8 + 0x16) }
    ∧ exec i s = .next (writeFRec u (ctxRec u s.cur.ctx 0x16 level 0))

/-! ### Tiles named by a stoker context (R168, R171) -/

/-- A selector's reserved bits are zero, and its coordinates name tile k of the running context's lease (R168). -/
abbrev Selects (s : State) (v : Word) (k : Nat) : Prop :=
  v.extractLsb' 28 36 = 0#36
  ∧ rectTile s s.cc.lease (v.extractLsb' 0 6).toNat (v.extractLsb' 6 6).toNat (v.extractLsb' 12 7).toNat = some k

/-- The form needs no injection over the tree, or its lease may inject and the way to the tile's die is open (R171, R358, R399). -/
abbrev TreeOpen (s : State) (k : Nat) : Prop :=
  tileStoker k = s.cur.ctx / 8 ∨ (injSpent (s.lease s.cc.lease) = false ∧ blocksMeet s (s.cur.ctx / 8) (tileStoker k) = true)

/-- s, with the token over the tree counted where the tile is of another block (R171, R358). -/
abbrev overTheTree (s : State) (k : Nat) : State :=
  if tileStoker k = s.cur.ctx / 8 then s else countInj s s.cc.lease (ctxDie s.cur.ctx)

/-- As TreeOpen, for a form that reaches several tiles. -/
abbrev TreesOpen (s : State) (ks : List Nat) : Prop :=
  (∀ k ∈ ks, tileStoker k = s.cur.ctx / 8)
  ∨ (injSpent (s.lease s.cc.lease) = false ∧ ∀ k ∈ ks, blocksMeet s (s.cur.ctx / 8) (tileStoker k) = true)

/-- s, with a token counted for each tile of another block. -/
abbrev overTheTrees (s : State) (ks : List Nat) : State :=
  countInjN s s.cc.lease (ctxDie s.cur.ctx) (ks.filter (fun k => tileStoker k != s.cur.ctx / 8)).length

/-! ### Accesses of a stoker context -/

/-- A packet of context k to the home of pa sets out at once, and has no seam or circuit to cross (R385, R403). -/
abbrev StaysHome (s : State) (k pa : Nat) : Prop :=
  ∀ op va a, let r := Req.setOut s { ctx := k, op, va, pa, attr := a }
    r.held = false ∧ r.way = []

/-- A unit has served no request in this fc (R31). -/
abbrev ServedNone (s : State) (u : Served) : Prop := ∀ n, Due.served u n ∉ s.dues

/-- An access of w bytes at va passes the checks of R116 on its page, which is no system window, has its home on the context's
own die, and is performed within its issue: e is its page, pa its physical address, s1 the state with the page in the translation cache. -/
abbrev Reaches (s : State) (va w : Nat) (need : Need) (s1 : State) (e : TlbEnt) (pa : Nat) : Prop :=
  va % w = 0 ∧ translateCtx s s.cur.ctx va = .ok (s1, e) ∧ pageCheck s1 (meWho s) va e need = .ok pa ∧ e.attr.sysw = false
  ∧ s.cur.transit = false ∧ frameHeld s1 pa = false ∧ hbmSpent (s.lease s.cc.lease) = false ∧ StaysHome s1 s.cur.ctx pa

/-- Beside the running context, an access that has completed has changed its stoker's translation cache, and in its lease
the count of cycles without progress and the use of the budget (R358, R367); a free choice may have been drawn. -/
abbrev AccessFrame (s t : State) : Prop :=
  (∀ k, k ≠ s.cur.ctx → t.ctx k = s.ctx k)
  ∧ (∀ l, l ≠ s.cc.lease → t.lease l = s.lease l)
  ∧ (t.lease s.cc.lease = { s.lease s.cc.lease with prog := 0, localUse := (t.lease s.cc.lease).localUse })
  ∧ (∀ k, k ≠ s.cur.ctx / 8 → t.stoker k = s.stoker k)
  ∧ (∀ a, t.host.read a = s.host.read a)

/-- What a load leaves beside the running context: memory is as it was. -/
abbrev LoadFrame (s t : State) : Prop :=
  AccessFrame s t
  ∧ t = { s with ctxs := t.ctxs, leases := t.leases, stokers := t.stokers, freeN := t.freeN, hits := t.hits }
  ∧ (∀ a, t.mem.read a = s.mem.read a)

/-- A load answers, and the running context is as P says. -/
abbrev Loads (i : Instr) (s : State) (P : Ctx → Prop) : Prop := ∃ t, exec i s = .next t ∧ LoadFrame s t ∧ P t.cc

/-- What a store of the low w bytes of v at pa leaves beside the running context: those bytes hold v, and every other byte of memory
is as it was. Versions of the line and the pool behind them may have changed (R331). -/
abbrev StoreFrame (pa w : Nat) (v : Word) (s t : State) : Prop :=
  AccessFrame s t
  ∧ t = { s with ctxs := t.ctxs, leases := t.leases, stokers := t.stokers, freeN := t.freeN, mem := t.mem, lines := t.lines,
                 dirty := t.dirty, parts := t.parts, hits := t.hits }
  ∧ t.mem.readN pa w = v.toNat % 2 ^ (8 * w)
  ∧ (∀ a, a < pa ∨ pa + w ≤ a → t.mem.read a = s.mem.read a)

/-- A store answers, and the context falls through. -/
abbrev Stores (i : Instr) (s : State) (pa w : Nat) (v : Word) : Prop :=
  ∃ t, exec i s = .next t ∧ StoreFrame pa w v s t ∧ t.cc = { s.cc with pc := s.cc.pc + 4 }

/-- An access that has passed its checks, to a page that is no system window, has a seam or circuit to cross, or is held at its die
(R385, R403): the context waits for it, memory is as it was, and the packet stands among those on their way. -/
abbrev SetsOut (i : Instr) (s s1 : State) (op : AccOp) (va pa : Nat) (a : PageAttr) : Prop :=
  let r := Req.setOut s1 { ctx := s.cur.ctx, op, va, pa, attr := a }
  a.sysw = false → (r.held = true ∨ r.way ≠ []) →
    ∃ t, exec i s = .next t
      ∧ t = { s with ctxs := t.ctxs, stokers := t.stokers, reqs := s.reqs ++ [r], fab := { s.fab with mods := t.fab.mods } }
      ∧ (∀ k, k ≠ s.cur.ctx → t.ctx k = s.ctx k) ∧ (∀ k, k ≠ s.cur.ctx / 8 → t.stoker k = s.stoker k)
      ∧ t.cc = { s.cc with busy := some .access }

/-- An access that has passed its checks, to a system window (R326, R413): the context waits for it, memory is as it was, and a request
with the next transaction number and the lease's tag goes to the package and address of the window. The release of an atomic publishes
before that (R222). -/
abbrev SentAfar (i : Instr) (s s1 : State) (op : AccOp) (va pa : Nat) (a : PageAttr) : Prop :=
  ∀ pkg rpa, a.sysw = true → windowOf s1 pa = some (pkg, rpa) →
    ∃ t q, exec i s = .next t
      ∧ t = { s with ctxs := t.ctxs, stokers := t.stokers, lines := t.lines, parts := t.parts, pubs := t.pubs, fab := t.fab,
                     reqs := s.reqs ++ [{ ctx := s.cur.ctx, op, va, pa, attr := a }] }
      ∧ (op.releases = false → t.lines = s.lines ∧ t.parts = s.parts ∧ t.pubs = s.pubs)
      ∧ (∀ k, k ≠ s.cur.ctx → t.ctx k = s.ctx k) ∧ (∀ k, k ≠ s.cur.ctx / 8 → t.stoker k = s.stoker k)
      ∧ t.cc = { s.cc with busy := some .access }
      ∧ t.fab = { s.fab with greqs := s.fab.greqs ++ [q], txn := (s.fab.txn + 1) % 65536, ports := t.fab.ports }
      ∧ q.txn = s.fab.txn ∧ q.src = s.fab.pkgid.toNat ∧ q.ctx = s.cur.ctx ∧ q.pkg = pkg ∧ q.rpa = rpa ∧ q.op = op
      ∧ q.tag = mkTag (s.lease s.cc.lease).part (s.lease s.cc.lease).slot

/-- An access whose page and address are e and pa goes on its way: to another die, or to another package. -/
abbrev GoesOut (i : Instr) (s s1 : State) (op : AccOp) (va w : Nat) (need : Need) (e : TlbEnt) (pa : Nat) : Prop :=
  va % w = 0 → translateCtx s s.cur.ctx va = .ok (s1, e) → pageCheck s1 (meWho s) va e need = .ok pa →
    SetsOut i s s1 op va pa e.attr ∧ SentAfar i s s1 op va pa e.attr

/-- An access in place (an atomic, a barrier or a buffer operation) answers: in the w bytes at pa memory is as M says, every
other byte is as it was, and the running context is as P says. Beside what every access changes, a release changes the
versions of lines and their times (R214, R215), and an operation on a barrier stands noted until the end of the fc (R225). -/
abbrev Performs (i : Instr) (s : State) (pa w : Nat) (M : Memory → Prop) (P : Ctx → Prop) : Prop :=
  ∃ t, exec i s = .next t
    ∧ t = { s with ctxs := t.ctxs, leases := t.leases, stokers := t.stokers, mem := t.mem, relT := t.relT, lines := t.lines,
                   parts := t.parts, pubs := t.pubs, dues := t.dues, hits := t.hits }
    ∧ (∀ k, k ≠ s.cur.ctx → t.ctx k = s.ctx k)
    ∧ (∀ l, l ≠ s.cc.lease → t.lease l = s.lease l)
    ∧ (t.lease s.cc.lease = { s.lease s.cc.lease with prog := 0, localUse := (t.lease s.cc.lease).localUse })
    ∧ (∀ k, k ≠ s.cur.ctx / 8 → t.stoker k = s.stoker k)
    ∧ (∀ a, a < pa ∨ pa + w ≤ a → t.mem.read a = s.mem.read a) ∧ M t.mem ∧ P t.cc

/-- An access that its page refuses: the context enters its handler with the address, and memory is as it was. -/
abbrev FaultsAt (i : Instr) (s : State) (code va : Nat) : Prop :=
  ∃ t, exec i s = .next t ∧ t = { s with ctxs := t.ctxs, stokers := t.stokers } ∧ (∀ k, k ≠ s.cur.ctx → t.ctx k = s.ctx k)
    ∧ (∀ k, k ≠ s.cur.ctx / 8 → t.stoker k = s.stoker k)
    ∧ Entered code (BitVec.ofNat 64 va) (BitVec.ofNat 64 (va / 2 ^ 64)) s.cc t.cc

/-- What the checks of its page give an access of w bytes at va (R116), where a code of the customer's level refuses it. -/
abbrev Refuses (i : Instr) (s : State) (va w : Nat) (need : Need) : Prop :=
  CanTrap s →
    (va % w ≠ 0 → FaultsAt i s 0x03 va)
    ∧ (va % w = 0 → ∀ code, codeLevel code = 2 →
        (translateCtx s s.cur.ctx va = .error code → FaultsAt i s code va)
        ∧ ∀ s1 e, translateCtx s s.cur.ctx va = .ok (s1, e) → pageCheck s1 (meWho s) va e need = .error code → FaultsAt i s code va)

/-- A context that fell through, and whose snapshot and tsfloor an acquire alone may have changed (R214, R215). -/
abbrev Acquired (acq : Prop) (c c' : Ctx) : Prop :=
  c' = { c with g := c'.g, snap := c'.snap, tsfloor := c'.tsfloor, pc := c.pc + 4 }
  ∧ (¬ acq → c'.snap = c.snap ∧ c'.tsfloor = c.tsfloor)

/-- As Acquired, register d taking a value. -/
abbrev TookGA (d : BitVec 5) (v : Word) (acq : Prop) (c c' : Ctx) : Prop :=
  Acquired acq c c' ∧ c'.rg 0 = 0 ∧ ∀ x, x ≠ 0 → c'.rg x = if x = d then v else c.rg x

/-- What an atomic, a barrier and a buffer operation need of their page (R220, R223, R246). -/
abbrev inPlace : Need := { r := true, w := true, ms := true, noProof := true }

/-! ### Words of a lane (R62, R249 to R254) -/

/-- What a source code of a word gives, and the state after it is read. -/
abbrev src (s : State) (code : BitVec 3) (p : BitVec 8) : State × Opd := readSrc s code.toNat (p.fld 0 3) (p.signExtend 32)

/-- The fields of a word that say where its result goes. -/
abbrev dest (d : BitVec 3) (p : BitVec 8) : EW := { d := d.toNat, p := p }

/-- A word of one source gives what f says of a value; it passes EOS, an error and a bubble (R252, R254). -/
abbrev Word1 (i : Instr) (s : State) (a d : BitVec 3) (p : BitVec 8) (f : Opd → Token) : Prop :=
  ∀ s1 o, src s a p = (s1, o) → exec i s = .next (putRes s1 (dest d p) (match o with
    | .val x h => some (f (.val x h))
    | .eos => some eosTok
    | .err e => some (errTok e)
    | .bub => none))

/-- What a word of two sources leaves, and of the chain for a "+chain" form: it joins them in its mode and gives what f says of three
values; a fault of the join freezes the region with 0x0E and gives a bubble (R252, R254). -/
abbrev joined2 (s s2 : State) (a b d : BitVec 3) (p : BitVec 8) (chain : Bool) (x y : Opd) (f : Opd → Opd → Opd → Lane) : State :=
  match joinOps (if a = 6 ∨ b = 6 then 0 else p.fld 6 2) (kreg s2 (firingOf s2).lane 7)
      (if chain then [x, y, Opd.ofLane (firingOf s).chain] else [x, y]) with
  | .vals u v c => putRes s2 (dest d p) (f u v c)
  | .res r => putRes s2 (dest d p) r
  | .fault opa opb => laneFault s2 (dest d p) 0x0E opa opb (elemCount s2)

/-- A word of two sources whose result of values may be a bubble. -/
abbrev Word2L (i : Instr) (s : State) (a b d : BitVec 3) (p : BitVec 8) (chain : Bool) (f : Opd → Opd → Opd → Lane) : Prop :=
  ∀ s1 s2 x y, src s a p = (s1, x) → src s1 b p = (s2, y) → exec i s = .next (joined2 s s2 a b d p chain x y f)

/-- A word of two sources that gives a token of values. -/
abbrev Word2 (i : Instr) (s : State) (a b d : BitVec 3) (p : BitVec 8) (chain : Bool) (f : Opd → Opd → Opd → Token) : Prop :=
  Word2L i s a b d p chain (fun u v c => some (f u v c))

end Sys2Proof
end

