-- ==== Sys2Proof/Certificates/Slice0/Obligations.lean ====
section
/-! DEFINITION. Statements for the provers, by family of the opcode table. -/

open Sys2Proof Sys2Proof.Machine

/-! ### Encodings -/

/-- R56 to R75, R110 to R119: decoding the encoding of a well-formed instruction gives the instruction back, for every
instruction that a word encodes, with every operand at every value that the encoding admits. -/
def Obligations.RoundTripAll : Prop := ∀ i : Instr, Laws.RoundTrip.Statement i

/-- Words that the spec writes out beside the instruction they stand for (R60, R126 to R139, R151, R155 to R161). -/
def Obligations.WordsFromTheSpec : Prop :=
  decodeControl 0x04642814#32 = .ok (.div 3 4 5)
  ∧ decodeControl 0x04E110E2#32 = .ok (.muladd 7 1 2 3)
  ∧ decodeControl 0x20430085#32 = .ok (.srai 2 3 5)
  ∧ decodeControl 0x24C01234#32 = .ok (.lui 6 0x1234)
  ∧ decodeControl 0x10C65678#32 = .ok (.ori 6 6 0x5678)
  ∧ decodeControl 0x28C29ABC#32 = .ok (.insh 6 2 0x9ABC)
  ∧ decodeControl 0x4C010000#32 = .ok (.jalr 0 1 0)
  ∧ decodeControl 0x8C263802#32 = .ok (.aset 1 6 7)
  ∧ decodeControl 0x8C411005#32 = .ok (.acmp 2 1 2)
  ∧ decodeControl 0x612FFFFC#32 = .ok (.ldw 9 3 0x3FFFC)
  ∧ decodeControl 0x94611000#32 = .ok (.fadd 3 1 2 0)
  ∧ decodeControl 0x98E00403#32 = .ok (.csrw 7 0x010)
  ∧ decodeControl 0x98000001#32 = .ok .eret
  ∧ decodeControl 0x98000008#32 = .ok .brk
  ∧ decodeControl 0xF83C0000#32 = .ok (.rep 3 1 1 0 0 0 0)
  ∧ decodeControl 0x69000000#32 = .ok (.ldd 8 0 0)

/-! ### Integer forms -/

/-- R125, but for the counts and reversals and for division: each form writes the value of the table to g[d]. -/
def Obligations.IntegerResults : Prop :=
  ∀ (s : State) (d a b c : BitVec 5) (x y z : Word), Issues s → s.cc.rg a = x → s.cc.rg b = y → s.cc.rg c = z →
    ResultG (.add d a b) s d (x + y)
    ∧ ResultG (.sub d a b) s d (x - y)
    ∧ ResultG (.and d a b) s d (x &&& y)
    ∧ ResultG (.or d a b) s d (x ||| y)
    ∧ ResultG (.xor d a b) s d (x ^^^ y)
    ∧ ResultG (.andn d a b) s d (x &&& ~~~y)
    ∧ ResultG (.shl d a b) s d (x <<< (y.toNat % 64))
    ∧ ResultG (.shr d a b) s d (x >>> (y.toNat % 64))
    ∧ ResultG (.sra d a b) s d (x.sshiftRight (y.toNat % 64))
    ∧ ResultG (.rol d a b) s d ((x <<< (y.toNat % 64)) ||| (x >>> (64 - y.toNat % 64)))
    ∧ ResultG (.ror d a b) s d ((x >>> (y.toNat % 64)) ||| (x <<< (64 - y.toNat % 64)))
    ∧ ResultG (.slt d a b) s d (if x.toInt < y.toInt then 1 else 0)
    ∧ ResultG (.sltu d a b) s d (if x.toNat < y.toNat then 1 else 0)
    ∧ ResultG (.min d a b) s d (if x.toInt ≤ y.toInt then x else y)
    ∧ ResultG (.max d a b) s d (if x.toInt ≤ y.toInt then y else x)
    ∧ ResultG (.minu d a b) s d (if x.toNat ≤ y.toNat then x else y)
    ∧ ResultG (.maxu d a b) s d (if x.toNat ≤ y.toNat then y else x)
    ∧ ResultG (.mul d a b) s d (x * y)
    ∧ ResultG (.mulh d a b) s d (BitVec.ofInt 64 (x.toInt * y.toInt / 2 ^ 64))
    ∧ ResultG (.mulhu d a b) s d (BitVec.ofNat 64 (x.toNat * y.toNat / 2 ^ 64))
    ∧ ResultG (.sel d a b c) s d (if z = 0 then y else x)
    ∧ ResultG (.addw d a b) s d (((x + y).extractLsb' 0 32).signExtend 64)
    ∧ ResultG (.subw d a b) s d (((x - y).extractLsb' 0 32).signExtend 64)
    ∧ ResultG (.satadd d a b) s d (BitVec.ofInt 64 (max (-(2 ^ 63)) (min (2 ^ 63 - 1) (x.toInt + y.toInt))))
    ∧ ResultG (.satsub d a b) s d (BitVec.ofInt 64 (max (-(2 ^ 63)) (min (2 ^ 63 - 1) (x.toInt - y.toInt))))
    ∧ ResultG (.muladd d a b c) s d (x * y + z)

/-- R126: the results of division with its two borderline cases, and the identity that holds in every case. -/
def Obligations.DivisionResults : Prop :=
  ∀ (s : State) (d a b : BitVec 5) (x y : Word), Issues s → s.cc.rg a = x → s.cc.rg b = y →
    ∃ q qu r ru : Word,
      ResultG (.div d a b) s d q ∧ ResultG (.divu d a b) s d qu ∧ ResultG (.rem d a b) s d r ∧ ResultG (.remu d a b) s d ru
      ∧ x = q * y + r ∧ x = qu * y + ru
      ∧ (y = 0 → q = -1 ∧ qu = -1 ∧ r = x ∧ ru = x)
      ∧ (x = BitVec.intMin 64 ∧ y = -1 → q = BitVec.intMin 64 ∧ r = 0)
      ∧ (y ≠ 0 → q = BitVec.ofInt 64 (x.toInt.tdiv y.toInt) ∧ r.toInt = x.toInt.tmod y.toInt
          ∧ qu.toNat = x.toNat / y.toNat ∧ ru.toNat = x.toNat % y.toNat)

/-- R125: CLZ, CTZ, POPC, BREV and BSWAP, each by what its value says of the bits of g[a]. -/
def Obligations.CountsAndReversals : Prop :=
  ∀ (s : State) (d a : BitVec 5) (x : Word), Issues s → s.cc.rg a = x →
    (∃ n, n ≤ 64 ∧ ResultG (.clz d a) s d (BitVec.ofNat 64 n) ∧ (∀ i, 64 - n ≤ i → x.getLsbD i = false)
      ∧ (n < 64 → x.getLsbD (63 - n) = true))
    ∧ (∃ n, n ≤ 64 ∧ ResultG (.ctz d a) s d (BitVec.ofNat 64 n) ∧ (∀ i, i < n → x.getLsbD i = false)
      ∧ (n < 64 → x.getLsbD n = true))
    ∧ ResultG (.popc d a) s d (BitVec.ofNat 64 ((List.range 64).countP (fun i => x.getLsbD i)))
    ∧ (∃ v : Word, ResultG (.brev d a) s d v ∧ ∀ i, i < 64 → v.getLsbD (63 - i) = x.getLsbD i)
    ∧ (∃ v : Word, ResultG (.bswap d a) s d v ∧ ∀ i j, i < 8 → j < 8 → v.getLsbD (8 * (7 - i) + j) = x.getLsbD (8 * i + j))

/-- R127 to R131: the immediate forms. -/
def Obligations.ImmediateResults : Prop :=
  ∀ (s : State) (d a : BitVec 5) (im : BitVec 16) (n : BitVec 6) (p : BitVec 2) (x : Word), Issues s → s.cc.rg a = x →
    ResultG (.addi d a im) s d (x + im.signExtend 64)
    ∧ ResultG (.andi d a im) s d (x &&& im.setWidth 64)
    ∧ ResultG (.ori d a im) s d (x ||| im.setWidth 64)
    ∧ ResultG (.xori d a im) s d (x ^^^ im.setWidth 64)
    ∧ ResultG (.slti d a im) s d (if x.toInt < im.toInt then 1 else 0)
    ∧ ResultG (.sltiu d a im) s d (if x.toNat < im.toNat then 1 else 0)
    ∧ ResultG (.shli d a n) s d (x <<< n.toNat)
    ∧ ResultG (.shri d a n) s d (x >>> n.toNat)
    ∧ ResultG (.srai d a n) s d (x.sshiftRight n.toNat)
    ∧ ResultG (.lui d im) s d ((im.signExtend 64) <<< 16)
    ∧ ResultG (.addpc d im) s d (s.cc.pc + im.signExtend 64)
    ∧ (∃ v : Word, ResultG (.insh d p im) s d v ∧ v.extractLsb' (16 * p.toNat) 16 = im
        ∧ ∀ q : Nat, q < 4 → q ≠ p.toNat → v.extractLsb' (16 * q) 16 = (s.cc.rg d).extractLsb' (16 * q) 16)

/-! ### Branches and jumps -/

/-- R132: each branch goes to pc + 4 × sext(offset) when its condition holds, else to the next word; it changes nothing else. -/
def Obligations.BranchesGoOrFall : Prop :=
  ∀ (s : State) (a b : BitVec 5) (im : BitVec 16) (x y : Word), Issues s → s.cc.rg a = x → s.cc.rg b = y →
    let goes (i : Instr) (taken : Prop) : Prop :=
      (taken → GivesCtx i s (fun c => c = { s.cc with pc := s.cc.pc + 4 * im.signExtend 64 }))
      ∧ (¬ taken → FallsThrough i s)
    goes (.beq a b im) (x = y)
    ∧ goes (.bne a b im) (x ≠ y)
    ∧ goes (.blt a b im) (x.toInt < y.toInt)
    ∧ goes (.bge a b im) (y.toInt ≤ x.toInt)
    ∧ goes (.bltu a b im) (x.toNat < y.toNat)
    ∧ goes (.bgeu a b im) (y.toNat ≤ x.toNat)

/-- R133, R134: JAL and JALR link pc + 4 and go to their target, formed before the link is written; a misaligned target of
JALR traps with 0x03, and the context is as R152 says, g[d] unchanged. -/
def Obligations.JumpsLinkAndGo : Prop :=
  ∀ (s : State) (d a : BitVec 5) (im : BitVec 16) (off : BitVec 21), Issues s →
    GivesCtx (.jal d off) s (TookG d (s.cc.pc + 4) (s.cc.pc + 4 * off.signExtend 64) s.cc)
    ∧ ((s.cc.rg a + im.signExtend 64).extractLsb' 0 2 = 0#2 →
        GivesCtx (.jalr d a im) s (TookG d (s.cc.pc + 4) (s.cc.rg a + im.signExtend 64) s.cc))
    ∧ ((s.cc.rg a + im.signExtend 64).extractLsb' 0 2 ≠ 0#2 → CanTrap s →
        Enters (.jalr d a im) s 0x03 (s.cc.rg a + im.signExtend 64) 0)

/-! ### Address registers -/

/-- R135, R136: the address-register forms. -/
def Obligations.AddressRegisterResults : Prop :=
  ∀ (s : State) (d a b : BitVec 3) (gd ga gb : BitVec 5) (im : BitVec 16), Issues s →
    ResultA (.amov d a) s d (s.cc.ra a)
    ∧ ResultA (.aadd d a gb) s d (s.cc.ra a + (s.cc.rg gb).signExtend 80)
    ∧ ResultA (.aset d ga gb) s d ((((s.cc.rg gb).extractLsb' 0 16).setWidth 80 <<< 64) ||| (s.cc.rg ga).setWidth 80)
    ∧ ResultA (.aaddi d a im) s d (s.cc.ra a + im.signExtend 80)
    ∧ ResultG (.agetl gd a) s gd ((s.cc.ra a).extractLsb' 0 64)
    ∧ ResultG (.ageth gd a) s gd (((s.cc.ra a).extractLsb' 64 16).setWidth 64)
    ∧ ResultG (.acmp gd a b) s gd
        (if (s.cc.ra a).toNat < (s.cc.ra b).toNat then -1 else if s.cc.ra a = s.cc.ra b then 0 else 1)

/-! ### Repeats, single-step and stops -/

/-- R163: with a repeat in progress, an instruction that completes ends its repeat, for every form that gives a general register a
value of the table of R125, for an address-register form, a float form, a load and a store: what the instruction itself does is as
outside a repeat. Before the last one repstate.next moves on and pc stays at the prefix; after the last one repstate.active and
status.rep clear and pc moves past the pair of words. -/
def Obligations.RepeatAdvances : Prop :=
  ∀ (s : State) (d a b c : BitVec 5) (da aa : BitVec 3) (im : BitVec 16) (n : BitVec 6) (m18 : BitVec 18) (t : BitVec 1) (x y : Word),
    s.cc.st = .ready → s.cc.busy = none → s.cc.wait = none → s.cc.repOn = true → s.cc.status.extractLsb' 3 1 = 0#1 →
    s.cc.rg a = x → s.cc.rg b = y →
    (∀ i v, (i, v) ∈ [(Instr.add d a b, x + y), (.sub d a b, x - y), (.and d a b, x &&& y), (.or d a b, x ||| y),
        (.xor d a b, x ^^^ y), (.slt d a b, if x.toInt < y.toInt then 1 else 0), (.mul d a b, x * y), (.muladd d a b c, x * y + s.cc.rg c),
        (.sel d a b c, if s.cc.rg c = 0 then y else x), (.addi d a im, x + im.signExtend 64), (.andi d a im, x &&& im.setWidth 64),
        (.shli d a n, x <<< n.toNat), (.lui d im, (im.signExtend 64) <<< 16), (.fmvg d a, s.cc.rf a)] →
      GivesCtx i s (fun c' => ∃ m, TookG d v s.cc.pc s.cc m ∧ Advanced m c'))
    ∧ GivesCtx (.aadd da aa b) s (fun c' => ∃ m : Ctx, m = { s.cc with a := m.a } ∧ Advanced m c'
        ∧ ∀ z, m.ra z = if z = da then s.cc.ra aa + y.signExtend 80 else s.cc.ra z)
    ∧ (∀ f, f = (if t = 1#1 then Fmt.fp64 else Fmt.fp32) →
        let r := f.add (Rm.ofBits (s.cc.fcr.extractLsb' 0 2)) (s.cc.fcr.getLsbD 2) (readFmt f (s.cc.rf a)) (readFmt f (s.cc.rf b))
        GivesCtx (.fadd d a b t) s (fun c' => ∃ m : Ctx, m = { s.cc with f := m.f, fcr := s.cc.fcr ||| r.2.bits } ∧ Advanced m c'
          ∧ ∀ z, m.rf z = if z = d then boxFmt f r.1 else s.cc.rf z))
    ∧ (∀ s1 e va pa, va = (s.cc.ra aa + m18.signExtend 80).toNat → Reaches s va 8 { r := true } s1 e pa →
        Loads (.ldd d aa m18) s (fun c' => ∃ m, TookG d (BitVec.ofNat 64 (loadAt s1 (meWho s) va pa e.attr 8)) s.cc.pc s.cc m
          ∧ Advanced m c'))
    ∧ (∀ s1 s2 e va pa, va = (s.cc.ra aa + m18.signExtend 80).toNat → Reaches s va 8 { w := true } s1 e pa → pa % 8 = 0 →
        storeAt s1 (meWho s) va pa e.attr 8 (2 ^ 64 - 1) (s.cc.rg d).toNat = .ok s2 →
        ∃ t, exec (.std d aa m18) s = .next t ∧ StoreFrame pa 8 (s.cc.rg d) s t ∧ Advanced s.cc t.cc)

/-- R27, R155: with status.step set and a level attached, a context that no debugger has halted and that completes an instruction enters
HALTED with cause 0x16, in the state that the instruction left, and a record of code 0x16 goes to the attached level with the highest
number; so for an integer, an immediate, a float, a branch, a jump, a load and a store form, and for each repeat of a REP, which counts
as one instruction. With no level attached it takes a trap with cause 0x16 behind the instruction. -/
def Obligations.SingleStepStops : Prop :=
  ∀ (s : State) (d a b : BitVec 5) (r : BitVec 3) (im : BitVec 16) (m18 : BitVec 18) (level : Nat),
    s.cc.st = .ready → s.cc.busy = none → s.cc.wait = none → s.cc.status.extractLsb' 3 1 = 1#1 → s.cc.dbgHalt = false →
    let dbg := (s.lease s.cc.lease).dbg
    let attached : Prop := level ≤ 2 ∧ dbg.contains level = true ∧ ∀ n, level < n → n ≤ 2 → dbg.contains n = false
    let va := (s.cc.ra r + m18.signExtend 80).toNat
    (s.cc.repOn = false → attached →
      (∀ i v, (i, v) ∈ [(Instr.add d a b, s.cc.rg a + s.cc.rg b), (.mul d a b, s.cc.rg a * s.cc.rg b),
          (.addi d a im, s.cc.rg a + im.signExtend 64), (.fmvg d a, s.cc.rf a)] →
        StepStops i s level OnlyContext (TookG d v (s.cc.pc + 4) s.cc))
      ∧ StepStops (.gmvf d a) s level OnlyContext (TookF d (s.cc.rg a) 0 s.cc)
      ∧ StepStops (.beq a b im) s level OnlyContext (fun m =>
          m = { s.cc with pc := s.cc.pc + (if s.cc.rg a = s.cc.rg b then 4 * im.signExtend 64 else 4) })
      ∧ ((s.cc.rg a + im.signExtend 64).extractLsb' 0 2 = 0#2 →
          StepStops (.jalr d a im) s level OnlyContext (TookG d (s.cc.pc + 4) (s.cc.rg a + im.signExtend 64) s.cc))
      ∧ (∀ s1 e pa, Reaches s va 8 { r := true } s1 e pa →
          StepStops (.ldd d r m18) s level LoadFrame
            (TookG d (BitVec.ofNat 64 (loadAt s1 (meWho s) va pa e.attr 8)) (s.cc.pc + 4) s.cc))
      ∧ (∀ s1 s2 e pa, Reaches s va 8 { w := true } s1 e pa → pa % 8 = 0 →
          storeAt s1 (meWho s) va pa e.attr 8 (2 ^ 64 - 1) (s.cc.rg d).toNat = .ok s2 →
          StepStops (.std d r m18) s level (StoreFrame pa 8 (s.cc.rg d)) (fun m => m = { s.cc with pc := s.cc.pc + 4 })))
    ∧ (s.cc.repOn = true → attached → ∀ i v, (i, v) ∈ [(Instr.add d a b, s.cc.rg a + s.cc.rg b),
          (.addi d a im, s.cc.rg a + im.signExtend 64)] →
        StepStops i s level OnlyContext (fun c => ∃ m, TookG d v s.cc.pc s.cc m ∧ Advanced m c))
    ∧ (s.cc.repOn = false → CanTrap s → (∀ n, n ≤ 2 → dbg.contains n = false) →
        GivesCtx (.addi d a im) s (fun c => ∃ m, TookG d (s.cc.rg a + im.signExtend 64) (s.cc.pc + 4) s.cc m ∧ Entered 0x16 0 0 m c))

/-! ### Loads and stores -/

/-- R138, R139: what each load writes, of the n bytes that the context reads at its address (R137, R333). Where the home of its line is
on another die, or its page is a system window, its packet sets out and the context waits (R326, R385, R413); packets to other dies
are as log entries 17 and 26 have them. -/
def Obligations.LoadsRead : Prop :=
  ∀ (s s1 : State) (d : BitVec 5) (r : BitVec 3) (im : BitVec 18) (e : TlbEnt) (va pa : Nat), Issues s →
    va = (s.cc.ra r + im.signExtend 80).toNat →
    let n (w : Nat) : Nat := loadAt s1 (meWho s) va pa e.attr w
    let ok (w : Nat) : Prop := Reaches s va w { r := true } s1 e pa
    let gives (i : Instr) (v : Word) : Prop := Loads i s (TookG d v (s.cc.pc + 4) s.cc)
    (ok 1 → gives (.ldb d r im) ((BitVec.ofNat 8 (n 1)).signExtend 64) ∧ gives (.ldbu d r im) (BitVec.ofNat 64 (n 1)))
    ∧ (ok 2 → gives (.ldh d r im) ((BitVec.ofNat 16 (n 2)).signExtend 64) ∧ gives (.ldhu d r im) (BitVec.ofNat 64 (n 2)))
    ∧ (ok 4 → gives (.ldw d r im) ((BitVec.ofNat 32 (n 4)).signExtend 64) ∧ gives (.ldwu d r im) (BitVec.ofNat 64 (n 4)))
    ∧ (ok 8 → gives (.ldd d r im) (BitVec.ofNat 64 (n 8)))
    ∧ (ok 4 → Loads (.fldw d r im) s (TookF d (0xFFFFFFFF#32 ++ BitVec.ofNat 32 (n 4)) 0 s.cc))
    ∧ (ok 8 → Loads (.fldd d r im) s (TookF d (BitVec.ofNat 64 (n 8)) 0 s.cc))
    ∧ (∀ i w op, (i, w, op) ∈ [(Instr.ldb d r im, 1, AccOp.load (.g d) 1 true), (.ldbu d r im, 1, .load (.g d) 1 false),
          (.ldh d r im, 2, .load (.g d) 2 true), (.ldhu d r im, 2, .load (.g d) 2 false), (.ldw d r im, 4, .load (.g d) 4 true),
          (.ldwu d r im, 4, .load (.g d) 4 false), (.ldd d r im, 8, .load (.g d) 8 false), (.fldw d r im, 4, .load (.fw d) 4 false),
          (.fldd d r im, 8, .load (.fd d) 8 false)] →
        GoesOut i s s1 op va w { r := true } e pa)

/-- R138, R139: each store writes the low bytes of its register at its address, and no other byte of memory; g0 stores zero.
The store finds no other group's open range and a free pool line where it needs one (R141): storeAt answers. Where the home of its line
is on another die, or its page is a system window, its packet sets out and the context waits (R326, R385, R413); packets to other dies
are as log entries 17 and 26 have them. -/
def Obligations.StoresWrite : Prop :=
  ∀ (s s1 s2 : State) (d : BitVec 5) (r : BitVec 3) (im : BitVec 18) (e : TlbEnt) (va pa : Nat), Issues s →
    va = (s.cc.ra r + im.signExtend 80).toNat →
    let ok (w : Nat) (v : Word) : Prop :=
      Reaches s va w { w := true } s1 e pa ∧ pa % w = 0
      ∧ storeAt s1 (meWho s) va pa e.attr w (2 ^ (8 * w) - 1) v.toNat = .ok s2
    (ok 1 (s.cc.rg d) → Stores (.stb d r im) s pa 1 (s.cc.rg d))
    ∧ (ok 2 (s.cc.rg d) → Stores (.sth d r im) s pa 2 (s.cc.rg d))
    ∧ (ok 4 (s.cc.rg d) → Stores (.stw d r im) s pa 4 (s.cc.rg d))
    ∧ (ok 8 (s.cc.rg d) → Stores (.std d r im) s pa 8 (s.cc.rg d))
    ∧ (ok 4 (s.cc.rf d) → Stores (.fstw d r im) s pa 4 (s.cc.rf d))
    ∧ (ok 8 (s.cc.rf d) → Stores (.fstd d r im) s pa 8 (s.cc.rf d))
    ∧ (∀ i w v, (i, w, v) ∈ [(Instr.stb d r im, 1, s.cc.rg d), (.sth d r im, 2, s.cc.rg d), (.stw d r im, 4, s.cc.rg d),
          (.std d r im, 8, s.cc.rg d), (.fstw d r im, 4, s.cc.rf d), (.fstd d r im, 8, s.cc.rf d)] →
        GoesOut i s s1 (.store w v) va w { w := true } e pa)

/-- R116, R137, R140, R141, R153: a load or store whose address is no multiple of its width traps with 0x03 and changes nothing else;
one whose translation, permission or range check fails with a code of the customer's level (0x04, 0x07, 0x0B) traps with that code,
and so does a store that needs a new shadow line and finds no pool line (0x0C); none writes a byte. tval and tvalh hold the address. A
translation that fails with a code of the reseller's or the owner's stage (0x05, 0x06) freezes the context at the instruction and its region. -/
def Obligations.AccessChecksTrap : Prop :=
  ∀ (s : State) (d : BitVec 5) (r : BitVec 3) (im : BitVec 18) (va : Nat), Issues s → va = (s.cc.ra r + im.signExtend 80).toNat →
    let loads : List (Instr × Nat) := [(.ldb d r im, 1), (.ldbu d r im, 1), (.ldh d r im, 2), (.ldhu d r im, 2), (.ldw d r im, 4),
      (.ldwu d r im, 4), (.ldd d r im, 8), (.fldw d r im, 4), (.fldd d r im, 8)]
    let stores : List (Instr × Nat) := [(.stb d r im, 1), (.sth d r im, 2), (.stw d r im, 4), (.std d r im, 8), (.fstw d r im, 4),
      (.fstd d r im, 8)]
    (CanTrap s → ∀ i w, (i, w) ∈ loads ++ stores → va % w ≠ 0 →
      Enters i s 0x03 (BitVec.ofNat 64 va) (BitVec.ofNat 64 (va / 2 ^ 64)))
    ∧ (∀ i w need, ((i, w) ∈ loads ∧ need = { r := true }) ∨ ((i, w) ∈ stores ∧ need = { w := true }) → Refuses i s va w need)
    ∧ (CanTrap s → ∀ i w, (i, w) ∈ stores → ∀ s1 e pa, Reaches s va w { w := true } s1 e pa → pa % w = 0 →
        isPhased s1 (meWho s) va e.attr = true → (lineRec s1 (pa / 128)).cur = none →
        poolLimit (s1.part (s.lease s.cc.lease).part) (lineHome (pa / 128))
          ≤ Tbl.get 0 (s1.part (s.lease s.cc.lease).part).inUse (lineHome (pa / 128)) →
        FaultsAt i s 0x0C va)
    ∧ (∀ i w, (i, w) ∈ loads ++ stores → va % w = 0 → ∀ code, code = 0x05 ∨ code = 0x06 → translateCtx s s.cur.ctx va = .error code →
        (s.lease s.cc.lease).st = .running → (s.lease s.cc.lease).work = none →
        ∃ t, exec i s = .next t ∧ t.cc = { s.cc with st := .frozen, thaw := .ready } ∧ (t.lease s.cc.lease).st = .frozen
          ∧ t.mem = s.mem
          ∧ ∃ f, (t.lease s.cc.lease).faults = (s.lease s.cc.lease).faults ++ [f] ∧ f.code = code
              ∧ f.level = (if code = 0x05 then 1 else 0) ∧ f.replied = false)

/-- R141, R328: an agent reads back what it stored, whatever version of the line its store made, merged into or wrote in place, as
long as the units of the line's newest version are units of agents (R53). That the writer reads its own write before the boundary is
read from R328 by inference (log entry 21, DEDUCED). -/
def Obligations.OwnStoreIsReadBack : Prop :=
  ∀ (s t : State) (w : Who) (va pa n v : Nat) (at_ : PageAttr), 0 < n → n ≤ 8 → pa % n = 0 → 128 % n = 0 → w.proc = none →
    (∀ x, (lineRec s (pa / 128)).cur = some x → ∃ b : Agent, x.unit.scope ≤ 6 ∧ x.unit = agentUnit b x.unit.scope) →
    storeAt s w va pa at_ n (2 ^ (8 * n) - 1) v = .ok t →
    loadAt t w va pa at_ n = v % 2 ^ (8 * n)

/-! ### Number formats and float forms -/

/-- R86, R92, R96: in every format, rounding mode and with or without FTZ for a normal code, the exact value of a finite code
rounds to that code and raises no flag. -/
def Obligations.ExactValuesEncodeToThemselves : Prop :=
  ∀ (f : Fmt) (rm : Rm) (ftz : Bool) (c : Nat), f ∈ [Fmt.e4m3, .e5m2, .bf16, .fp32, .fp64] →
    c < 2 ^ f.width → c % f.signW ≤ f.maxFin → (ftz = true → f.isSub c = false) →
    f.enc rm ftz (f.dec c) = (c, {})

/-- R144 to R146, R151: the arithmetic forms read f[a], f[b] and, for FFMA and FFMS, f[d] in the format, compute in the mode and
FTZ of fcr, write the result and OR its flags into fcr. -/
def Obligations.FloatArithmetic : Prop :=
  ∀ (s : State) (d a b m : BitVec 5) (t : BitVec 1) (f : Fmt), Issues s → f = (if t = 1#1 then Fmt.fp64 else Fmt.fp32) →
    let rm := Rm.ofBits (s.cc.fcr.extractLsb' 0 2)
    let md := if m = 0 then rm else Rm.ofBits (m.extractLsb' 0 2)
    let ftz := s.cc.fcr.getLsbD 2
    let x := readFmt f (s.cc.rf a)
    let y := readFmt f (s.cc.rf b)
    let z := readFmt f (s.cc.rf d)
    let gives (i : Instr) (r : Nat × FFlags) : Prop := ResultF i s d (boxFmt f r.1) r.2.bits
    gives (.fadd d a b t) (f.add rm ftz x y)
    ∧ gives (.fsub d a b t) (f.sub rm ftz x y)
    ∧ gives (.fmul d a b t) (f.mul rm ftz x y)
    ∧ gives (.fdiv d a b t) (f.div rm ftz x y)
    ∧ gives (.fsqrt d a m t) (f.sqrt md ftz x)
    ∧ gives (.ffma d a b t) (f.fma rm ftz false x y z)
    ∧ gives (.ffms d a b t) (f.fma rm ftz true x y z)
    ∧ gives (.fmin d a b t) (f.minmax ftz false x y)
    ∧ gives (.fmax d a b t) (f.minmax ftz true x y)

/-- R143, R147, R150: how a float register reads in a format, and what a result leaves in the bits above it; the sign moves write the sign as they say, the canonical NaN for a NaN in f[a], and raise no flag; the moves
between registers leave every bit as it is. -/
def Obligations.FloatLayoutSignsAndMoves : Prop :=
  ∀ (s : State) (d a b : BitVec 5) (t : BitVec 1) (f : Fmt) (v : Word) (n : Nat), Issues s → f = (if t = 1#1 then Fmt.fp64 else Fmt.fp32) →
    let x := readFmt f (s.cc.rf a)
    let y := readFmt f (s.cc.rf b)
    let top := 2 ^ (f.width - 1)
    let gives (i : Instr) (neg : Bool) : Prop :=
      ResultF i s d (boxFmt f (if f.dec x = .nan then f.canonNaN else x % top + (if neg then top else 0))) 0
    gives (.fneg d a t) (decide (x / top % 2 = 0))
    ∧ gives (.fabs d a t) false
    ∧ gives (.fcpys d a b t) (decide (y / top % 2 = 1))
    ∧ ResultG (.fmvg d a) s d (s.cc.rf a)
    ∧ ResultF (.gmvf d a) s d (s.cc.rg a) 0
    ∧ readFmt .fp64 v = v.toNat
    ∧ readFmt .fp32 v = (if v.extractLsb' 32 32 = 0xFFFFFFFF#32 then (v.extractLsb' 0 32).toNat else 0x7FC00000)
    ∧ readFmt .bf16 v = (if v.extractLsb' 16 48 = 0xFFFFFFFFFFFF#48 then (v.extractLsb' 0 16).toNat else 0x7FC0)
    ∧ (n < 2 ^ 64 → boxFmt .fp64 n = BitVec.ofNat 64 n)
    ∧ (n < 2 ^ 32 → boxFmt .fp32 n = 0xFFFFFFFF#32 ++ BitVec.ofNat 32 n)
    ∧ (n < 2 ^ 16 → boxFmt .bf16 n = 0xFFFFFFFFFFFF#48 ++ BitVec.ofNat 16 n)

/-- R148: the compares write 1 or 0 to g[d]; a NaN gives 0, and −0 equals +0. FLT and FLE raise nv on a NaN; a flushed input
raises uf and nx. -/
def Obligations.FloatCompares : Prop :=
  ∀ (s : State) (d a b : BitVec 5) (t : BitVec 1) (f : Fmt), Issues s → f = (if t = 1#1 then Fmt.fp64 else Fmt.fp32) →
    let ftz := s.cc.fcr.getLsbD 2
    let x := f.inp ftz (readFmt f (s.cc.rf a))
    let y := f.inp ftz (readFmt f (s.cc.rf b))
    let nan := decide (x.1 = .nan ∨ y.1 = .nan)
    let flushed := x.2 || y.2
    let gives (i : Instr) (ok nv : Bool) : Prop :=
      ResultGF i s d (if !nan && ok then 1 else 0) ({ nv, uf := flushed, nx := flushed } : FFlags).bits
    gives (.feq d a b t) (FV.cmp x.1 y.1 == .eq) false
    ∧ gives (.flt d a b t) (FV.cmp x.1 y.1 == .lt) nan
    ∧ gives (.fle d a b t) (FV.cmp x.1 y.1 != .gt) nan

/-- R149: the conversions, from the format that y names (or the integer width) to the one that x names: 00 F32, 01 F64, 10 BF16. -/
def Obligations.FloatConversions : Prop :=
  ∀ (s : State) (d a m : BitVec 5) (x y : BitVec 2) (w : BitVec 1), Issues s →
    let fmt (c : BitVec 2) : Fmt := if c = 0#2 then .fp32 else if c = 1#2 then .fp64 else .bf16
    let rm := if m = 0 then Rm.ofBits (s.cc.fcr.extractLsb' 0 2) else Rm.ofBits (m.extractLsb' 0 2)
    let ftz := s.cc.fcr.getLsbD 2
    let v := (fmt y).inp ftz (readFmt (fmt y) (s.cc.rf a))
    let bits : Nat := if w = 1#1 then 64 else 32
    let i := if w = 1#1 then (s.cc.rg a).toInt else ((s.cc.rg a).extractLsb' 0 32).toInt
    let r := v.1.toRange rm (-(2 ^ (bits - 1))) (2 ^ (bits - 1) - 1)
    let c := (fmt x).enc rm ftz v.1
    let n := (fmt x).enc rm ftz (FV.ofInt i)
    ResultF (.fcvt d a m x y) s d (boxFmt (fmt x) c.1) (c.2.or { uf := v.2, nx := v.2 }).bits
    ∧ ResultGF (.fcvti d a m w y) s d (BitVec.ofInt 64 r.1) (r.2.or { uf := v.2, nx := v.2 }).bits
    ∧ ResultF (.icvtf d a m x w) s d (boxFmt (fmt x) n.1) n.2.bits

/-! ### Traps and system forms -/

/-- R152, R155, R110: TRAP and an illegal word take a trap to tvec: epc, cause, tval, tvalh, status and pc as the rule gives;
inside a repeat epc holds the prefix and repstate stands.
R27, R152, R153: a TRAP in the handler, or without a trap entry, makes no entry: the context is FROZEN at the instruction,
its registers as they were, and the region is frozen, with an open fault of the code for level 2. -/
def Obligations.TrapsEnterOrFreeze : Prop :=
  (∀ (s : State) (n : BitVec 10) (x : BitVec 26), s.cc.st = .ready → s.cc.busy = none → s.cc.wait = none → CanTrap s →
      let enters (i : Instr) (code : Nat) (tval : Word) : Prop :=
        ∃ t, exec i s = .next t ∧ ContextAlone s t
          ∧ t.cc = { s.cc with epc := s.cc.pc, cause := BitVec.ofNat 64 (2 * 2 ^ 8 + code), tval, tvalh := 0, status := t.cc.status,
                               pc := s.cc.tvec, repOn := false }
          ∧ StatusEntered s.cc.status t.cc.status
      enters (.trap n) 0x18 (n.setWidth 64) ∧ enters (.illegal x) 0x01 (s.cur.word.setWidth 64))
  ∧ (∀ (s : State) (n : BitVec 10), s.cc.st = .ready → (s.lease s.cc.lease).st = .running → (s.lease s.cc.lease).work = none →
      (s.cc.status.extractLsb' 2 1 = 1#1 ∨ s.cc.tvec = 0) →
      ∃ t, exec (.trap n) s = .next t
        ∧ t.cc = { s.cc with st := .frozen, thaw := .ready }
        ∧ (t.lease s.cc.lease).st = .frozen
        ∧ (∀ k, k ≠ s.cur.ctx → (t.ctx k).g = (s.ctx k).g ∧ (t.ctx k).pc = (s.ctx k).pc)
        ∧ ∃ f, (t.lease s.cc.lease).faults = (s.lease s.cc.lease).faults ++ [f] ∧ f.code = 0x18 ∧ f.level = 2 ∧ f.replied = false)

/-- R156: ERET restores ie from pie, clears intrap and goes to epc; outside a handler it traps with 0x01.
R152, R156: a trap taken by TRAP and left by ERET brings back pc and ie, and leaves the registers, outside a repeat. -/
def Obligations.EretRestores : Prop :=
  ∀ s : State, Issues s →
    (s.cc.status.extractLsb' 2 1 = 1#1 → s.cc.repstate.getLsbD 31 = false →
      GivesCtx .eret s (fun c => c = { s.cc with status := c.status, pc := s.cc.epc, repW := none }
        ∧ c.status.getLsbD 0 = s.cc.status.getLsbD 1 ∧ c.status.getLsbD 1 = s.cc.status.getLsbD 1
        ∧ c.status.getLsbD 2 = false ∧ c.status.getLsbD 4 = false
        ∧ ∀ n, 2 < n → n ≠ 4 → c.status.getLsbD n = s.cc.status.getLsbD n))
    ∧ (CanTrap s → Enters .eret s 0x01 0 0)
    ∧ (∀ n : BitVec 10, CanTrap s → s.cc.repstate.getLsbD 31 = false → s.cc.status.getLsbD 4 = false →
        ∃ t u, exec (.trap n) s = .next t ∧ exec .eret t = .next u
          ∧ u.cc.pc = s.cc.pc ∧ u.cc.status.getLsbD 0 = s.cc.status.getLsbD 0 ∧ u.cc.status.getLsbD 2 = false
          ∧ u.cc.g = s.cc.g ∧ u.cc.f = s.cc.f ∧ u.cc.a = s.cc.a ∧ u.cc.fcr = s.cc.fcr ∧ u.cc.repstate = s.cc.repstate
          ∧ u.mem = s.mem)

/-- R25, R157: CSRR reads the CSR that its index names, tstamp giving global time; an index outside the table traps. That global time
starts from 0 at reset and runs without skew between the dies is the model's choice (log entry 2). -/
def Obligations.CsrReads : Prop :=
  ∀ (s : State) (d : BitVec 5) (k : BitVec 12), Issues s →
    let reads (v : Word) : Prop := ResultG (.csrr d k) s d v
    (k = 0x000 → reads s.cc.status) ∧ (k = 0x001 → reads s.cc.cause) ∧ (k = 0x002 → reads s.cc.epc)
    ∧ (k = 0x003 → reads s.cc.tvec) ∧ (k = 0x004 → reads s.cc.tval) ∧ (k = 0x005 → reads s.cc.tvalh)
    ∧ (k = 0x010 → reads s.cc.fcr) ∧ (k = 0x011 → reads s.cc.repstate) ∧ (k = 0x020 → reads s.cc.leaseR)
    ∧ (k = 0x021 → reads s.cc.ctxR) ∧ (k = 0x030 → reads (BitVec.ofNat 64 (s.fc * 10 / 21)))
    ∧ (k = 0x031 → reads s.cc.tsfloor) ∧ (k = 0x040 → reads s.cc.evhead) ∧ (k = 0x041 → reads s.cc.evtail)
    ∧ (k = 0x050 → reads s.cc.scratch)
    ∧ (CanTrap s → k.toNat ∉ [0, 1, 2, 3, 4, 5, 0x10, 0x11, 0x20, 0x21, 0x30, 0x31, 0x40, 0x41, 0x50] →
        Enters (.csrr d k) s 0x01 (s.cur.word.setWidth 64) 0)

/-- R26, R157: CSRW, CSRS and CSRC write, set and clear. A register marked RO, a reserved bit or a read-only field of status, and
a repstate whose next exceeds its cnt trap with 0x01, a misaligned epc or tvec with 0x03, and the CSR keeps its value. -/
def Obligations.CsrWrites : Prop :=
  ∀ (s : State) (x : BitVec 5) (i : BitVec 12 → Instr) (new : Word → Word), Issues s →
    ((i = .csrw x ∧ new = fun _ => s.cc.rg x) ∨ (i = .csrs x ∧ new = fun o => o ||| s.cc.rg x)
      ∨ (i = .csrc x ∧ new = fun o => o &&& ~~~(s.cc.rg x))) →
    let next (c : Ctx) : Prop := GivesCtx (i 0) s (fun c' => c' = { c with pc := s.cc.pc + 4 })
    let gives (k : BitVec 12) (c : Ctx) : Prop := GivesCtx (i k) s (fun c' => c' = { c with pc := s.cc.pc + 4 })
    let stat := new s.cc.status
    let rep := new s.cc.repstate
    (gives 0x050 { s.cc with scratch := new s.cc.scratch })
    ∧ ((new s.cc.epc).extractLsb' 0 2 = 0#2 → gives 0x002 { s.cc with epc := new s.cc.epc })
    ∧ ((new s.cc.tvec).extractLsb' 0 2 = 0#2 → gives 0x003 { s.cc with tvec := new s.cc.tvec })
    ∧ ((new s.cc.fcr).extractLsb' 8 56 = 0#56 → gives 0x010 { s.cc with fcr := new s.cc.fcr })
    ∧ (stat.extractLsb' 2 62 = s.cc.status.extractLsb' 2 62 → next { s.cc with status := stat })
    ∧ (rep.extractLsb' 32 32 = 0#32 → rep.extractLsb' 21 10 = 0#10 →
        (rep.getLsbD 31 = true → (rep.extractLsb' 0 6).toNat ≤ (rep.extractLsb' 6 6).toNat) →
        GivesCtx (i 0x011) s (fun c => c = { s.cc with repstate := rep, status := c.status, pc := s.cc.pc + 4 }
          ∧ ∀ n, c.status.getLsbD n = if n = 4 then rep.getLsbD 31 else s.cc.status.getLsbD n))
    ∧ (CanTrap s →
        (∀ k ∈ [0x001#12, 0x004, 0x005, 0x020, 0x021, 0x030, 0x031, 0x040, 0x041], Enters (i k) s 0x01 0 0)
        ∧ ((new s.cc.epc).extractLsb' 0 2 ≠ 0#2 → Enters (i 0x002) s 0x03 0 0)
        ∧ ((new s.cc.tvec).extractLsb' 0 2 ≠ 0#2 → Enters (i 0x003) s 0x03 0 0)
        ∧ ((new s.cc.fcr).extractLsb' 8 56 ≠ 0#56 → Enters (i 0x010) s 0x01 0 0)
        ∧ (stat.extractLsb' 2 62 ≠ s.cc.status.extractLsb' 2 62 → Enters (i 0x000) s 0x01 0 0)
        ∧ ((rep.extractLsb' 32 32 ≠ 0#32 ∨ rep.extractLsb' 21 10 ≠ 0#10
            ∨ rep.getLsbD 31 = true ∧ (rep.extractLsb' 6 6).toNat < (rep.extractLsb' 0 6).toNat) → Enters (i 0x011) s 0x01 0 0))

/-- R155, R159 to R161: WFE completes with an event queued and else waits at itself; HALT halts past itself; BRK traps with 0x17
where no level is attached, and else halts for the attached level with the highest number, at itself, which is the model's choice (log
entry 28); IFENCE discards the words fetched ahead. -/
def Obligations.WaitsHaltsAndBreaks : Prop :=
  ∀ s : State, Issues s →
    (s.cc.evq ≠ [] → FallsThrough .wfe s)
    ∧ (s.cc.evq = [] → ∃ t, exec .wfe s = .next t ∧ ContextAlone s t ∧ t.cc = { s.cc with st := .waiting, wait := some .wfe })
    ∧ GivesCtx .halt s (fun c => c = { s.cc with st := .halted, pc := s.cc.pc + 4 })
    ∧ GivesCtx .ifence s (fun c => c = { s.cc with fbuf := [], pc := s.cc.pc + 4 })
    ∧ (CanTrap s → (∀ n ≤ 2, (s.lease s.cc.lease).dbg.contains n = false) → Enters .brk s 0x17 0 0)
    ∧ (∀ level ≤ 2, s.cc.dbgHalt = false → (s.lease s.cc.lease).dbg.contains level = true →
        (∀ n, level < n → n ≤ 2 → (s.lease s.cc.lease).dbg.contains n = false) →
        ∃ u : State, ContextAlone s u
          ∧ u.cc = { s.cc with st := .halted, dbgHalt := true, dbgPrev := .ready, haltBy := level,
                               cause := BitVec.ofNat 64 (level * 2 ^ 8 + 0x17) }
          ∧ exec .brk s = .next (writeFRec u (ctxRec u s.cur.ctx 0x17 level 0)))

/-- R117, R163: a REP reads the word that follows it. One that may follow starts the repeats: repstate holds the fields of the
prefix with next 0, status.rep is set, and pc stays at the prefix. One that may not traps with 0x01 at the prefix, tval holding
the word, repstate.active and status.rep clear. -/
def Obligations.RepStarts : Prop :=
  ∀ (s s1 : State) (n : BitVec 6) (d a b : BitVec 1) (e f g : BitVec 2) (w : Code), Issues s →
    fetchWord s s.cur.ctx (s.cc.pc + 4).toNat = .ok (s1, w) →
    (repOk w (4 * d.toNat + 2 * a.toNat + b.toNat) = true →
      ∃ t, exec (.rep n d a b e f g) s = .next t
        ∧ t.cc = { s1.cc with repstate := t.cc.repstate, status := t.cc.status, repOn := true, repW := some w }
        ∧ (∀ m, t.cc.status.getLsbD m = (decide (m = 4) || s1.cc.status.getLsbD m))
        ∧ t.cc.repstate = (1#1 ++ 0#10 ++ e ++ f ++ g ++ d ++ a ++ b ++ n ++ 0#6).setWidth 64
        ∧ (∀ k, k ≠ s.cur.ctx → t.ctx k = s1.ctx k)
        ∧ t = { s1 with ctxs := t.ctxs, leases := t.leases }
        ∧ ∀ l, t.lease l = if l = s.cc.lease then { s1.lease l with prog := 0 } else s1.lease l)
    ∧ (repOk w (4 * d.toNat + 2 * a.toNat + b.toNat) = false → CanTrap s →
      ∃ t, exec (.rep n d a b e f g) s = .next t ∧ t = { s1 with ctxs := t.ctxs } ∧ (∀ k, k ≠ s.cur.ctx → t.ctx k = s1.ctx k)
        ∧ t.cc = { s1.cc with epc := s.cc.pc, cause := BitVec.ofNat 64 (2 * 2 ^ 8 + 0x01), tval := w.setWidth 64, tvalh := 0,
                              repstate := t.cc.repstate, status := t.cc.status, pc := s.cc.tvec }
        ∧ t.cc.repstate.getLsbD 31 = false ∧ t.cc.status.getLsbD 4 = false ∧ t.cc.status.getLsbD 2 = true)

/-! ### Configuration, ports and tokens -/

/-- R172: CFG.LOAD gives the next ticket and queues a load with the operands as they stand at issue, its rounding mode among
them; a fifth outstanding load gives 0 and starts nothing. A load of the context that has ended and had the same ticket loses its
name, and no other load changes. -/
def Obligations.ConfigLoadStarts : Prop :=
  ∀ (s : State) (d b : BitVec 5) (a : BitVec 3) (v : Word) (tk : Nat), Issues s → s.cc.rg b = v →
    v.extractLsb' 9 55 = 0#55 → ((v.extractLsb' 0 7).toNat < 64 ∨ v.extractLsb' 0 7 = 0x7F#7) →
    tk = (if s.cc.loadTk < 65535 then s.cc.loadTk + 1 else 1) →
    let mine := s.loads.filter (fun x => x.ctx == s.cur.ctx && x.ticket != 0 && (x.st == .reading || x.st == .running))
    (mine.length < 4 →
      ∃ t x, exec (.cfgLoad d a b) s = .next t
        ∧ t = { s with ctxs := t.ctxs, leases := t.leases, loads := s.loads.map (Load.rename s.cur.ctx tk) ++ [x] }
        ∧ x = { ctx := s.cur.ctx, ticket := tk, lease := s.cc.lease, conf := (v.extractLsb' 0 7).toNat, all := v.getLsbD 8,
                notify := v.getLsbD 7, rm := s.cc.fcr.extractLsb' 0 2, image := (s.cc.ra a).toNat }
        ∧ t.cc = { s.cc with g := t.cc.g, loadTk := tk, pc := s.cc.pc + 4 }
        ∧ (∀ y, y ≠ 0 → t.cc.rg y = if y = d then BitVec.ofNat 64 tk else s.cc.rg y)
        ∧ (∀ k, k ≠ s.cur.ctx → t.ctx k = s.ctx k)
        ∧ (∀ l, t.lease l = if l = s.cc.lease then { s.lease l with prog := 0 } else s.lease l))
    ∧ (4 ≤ mine.length → ResultG (.cfgLoad d a b) s d 0)

/-- R174: CFG.WAIT on one ticket: 3 at once for an unknown one; it waits while the load is outstanding, gives 0 when it has
completed, and traps with 0x19 and the image offset when it was refused, which is then forgotten. -/
def Obligations.ConfigWaitReports : Prop :=
  ∀ (s : State) (d a : BitVec 5) (x : Load), Issues s →
    ((∀ y ∈ s.loads, y.ctx = s.cur.ctx → y.ticket ≠ (s.cc.rg a).toNat) → s.cc.rg a ≠ 0 → ResultG (.cfgWait d a) s d 3)
    ∧ (65536 ≤ (s.cc.rg a).toNat → ResultG (.cfgWait d a) s d 3)
    ∧ (x ∈ s.loads → x.ticket < 65536 → x.ctx = s.cur.ctx → x.ticket = (s.cc.rg a).toNat → s.cc.rg a ≠ 0 →
        (∀ y ∈ s.loads, y.ctx = x.ctx → y.ticket = x.ticket → y = x) → x.recent s = true →
        (x.st = .reading ∨ x.st = .running → WaitsFor (.cfgWait d a) s (.cfg d [x.ticket]))
        ∧ (x.st = .done → ResultG (.cfgWait d a) s d 0)
        ∧ (∀ o, x.st = .refused o → CanTrap s →
            ∃ t, exec (.cfgWait d a) s = .next t ∧ Entered 0x19 (BitVec.ofNat 64 o) 0 s.cc t.cc
              ∧ t = { s with ctxs := t.ctxs, loads := s.loads.filter (fun y => !(y.ctx == x.ctx && y.ticket == x.ticket)) }
              ∧ (∀ k, k ≠ s.cur.ctx → t.ctx k = s.ctx k)))
    ∧ (s.cc.rg a = 0 → (∀ y ∈ s.loads, y.ctx ≠ s.cur.ctx ∨ y.st = .done) → ResultG (.cfgWait d a) s d 0)

/-- R176, R177: OPW and SWW of a word that passes its checks write it at the step and lane, or the index, of the selected tile:
at once, or at the end of the firing in progress (R52). No other word of the tile changes. -/
def Obligations.TileWordsAreWritten : Prop :=
  ∀ (s : State) (a b : BitVec 5) (v x : Word) (k : Nat), Issues s → s.cc.rg a = v → s.cc.rg b = x → Selects s v k →
    TreeOpen s k →
    let step := (v.extractLsb' 19 5).toNat
    let lane := (v.extractLsb' 24 3).toNat
    let key := step * 8 + lane
    let w := x.extractLsb' 0 32
    let t0 := s.tile k
    (opwBad (overTheTree s k) k key (v.getLsbD 27) w = false →
      ∃ tl, FallsOn (.opw a b) s ((overTheTree s k).setTile k tl)
        ∧ (t0.firing.isSome = true → tl = { t0 with late := t0.late ++ [{ sw := false, key, word := w }] })
        ∧ (t0.firing = none → tl.op step lane = w ∧ (∀ j, j ≠ key → Tbl.get 0 tl.ops j = Tbl.get 0 t0.ops j)
            ∧ tl.sw = t0.sw ∧ tl.kreg = t0.kreg ∧ tl.inq = t0.inq ∧ tl.outq = t0.outq ∧ tl.actors = t0.actors))
    ∧ (v.extractLsb' 24 4 = 0#4 → x.extractLsb' 16 48 = 0#48 → swSanc (x.extractLsb' 0 16) = false →
       switchBad s (s.lease s.cc.lease).image s.cc.lease k ((t0.sw.filter (fun e => e.1 != step)).map (fun e => e.2)) (x.extractLsb' 0 16) = false →
       t0.firing = none → t0.inPassage (swIn (Tbl.get 0 t0.sw step)) (swCls (Tbl.get 0 t0.sw step)) = false →
       t0.inPassage (swIn (x.extractLsb' 0 16)) (swCls (x.extractLsb' 0 16)) = false →
       FallsOn (.sww a b) s ((overTheTree s k).setTile k { t0 with sw := Tbl.set 0 t0.sw step (x.extractLsb' 0 16) }))

/-- R178 to R180: PORT.BIND of a declared, free port of a running lease reads its descriptor and starts the engine; the status
codes of the other cases; PORT.UNBIND stops the engine and gives its committed index, all ones for an unbound port, and waits
while the lease does not run, or stands halted by a debugger. -/
def Obligations.PortsBindAndUnbind : Prop :=
  ∀ (s s1 : State) (d b : BitVec 5) (a : BitVec 3) (v : Word) (p : Nat) (ws : List Nat), Issues s → s.cc.rg b = v → v.toNat = p →
    p < 32 →
    let l := s.cc.lease
    let e := eng s l p
    let va := (s.cc.ra a).toNat
    let word (i : Nat) : Nat := (BitVec.ofNat 64 (ws.getD i 0)).toNat
    (portRec s l p = none → ResultG (.portBind d a b) s d 3)
    ∧ ((portRec s l p).isSome = true →
        (e.bound = true → e.st ≠ .finished → ResultG (.portBind d a b) s d 1)
        ∧ ((e.bound = false ∨ e.st = .finished) →
            ((s.lease l).st ≠ .running → ResultG (.portBind d a b) s d 5)
            ∧ ((s.lease l).st = .running → va % 8 = 0 → readVaWords s s.cur.ctx 8 va 9 = .ok (s1, ws) →
                (descBad (ws.map (BitVec.ofNat 64)) = true → ResultGOn (.portBind d a b) s s1 d 4)
                ∧ (descBad (ws.map (BitVec.ofNat 64)) = false → descNoHost s1 l (ws.map (BitVec.ofNat 64)) = true →
                    ResultGOn (.portBind d a b) s s1 d 3)
                ∧ (descBad (ws.map (BitVec.ofNat 64)) = false → descNoHost s1 l (ws.map (BitVec.ofNat 64)) = false →
                    ∃ e', ResultGOn (.portBind d a b) s (setEng s1 l p e') d 0
                      ∧ e'.bound = true ∧ e'.st = .running ∧ e'.ctx = s.cur.ctx ∧ e'.committed = 0
                      ∧ e'.dir = (word 1).testBit 16 ∧ e'.host.isSome = (word 1).testBit 17
                      ∧ e'.ext = [word 2 % 2 ^ 32 + 1, word 2 / 2 ^ 32 + 1, word 3 % 2 ^ 32 + 1, word 3 / 2 ^ 32 + 1,
                                  word 4 % 2 ^ 32 + 1]
                      ∧ ((word 1).testBit 17 = false → e'.base = word 0 + word 1 % 2 ^ 16 * 2 ^ 64))))
        ∧ (e.bound = false → ResultG (.portUnbind d b) s d 0xFFFFFFFFFFFF)
        ∧ (e.bound = true → edgeLive s l = true → e.st = .running → e.dir = false → e.side < 8 →
            ResultGOn (.portUnbind d b) s (setEng s l p { e with bound := false, st := .finished, eosDue := true }) d
              (if e.committed = 0 then 0xFFFFFFFFFFFF else BitVec.ofNat 64 ((e.committed - 1) % 2 ^ 48)))
        ∧ (e.bound = true → edgeLive s l = true → e.st = .running → e.dir = true → e.inbuf = [] →
            ResultGOn (.portUnbind d b) s (setEng s l p { e with bound := false, st := .finished }) d
              (if e.committed = 0 then 0xFFFFFFFFFFFF else BitVec.ofNat 64 ((e.committed - 1) % 2 ^ 48)))
        ∧ (e.bound = true → edgeLive s l = false →
            ∃ t, exec (.portUnbind d b) s = .next t ∧ ContextAlone s t ∧ t.cc = { s.cc with busy := some (.unbind p d) }))

/-- R181, R182: INJ puts one token into an input queue with room of a tile of a running lease, and says what stands against it
otherwise; EXT takes the first token of an output queue that no branch of a multicast has taken, or gives bit 63 where there is none.
That q3 is busy while a packet enters it, and a queue while a thread does, are the model's choices (log entry 14), and so is that an EXT
behind a take of the router's in the same fc is issued again (log entry 1).
R11, R38: a data, error or EOS token that enters an input queue stands at its tail, and leaves the other queues; with a
header it is latched when it is at the head. -/
def Obligations.TokensInAndOut : Prop :=
  (∀ (s : State) (d a b : BitVec 5) (v x : Word) (k q : Nat), Issues s → s.cc.rg a = v → s.cc.rg b = x → Selects s v k →
      v.extractLsb' 19 5 = 0#5 → v.getLsbD 27 = false → (v.extractLsb' 24 3).toNat = q → q < 4 →
      let l := s.cc.lease
      (x.extractLsb' 36 28 = 0#28 → (x.extractLsb' 32 4).toNat < 6 →
        ((s.lease l).st ≠ .running → ResultG (.inj d a b) s d 5)
        ∧ ((s.lease l).st = .running → (s.tile k).qRoom q = false → ResultG (.inj d a b) s d 1)
        ∧ ((s.tile k).qRoom q = true ↔ ((s.tile k).iq q).length < 16 ∧ Tbl.get [] (s.tile k).threadIn q = [])
        ∧ ((s.lease l).st = .running → q = 3 → (s.tile k).held 6 3 ≠ 0 → ResultG (.inj d a b) s d 1)
        ∧ ((s.lease l).st = .running → (s.tile k).qRoom q = true → injSpent (s.lease l) = false →
            blocksMeet s (s.cur.ctx / 8) (tileStoker k) = true → (q = 3 → (s.tile k).held 6 3 = 0) →
            ∃ u, OnlyContext (serve (countInj s l (tileDie k)) (.inq k q) 8) u ∧ TookG d 0 (s.cc.pc + 4) s.cc u.cc
              ∧ exec (.inj d a b) s = .next (arriveQ u k q { kind := x.extractLsb' 32 4, pay := x.extractLsb' 0 32 })))
      ∧ ((x.extractLsb' 36 28 ≠ 0#28 ∨ 5 < (x.extractLsb' 32 4).toNat) → CanTrap s → Enters (.inj d a b) s 0x02 0 0)
      ∧ (lateFor s (.outq k q) 0 = true → exec (.ext d a) s = .next s)
      ∧ ((∀ e ∈ (s.tile k).otaken, e.1 < 32 → e.1 % 4 = q → e.2 = []) → (s.tile k).extIdx q = 0)
      ∧ (TreeOpen s k → lateFor s (.outq k q) 0 = false → ((s.tile k).oq q)[(s.tile k).extIdx q]? = none →
          ResultGOn (.ext d a) s (overTheTree s k) d (1 <<< 63))
      ∧ (∀ y, TreeOpen s k → lateFor s (.outq k q) 0 = false → ((s.tile k).oq q)[(s.tile k).extIdx q]? = some y →
          ∃ tl, ResultGOn (.ext d a) s ((overTheTree s k).setTile k tl) d ((y.kind ++ y.pay).setWidth 64)
            ∧ tl.oq q = ((s.tile k).oq q).eraseIdx ((s.tile k).extIdx q) ∧ (∀ j, j ≠ q → tl.oq j = (s.tile k).oq j) ∧ tl.inq = (s.tile k).inq ∧ tl.ops = (s.tile k).ops))
  ∧ (∀ (s : State) (k q : Nat) (x : Token), (x.kind = 0 ∨ x.kind = 2 ∨ x.kind = 3) →
      (∀ y r, (s.tile k).iq q = y :: r → y.kind ≠ 1) →
      ((arriveQ s k q x).tile k).iq q = (s.tile k).iq q ++ [x]
      ∧ (∀ j, j ≠ q → ((arriveQ s k q x).tile k).iq j = (s.tile k).iq j)
      ∧ (∀ j, j ≠ k → (arriveQ s k q x).tile j = s.tile j)
      ∧ arriveQ s k q x = { s with tiles := (arriveQ s k q x).tiles })

/-- R171, R186, R368: SWEEP writes the number of stalled joins and stores at most g[b] entries from a[a]; none stored leaves memory. Each
tile of another block that it reads counts as one injected token. -/
def Obligations.SweepListsStalledJoins : Prop :=
  ∀ (s s1 : State) (d b : BitVec 5) (a : BitVec 3) (v : Word), Issues s → s.cc.rg b = v → v.extractLsb' 16 48 = 0#48 →
    TreesOpen s (leaseTiles s s.cc.lease) →
    let joins := sweepTiles s s.cc.lease Tile.stalledJoin
    let tree := overTheTrees s (leaseTiles s s.cc.lease)
    (v = 0 ∨ joins = [] → ResultGOn (.sweep d a b) s tree d (BitVec.ofNat 64 joins.length))
    ∧ ((s.cc.ra a).toNat % 8 = 0 → storeWords tree s.cur.ctx (s.cc.ra a).toNat (joins.take v.toNat) = .ok s1 →
        ResultGOn (.sweep d a b) s s1 d (BitVec.ofNat 64 joins.length))

/-! ### Lease forms -/

/-- R183 to R185: the LEASE forms on a lease of the issuing partition: what each starts, where the issuing level holds the right for it,
or, for LEASE.DRAIN and for LEASE.RESUME of mode 1, where the lease is the issuing one. Each writes 0 when it starts, 2 for a lease in
no state for it and 5 while another form's work is in progress. A lease that drains or freezes itself completes the form first. Without
the right each traps with 0x07. -/
def Obligations.LeaseFormsStart : Prop :=
  ∀ (s : State) (d a b : BitVec 5) (l : Nat), Issues s → (s.cc.rg a).toNat = l → l < 4096 →
    (s.lease l).st ≠ .none → (s.lease l).part = (s.lease s.cc.lease).part →
    let le := s.lease l
    let right (n : Nat) : Prop := (s.part (s.lease s.cc.lease).part).rights.getLsbD n = true
    let own : Prop := l = s.cc.lease
    let starts (i : Instr) (P : State → State → Prop) : Prop :=
      ∃ u t, OnlyContext s u ∧ TookG d 0 (s.cc.pc + 4) s.cc u.cc ∧ exec i s = .next t ∧ P u t
    (right 0 ∨ own →
      (le.st = .running → le.work = none → le.starting = false →
        starts (.leaseDrain d a) (fun u t =>
          t = { u with leases := t.leases, tiles := t.tiles, fab := t.fab } ∧ (t.lease l).st = .draining
          ∧ (t.lease l).work = some { issuer := s.cur.ctx + 1, began := s.fc }
          ∧ (∀ j, j ≠ l → t.lease j = u.lease j)))
      ∧ (le.st = .draining → ResultG (.leaseDrain d a) s d 2)
      ∧ (le.st = .running → le.work.isSome = true → ResultG (.leaseDrain d a) s d 5))
    ∧ (right 0 →
      (le.st = .running → le.work.isSome = true →
        ResultG (.leaseFreeze d a) s d 5 ∧ ((s.cc.rg b).toNat < 8192 → ResultG (.leaseMove d a b) s d 5))
      ∧ (le.st = .running → le.work = none → loadsOpen s l = false → (∀ e ∈ le.engines, e.2.bound = true → e.2.st ≠ .faulted) →
          starts (.leaseFreeze d a) (fun u t =>
            t = { u with leases := t.leases, ctxs := t.ctxs, tiles := t.tiles } ∧ (t.lease l).st = .freezing
            ∧ (t.lease l).work = some { issuer := s.cur.ctx + 1, began := s.fc }
            ∧ (∀ k, (s.ctx k).lease = l → (s.ctx k).st = .ready → t.ctx k = { u.ctx k with st := .frozen, thaw := .ready })))
      ∧ (le.st = .running → le.work = none → s.cc.rg b = 0 → ResultG (.leaseResume d a b) s d 2)
      ∧ (∀ c, le.st = .saved → s.cc.rg b = 0 → firstFit s le.part le.image (takenNow s [] none) (leaseHomes s l) = some c →
          starts (.leaseResume d a b) (fun u t => t = { u with leases := t.leases } ∧ (t.lease l).st = .resuming
            ∧ (t.lease l).work = some { issuer := s.cur.ctx + 1, dest := c, began := s.fc }))
      ∧ (∀ die, le.st = .running → le.work = none → le.starting = false → (s.cc.rg b).toNat < 8192 →
          physDie s le.part ((s.cc.rg b).extractLsb' 0 3).toNat = some die →
          let dest := tileKey die ((s.cc.rg b).extractLsb' 3 5).toNat ((s.cc.rg b).extractLsb' 8 5).toNat
          mayMove s l dest = true →
          starts (.leaseMove d a b) (fun u t => t = { u with leases := t.leases, tiles := t.tiles, fab := t.fab, dues := t.dues }
            ∧ (t.lease l).st = .moving
            ∧ (t.lease l).work = some { issuer := s.cur.ctx + 1, began := s.fc, dest := dest })))
    ∧ (right 4 ∨ own → le.st = .running → le.work = none → s.cc.rg b = 1 →
        starts (.leaseResume d a b) (fun u t => t = { u with ctxs := t.ctxs }
          ∧ (∀ k, (s.ctx k).lease = l →
              ((u.ctx k).st ≠ .halted → t.ctx k = u.ctx k)
              ∧ ((u.ctx k).st = .halted → (u.ctx k).dbgHalt = false → t.ctx k = { u.ctx k with st := .ready })
              ∧ ((u.ctx k).st = .halted → (u.ctx k).dbgHalt = true →
                  t.ctx k = { u.ctx k with dbgHalt := false, dbgAll := false
                                           st := if (u.ctx k).dbgPrev = .halted then .ready else (u.ctx k).dbgPrev }))
          ∧ (Tbl.sorted s.ctxs = true → ∀ k, (s.ctx k).lease ≠ l → t.ctx k = u.ctx k)))
    ∧ (¬ right 0 → CanTrap s →
        Enters (.leaseFreeze d a) s 0x07 (s.cc.rg a) 0 ∧ ((s.cc.rg b).toNat < 8192 → Enters (.leaseMove d a b) s 0x07 (s.cc.rg a) 0)
        ∧ (s.cc.rg b = 0 → Enters (.leaseResume d a b) s 0x07 (s.cc.rg a) 0)
        ∧ (¬ own → Enters (.leaseDrain d a) s 0x07 (s.cc.rg a) 0))
    ∧ (¬ right 4 → ¬ own → CanTrap s → s.cc.rg b = 1 → Enters (.leaseResume d a b) s 0x07 (s.cc.rg a) 0)

/-! ### Draught rings -/

/-- R171, R190 to R192: RING.DEF, MT.WRITE, MT.CLEAR and RING.INJ on a declared ring, by what they leave in the ring and in the banks of
its stops. Each stop in another block that a form reaches counts as one injected token. -/
def Obligations.RingTablesAreWritten : Prop :=
  (∀ (s : State) (d a b : BitVec 5) (x : BitVec 3) (v : Word) (r i e : Nat), Issues s → (s.lease s.cc.lease).image.rings[r]? = none →
    r < 16 → i < 64 → e < 4096 →
    (s.cc.rg b = BitVec.ofNat 64 r → ResultG (.ringDef d x b) s d 3)
    ∧ (s.cc.rg b = v → v.toNat = r + i * 2 ^ 4 → ResultG (.ringInj d x b) s d 3)
    ∧ (s.cc.rg a = v → v.toNat = r + i * 2 ^ 4 + e * 2 ^ 10 →
        ResultG (.mtWrite d a b) s d 3 ∧ (e = 0 → ResultG (.mtClear d a) s d 3)))
  ∧ ∀ (s s1 s2 : State) (d a b : BitVec 5) (x : BitVec 3) (v w : Word) (r i k : Nat) (rr : RingRec) (ws h : List Nat), Issues s →
    (s.lease s.cc.lease).image.rings[r]? = some rr → r < 16 → ringWaiter s s.cc.lease r = none →
    let l := s.cc.lease
    let g := ringOf s l r
    let va := (s.cc.ra x).toNat
    let outside (u : State) (n m : Nat) : Prop :=
      ∀ j c, (c < n ∨ n + m ≤ c) → (u.tile j).bank.read c = (s.tile j).bank.read c
    let idle := g.st = .undefined ∨ g.st = .running ∨ g.st = .done ∨ g.st = .faulted
    (s.cc.rg b = v → v.toNat = r + i * 2 ^ 4 → i < rr.stops.length → i < 64 → idle → ResultG (.ringInj d x b) s d 2)
    ∧ (∀ e, s.cc.rg a = v → v.toNat = r + i * 2 ^ 4 + e * 2 ^ 10 → i < rr.stops.length → i < 64 → e < 4096 →
        (idle → ResultG (.mtWrite d a b) s d 2)
        ∧ ((g.st = .defined ∨ g.st = .stopped) →
            (g.cap ≤ e ∨ (s.cc.rg b).extractLsb' 51 12 ≠ 0#12 ∨ (s.cc.rg b).extractLsb' 46 2 ≠ 0#2 ∨ (s.cc.rg b).extractLsb' 38 2 ≠ 0#2) →
            ResultG (.mtWrite d a b) s d 4)
        ∧ (e = 0 → idle → ResultG (.mtClear d a) s d 2))
    ∧ (s.cc.rg b = BitVec.ofNat 64 r → (g.st = .undefined ∨ g.st = .done) → va % 8 = 0 →
      readVaWords s s.cur.ctx 8 va 5 = .ok (s1, ws) →
      (ringDefine s1 l r rr ws = none → ResultGOn (.ringDef d x b) s s1 d 4)
      ∧ (∀ u, (ringDefine s1 l r rr ws).isSome = true → TreesOpen s1 (stopTiles s1 l rr) →
          ringDefine (overTheTrees s1 (stopTiles s1 l rr)) l r rr ws = some u →
          ResultGOn (.ringDef d x b) s u d 0
          ∧ ringOf u l r = { st := .defined, owner := s.cur.ctx, cap := bits (ws.getD 0 0) 8 13
                             lapLim := if ws.getD 0 0 % 256 = 0 then rr.laps else ws.getD 0 0 % 256
                             retA := ws.getD 1 0 + ws.getD 2 0 % 2 ^ 16 * 2 ^ 64
                             retB := ws.getD 3 0 + ws.getD 4 0 % 2 ^ 16 * 2 ^ 64
                             stops := rr.stops.map (fun _ => {}) }))
    ∧ (s.cc.rg b = BitVec.ofNat 64 r → g.st ≠ .undefined → g.st ≠ .done → ResultG (.ringDef d x b) s d 1)
    ∧ (s.cc.rg b = v → v.toNat = r + i * 2 ^ 4 → i < rr.stops.length → i < 64 → (g.st = .defined ∨ g.st = .stopped) →
        va % 8 = 0 → readVaWords s s.cur.ctx 8 va 2 = .ok (s1, h) →
        let full := ((g.stop i).slot (bits (h.getD 0 0) 31 1)).isSome = true
        (full → ResultGOn (.ringInj d x b) s s1 d 1)
        ∧ (¬ full → (64 < bits (h.getD 0 0) 24 7 ∨ 256 < bits (h.getD 1 0) 32 9 ∨ bits (h.getD 1 0) 41 23 ≠ 0) →
            ResultGOn (.ringInj d x b) s s1 d 4))
    ∧ (s.cc.rg b = v → v.toNat = r + i * 2 ^ 4 → i < rr.stops.length → i < 64 → stopTile s l rr i = some k → TreeOpen s k →
        (g.st = .defined ∨ g.st = .stopped) → (g.stop i).slot (bits (h.getD 0 0) 31 1) = none →
        va % 8 = 0 → readVaWords s s.cur.ctx 8 va 2 = .ok (s1, h) →
        bits (h.getD 0 0) 24 7 ≤ 64 → bits (h.getD 1 0) 32 9 ≤ 256 → bits (h.getD 1 0) 41 23 = 0 →
        readVaWords s1 s.cur.ctx 8 (va + 16) ((bits (h.getD 1 0) 32 9 + 1) / 2) = .ok (s2, ws) →
        let fam := bits (h.getD 0 0) 31 1
        ∃ u, ResultGOn (.ringInj d x b) s u d 0
          ∧ u = { overTheTree s2 k with tiles := u.tiles, leases := u.leases }
          ∧ ringOf u l r = g.setStop i ((g.stop i).setSlot fam (some i))
          ∧ outside u (slotAt rr fam) (16 + 4 * bits (h.getD 1 0) 32 9)
          ∧ imgTag (u.tile k).bank (slotAt rr fam) = h.getD 0 0 % 2 ^ 16
          ∧ imgLap (u.tile k).bank (slotAt rr fam) = 0)
    ∧ (∀ e, s.cc.rg a = v → v.toNat = r + i * 2 ^ 4 + e * 2 ^ 10 → i < rr.stops.length → i < 64 → e < g.cap → e < 4096 →
        stopTile s l rr i = some k → TreeOpen s k → (g.st = .defined ∨ g.st = .stopped) →
        s.cc.rg b = w → w.extractLsb' 51 12 = 0#12 → w.extractLsb' 46 2 = 0#2 → w.extractLsb' 38 2 = 0#2 →
        ∃ u, ResultGOn (.mtWrite d a b) s u d 0 ∧ u = { overTheTree s k with tiles := u.tiles }
          ∧ outside u (matchTab rr e) 8 ∧ entryAt (u.tile k).bank rr e = w.toNat)
    ∧ (∀ all : Bool, s.cc.rg a = v → v.toNat = r + i * 2 ^ 4 + boolBit all * 2 ^ 22 → (all = true → i = 0) →
        i < rr.stops.length → i < 64 → (g.st = .defined ∨ g.st = .stopped) →
        let reached := if all then stopTiles s l rr else (stopTile s l rr i).toList
        TreesOpen s reached →
        ∃ u, ResultGOn (.mtClear d a) s u d 0 ∧ u = { overTheTrees s reached with tiles := u.tiles }
          ∧ outside u (matchTab rr 0) (8 * g.cap)
          ∧ ∀ j n e, (all = true ∨ j = i) → j < rr.stops.length → stopTile s l rr j = some n → e < g.cap →
              entryAt (u.tile n).bank rr e = 0)

/-- R191, R193, R197, R198: RING.GO, RING.STAT and RING.STOP complete by the state of the ring: on a ring that the image does not
declare, and on a declared one, unless another context's RING.STOP waits for it. Each stop that stops or ends a ring posts a
RING_STOPPED with the last beat run; a RING.STOP of mode 1 waits for the end of the beat of a running ring, and for kindles that are
queued. A RING.GO in a drain starts no beat before the lease goes on (R199; log entry 18). -/
def Obligations.RingsRunAndStop : Prop :=
  ∀ (s : State) (d a b : BitVec 5) (r : Nat) (rr : RingRec), Issues s → s.cc.rg a = BitVec.ofNat 64 r → r < 16 →
    let l := s.cc.lease
    let g := ringOf s l r
    let next4 : Word := s.cc.pc + 4
    let stopped (g' : Ring) : State := postEvent (setRing s l r g') g.owner (evWord 0x05 0 r 0 (g.beat - 1))
    ((s.lease l).image.rings[r]? = none →
      (∃ t, Sys2Proof.Machine.exec (.ringGo d a) s = .next t ∧ OnlyContext s t ∧ TookG d 3 next4 s.cc t.cc)
      ∧ (∃ t, Sys2Proof.Machine.exec (.ringStat d a) s = .next t ∧ OnlyContext s t ∧ TookG d 0 next4 s.cc t.cc)
      ∧ (s.cc.rg b = 0 ∨ s.cc.rg b = 1 →
          ∃ t, Sys2Proof.Machine.exec (.ringStop d a b) s = .next t ∧ OnlyContext s t ∧ TookG d 0 next4 s.cc t.cc))
    ∧ ((s.lease l).image.rings[r]? = some rr → ringWaiter s l r = none →
        ((g.st = .defined ∨ g.st = .stopped) →
          ∃ t, Sys2Proof.Machine.exec (.ringGo d a) s = .next t
            ∧ OnlyContext (setRing s l r { g with
                st := .running, owner := s.cur.ctx, ending := if (s.lease l).st = .running then none else some 3 }) t
            ∧ TookG d 0 next4 s.cc t.cc)
        ∧ (g.st ≠ .defined → g.st ≠ .stopped →
            ∃ t, Sys2Proof.Machine.exec (.ringGo d a) s = .next t ∧ OnlyContext s t ∧ TookG d 2 next4 s.cc t.cc)
        ∧ (∃ t, ∃ v : Word, Sys2Proof.Machine.exec (.ringStat d a) s = .next t ∧ OnlyContext s t ∧ TookG d v next4 s.cc t.cc
            ∧ (v.extractLsb' 60 4).toNat = g.st.code ∧ (v.extractLsb' 48 12) = 0#12
            ∧ (v.extractLsb' 16 16).toNat = g.tiles.length % 2 ^ 16 ∧ (v.extractLsb' 0 16).toNat = (g.cntA + g.cntB) % 2 ^ 16)
        ∧ (s.cc.rg b = 0 →
            ((g.st = .undefined ∨ g.st = .defined ∨ g.st = .done ∨ g.st = .faulted) →
              ∃ t, Sys2Proof.Machine.exec (.ringStop d a b) s = .next t ∧ OnlyContext s t ∧ TookG d 0 next4 s.cc t.cc)
            ∧ (g.st = .stopped →
                ∃ t, Sys2Proof.Machine.exec (.ringStop d a b) s = .next t ∧ OnlyContext (postEvent s g.owner (evWord 0x05 0 r 0 (g.beat - 1))) t
                  ∧ TookG d (BitVec.ofNat 64 (g.beat - 1)) next4 s.cc t.cc)
            ∧ (g.st = .running → g.ending ≠ some 3 →
                ∃ t, Sys2Proof.Machine.exec (.ringStop d a b) s = .next t
                  ∧ OnlyContext (setRing s l r { g with ending := some 0, asked := g.asked + 1 }) t
                  ∧ TookG d (BitVec.ofNat 64 g.beat) next4 s.cc t.cc)
            ∧ (g.st = .running → g.ending = some 3 →
                ∃ t, Sys2Proof.Machine.exec (.ringStop d a b) s = .next t ∧ OnlyContext (stopped { g with st := .stopped, ending := none }) t
                  ∧ TookG d (BitVec.ofNat 64 (g.beat - 1)) next4 s.cc t.cc))
        ∧ (s.cc.rg b = 1 →
            (g.st = .undefined → ∃ t, Sys2Proof.Machine.exec (.ringStop d a b) s = .next t ∧ OnlyContext s t ∧ TookG d 0 next4 s.cc t.cc)
            ∧ ((g.st = .defined ∨ g.st = .stopped ∨ g.st = .done ∨ g.st = .faulted) → (∀ x ∈ g.stops, x.kq = []) →
                ∃ t, Sys2Proof.Machine.exec (.ringStop d a b) s = .next t ∧ OnlyContext (stopped {}) t
                  ∧ TookG d (BitVec.ofNat 64 (g.beat - 1)) next4 s.cc t.cc)
            ∧ ((g.st = .defined ∨ g.st = .stopped ∨ g.st = .done ∨ g.st = .faulted) → (∃ x ∈ g.stops, x.kq ≠ []) →
                ∃ t, Sys2Proof.Machine.exec (.ringStop d a b) s = .next t ∧ t = { s with ctxs := t.ctxs }
                  ∧ t.cc = { s.cc with busy := some (.ringStop r d) } ∧ ∀ k, k ≠ s.cur.ctx → t.ctx k = s.ctx k)
            ∧ (g.st = .running → g.ending ≠ some 3 →
                ∃ t, Sys2Proof.Machine.exec (.ringStop d a b) s = .next t ∧ t = { setRing s l r { g with ending := some 1 } with ctxs := t.ctxs }
                  ∧ t.cc = { s.cc with busy := some (.ringStop r d) } ∧ ∀ k, k ≠ s.cur.ctx → t.ctx k = s.ctx k)))

/-! ### Route classes and events -/

/-- R200 to R206: RC.SEND copies a packet into the send buffer of the stoker, or says what stands against it; RC.MASK and RC.UNMASK set
a tile's masks at the end of the fc, and RC.ROUTE its handlers; EV.POP, EV.PEEK and EV.POST act at the ends of event queues, a posted
record standing there from the end of the fc on. -/
def Obligations.RouteClassAndEventForms : Prop :=
  ∀ (s s1 : State) (d a b : BitVec 5) (x : BitVec 3) (v : Word) (k rc n : Nat) (ws : List Nat), Issues s → s.cc.rg a = v →
    let l := s.cc.lease
    (Selects s ((v.extractLsb' 32 32).setWidth 64) k → v.extractLsb' 51 9 = 0#9 → (v.extractLsb' 0 5).toNat = rc → rc ≠ 0 →
      n = (v.extractLsb' 5 8).toNat + 1 →
      ((s.lease l).st ≠ .running → ResultG (.rcSend d a x) s d 5)
      ∧ (∀ i, i < 8 → (s.lease l).st = .running → (s.ctx (s.cur.ctx / 8 * 8 + i)).sendBuf ≠ [] → ResultG (.rcSend d a x) s d 1)
      ∧ ((s.lease l).st = .running → (∀ i, i < 8 → (s.ctx (s.cur.ctx / 8 * 8 + i)).sendBuf = []) → (s.cc.ra x).toNat % 4 = 0 →
          readVaWords s s.cur.ctx 4 (s.cc.ra x).toNat n = .ok (s1, ws) →
          ∃ t head, exec (.rcSend d a x) s = .next t ∧ OnlyContext s1 t
            ∧ t.cc = { s.cc with g := t.cc.g, sendTile := k, sendRc := rc, pc := s.cc.pc + 4
                                 sendBuf := head :: ws.map (fun w => { kind := 0, pay := BitVec.ofNat 32 w }) }
            ∧ (∀ y, y ≠ 0 → t.cc.rg y = if y = d then 0 else s.cc.rg y)
            ∧ head.kind = 6 ∧ head.pay.extractLsb' 27 5 = v.extractLsb' 0 5 ∧ head.pay.extractLsb' 19 8 = v.extractLsb' 5 8
            ∧ head.pay.extractLsb' 0 19 = v.extractLsb' 13 19))
    ∧ (Selects s (v &&& ~~~(0xFF80000#64)) k → v.extractLsb' 28 36 = 0#36 → v.extractLsb' 24 3 = 0#3 →
        (v.extractLsb' 19 5).toNat = rc → rc ≠ 0 →
        let all := v.getLsbD 27 = true
        let named (j : Nat) : Prop := if all then (s.tile j).lease = some l ∧ tileStoker j = s.cur.ctx / 8 else j = k
        let tree : State := if all then s else overTheTree s k
        ((all ∨ TreeOpen s k) → Tbl.sorted s.tiles = true →
          ∃ js : List Nat, (∀ j, j ∈ js ↔ named j)
            ∧ FallsOn (.rcMask a) s { tree with dues := s.dues ++ js.map (fun j => .mask j rc true) }
            ∧ FallsOn (.rcUnmask a) s { tree with dues := s.dues ++ js.map (fun j => .mask j rc false) })
        ∧ (v.getLsbD 27 = false → TreeOpen s k → (s.cc.rg b).extractLsb' 4 60 = 0#60 →
            ∃ tl, FallsOn (.rcRoute a b) s ((overTheTree s k).setTile k tl)
              ∧ tl = { s.tile k with rcHandler := tl.rcHandler, rcAt := tl.rcAt, readyQ := tl.readyQ, aged := tl.aged }
              ∧ ((s.tile k).iq 3 = [] → tl.rcAt = (s.tile k).rcAt)
              ∧ ∀ c, Tbl.get 8 tl.rcHandler c =
                  if c = rc then (if (s.cc.rg b).getLsbD 3 then ((s.cc.rg b).extractLsb' 0 3).toNat else 8)
                  else Tbl.get 8 (s.tile k).rcHandler c))
    ∧ (s.cc.evq = [] → s.cc.evheld = [] → ResultG (.evPop d) s d 0 ∧ ResultG (.evPeek d) s d 0)
    ∧ (∀ w q, s.cc.evq = w :: q →
        ResultG (.evPeek d) s d w
        ∧ (q.length < 255 → GivesCtx (.evPop d) s (fun c =>
            c = { s.cc with g := c.g, evq := q ++ s.cc.evheld.take 1, evheld := s.cc.evheld.drop 1, evtail := c.evtail
                            evhead := BitVec.ofNat 64 ((s.cc.evhead.toNat + 1) % 256), pc := s.cc.pc + 4 }
            ∧ (s.cc.evheld = [] → c.evtail = s.cc.evtail)
            ∧ ∀ y, y ≠ 0 → c.rg y = if y = d then w else s.cc.rg y)))
    ∧ (∀ die t, v.extractLsb' 9 55 = 0#55 → physDie s (s.lease l).part (v.extractLsb' 0 3).toNat = some die →
        (leaseCtxs s l).find? (fun j => j / 8 == (die * 8 + (v.extractLsb' 3 3).toNat) * 8 + (v.extractLsb' 6 3).toNat) = some t →
        ((255 ≤ (s.ctx t).evq.length + evDue s t ∨ (s.ctx t).evheld ≠ []) → ResultG (.evPost d a b) s d 1)
        ∧ ((s.ctx t).evq.length + evDue s t < 255 → (s.ctx t).evheld = [] → (s.ctx t).st ≠ .free →
            blocksMeet s (s.cur.ctx / 8) (t / 8) = true →
            ∃ u w, exec (.evPost d a b) s = .next u ∧ u.dues = s.dues ++ [.event t w]
              ∧ w.extractLsb' 56 8 = 0x0C#8 ∧ w.extractLsb' 48 8 = 0#8 ∧ w.extractLsb' 0 32 = (s.cc.rg b).extractLsb' 0 32
              ∧ (w.extractLsb' 32 8).toNat = s.cur.ctx / 64 % 8 * 8 + s.cur.ctx / 8 % 8
              ∧ OnlyContext { s with dues := u.dues } u ∧ TookG d 0 (s.cc.pc + 4) s.cc u.cc))
    ∧ (∀ (t : State) (j c : Nat) (on : Bool), t.dues = [.mask j c on] →
        endFc t = { t with dues := [], tiles := (endFc t).tiles }
        ∧ (∀ i, (endFc t).tile i = if i = j then { t.tile j with rcMask := ((endFc t).tile j).rcMask } else t.tile i)
        ∧ ∀ y, y ∈ ((endFc t).tile j).rcMask ↔ (on = true ∧ y = c) ∨ ((on = true ∨ y ≠ c) ∧ y ∈ (t.tile j).rcMask))
    ∧ (∀ (t : State) (j : Nat) (w : Word), t.dues = [.event j w] → (t.ctx j).st ≠ .free → (t.ctx j).evq.length < 255 → (t.ctx j).evheld = [] →
        endFc t = { t with dues := [], ctxs := (endFc t).ctxs } ∧ (∀ i, i ≠ j → (endFc t).ctx i = t.ctx i)
        ∧ (endFc t).ctx j = { t.ctx j with evq := (t.ctx j).evq ++ [w], evtail := BitVec.ofNat 64 (((t.ctx j).evtail.toNat + 1) % 256) })

/-! ### Memory order, hints and time -/

/-- R215 to R219: PHASE records its arrival at the scope and at every narrower one, and waits; FENCE releases, acquires and falls
through; PREF changes nothing; DISCARD changes no line but one with a content not yet written back; TSREAD gives the larger of
tstamp and tsfloor. -/
def Obligations.OrderForms : Prop :=
  ∀ (s : State) (d b : BitVec 5) (a xs : BitVec 3) (q r : BitVec 1), Issues s →
    let l := s.cc.lease
    let me_ := Agent.ctx s.cur.ctx
    (∃ t, exec (.phase xs) s = .next t ∧ t = { s with ctxs := t.ctxs, leases := t.leases }
      ∧ t.cc = { s.cc with busy := some (.phase xs.toNat) } ∧ (∀ k, k ≠ s.cur.ctx → t.ctx k = s.ctx k)
      ∧ t.lease l = { s.lease l with arr := (t.lease l).arr }
      ∧ (∀ n ≤ xs.toNat, ∃ e ∈ (t.lease l).arr, e.unit = agentUnit me_ n ∧ e.agent = me_ ∧ e.ordn = s.ordn)
      ∧ ∀ e, e.agent ≠ me_ → (e ∈ (t.lease l).arr ↔ e ∈ (s.lease l).arr))
    ∧ (∃ t, exec (.fence xs q r) s = .next t
        ∧ t = { s with ctxs := t.ctxs, leases := t.leases, lines := t.lines, parts := t.parts, pubs := t.pubs }
        ∧ Acquired (q = 1) s.cc t.cc ∧ t.cc.g = s.cc.g ∧ (∀ k, k ≠ s.cur.ctx → t.ctx k = s.ctx k)
        ∧ (q = 1 → ∀ n, n < 6 → n + 1 ≤ xs.toNat → t.cc.snap.getD n 0 = s.ordn)
        ∧ (r = 1 → ∃ p ∈ t.pubs, p.lease = l ∧ p.unit = agentUnit me_ (min xs.toNat 6) ∧ timeNs s ≤ p.time))
    ∧ ((s.cc.rg b).toNat < 2 ^ 48 →
        FallsThrough (.pref a b xs) s
        ∧ ∃ t, exec (.discard a b xs) s = .next t
            ∧ t = { s with ctxs := t.ctxs, leases := t.leases, mem := t.mem, freeN := t.freeN }
            ∧ t.cc = { s.cc with pc := s.cc.pc + 4 } ∧ (∀ k, k ≠ s.cur.ctx → t.ctx k = s.ctx k)
            ∧ ∀ m, (Tbl.get {} s.dirty (m / 128)).data = [] → t.mem.read m = s.mem.read m)
    ∧ (2 ^ 48 ≤ (s.cc.rg b).toNat → CanTrap s →
        Enters (.pref a b xs) s 0x07 (s.cc.rg b) 0 ∧ Enters (.discard a b xs) s 0x07 (s.cc.rg b) 0)
    ∧ ResultG (.tsread d) s d (if s.cc.tsfloor.toNat ≤ timeNs s then BitVec.ofNat 64 (timeNs s) else s.cc.tsfloor)

/-! ### Atomics, barriers and buffers -/

/-- R220, R221: every atomic returns the old value of its w bytes, zero-extended, and leaves the value of the table there. One whose
checks fail with a code of the customer's level traps with it: a page that is not memory-side with 0x09, an open proof range with 0x0A, a
system window at a scope below 7 with 0x07. One to another die or, at scope 7, to a system window sets out, and the context waits for it
(R326, R385, R413). -/
def Obligations.AtomicsReturnOldAndWrite : Prop :=
  ∀ (s s1 : State) (d b : BitVec 5) (a xs : BitVec 3) (q r w : BitVec 1) (e : TlbEnt) (va pa n : Nat), Issues s →
    va = (s.cc.ra a).toNat →
    let size : Nat := if w = 1 then 8 else 4
    let m := s.mem.readN pa n
    let x := (s.cc.rg b).toNat % 2 ^ (8 * n)
    let c := (s.cc.rg d).toNat % 2 ^ (8 * n)
    let does (i : Instr) (new : Nat) : Prop :=
      Performs i s pa n (fun t => t.readN pa n = new % 2 ^ (8 * n)) (TookGA d (BitVec.ofNat 64 m) (q = 1) s.cc)
    let need : Need := { r := true, w := true, ms := true, noProof := true, noSys := xs.toNat != 7 }
    let forms : List (Instr × Nat) := [(.atAdd d a b xs q r w, 0x00), (.atAnd d a b xs q r w, 0x02), (.atOr d a b xs q r w, 0x03),
      (.atXor d a b xs q r w, 0x04), (.atMin d a b xs q r w, 0x05), (.atMax d a b xs q r w, 0x06), (.atMinn d a b xs q r w, 0x07),
      (.atMaxn d a b xs q r w, 0x08), (.atSwap d a b xs q r w, 0x09), (.atCas d a b xs q r w, 0x0A), (.atInc d a b xs q r w, 0x0B)]
    let op (fn : Nat) : AccOp := .atom fn n d (s.cc.rg b) (s.cc.rg d) xs.toNat (q == 1) (r == 1)
    (n = size → ∀ i fn, (i, fn) ∈ forms → Refuses i s va n need ∧ GoesOut i s s1 (op fn) va n need e pa)
    ∧ (n = 4 → Refuses (.atFadd d a b xs q r) s va n need ∧ GoesOut (.atFadd d a b xs q r) s s1 (op 0x01) va n need e pa)
    ∧ (n = size → Reaches s va n inPlace s1 e pa →
      does (.atAdd d a b xs q r w) (m + x)
      ∧ does (.atAnd d a b xs q r w) (m &&& x)
      ∧ does (.atOr d a b xs q r w) (m ||| x)
      ∧ does (.atXor d a b xs q r w) (m ^^^ x)
      ∧ does (.atMin d a b xs q r w) (if signed (8 * n) x < signed (8 * n) m then x else m)
      ∧ does (.atMax d a b xs q r w) (if signed (8 * n) m < signed (8 * n) x then x else m)
      ∧ does (.atMinn d a b xs q r w) (min m x)
      ∧ does (.atMaxn d a b xs q r w) (max m x)
      ∧ does (.atSwap d a b xs q r w) x
      ∧ does (.atCas d a b xs q r w) (if m = c then x else m)
      ∧ does (.atInc d a b xs q r w) (if x ≤ m then 0 else m + 1))
    ∧ (n = 4 → Reaches s va 4 inPlace s1 e pa → does (.atFadd d a b xs q r) (Fmt.fp32.add .rne false m x).1)

/-- R224, R227: the barrier forms, by the fields of the object before and after, where no operation on it has gone before in the fc.
A BAR.INIT releases the waiters on parity 1. A barrier or buffer form whose checks fail with a code of the customer's level traps with
it, on a system window with 0x07 (R223, R246); one to another die sets out, and the context waits for it. R225: the completion test, once, at the end of the fc, on the object and its waiters.
R246, R247: the buffer forms on a block that passes the checks of CB.INIT, and on one that does not. -/
def Obligations.BarriersAndBuffers : Prop :=
  (∀ (s s1 : State) (d b : BitVec 5) (a xs : BitVec 3) (q r : BitVec 1) (e : TlbEnt) (va pa : Nat) (v : Word), Issues s →
      va = (s.cc.ra a).toNat → s.cc.rg b = v → Reaches s va 32 inPlace s1 e pa →
      ServedNone s (.bar pa) →
      let o := barRead s.mem pa
      let t1 := max o.tsrel (timeNs s) % 2 ^ 64
      let arrived : Bar := { o with pend := o.pend + v.toNat, left := o.left - 1, tsrel := if r = 1 then t1 else o.tsrel }
      let falls (i : Instr) (o' : Bar) : Prop :=
        Performs i s pa 32 (fun t => barRead t pa = o') (fun c => c = { s.cc with pc := s.cc.pc + 4 })
      let gives (i : Instr) (o' : Bar) : Prop :=
        Performs i s pa 32 (fun t => barRead t pa = o') (TookGA d (BitVec.ofNat 64 o.par) False s.cc)
      (1 ≤ v.toNat → v.toNat ≤ 65535 →
          ((∀ x ∈ s.ctxs, ∀ acq va' p, x.2.wait ≠ some (.bar acq va' pa p none)) → (∀ x ∈ s.reqs, x.res ≠ some .wait) →
            falls (.barInit a b xs) { left := v.toNat, expect := v.toNat, scope := xs.toNat })
          ∧ ∃ t, exec (.barInit a b xs) s = .next t
            ∧ ∀ k acq va' p, k ≠ s.cur.ctx → (s.ctx k).wait = some (.bar acq va' pa p none) →
                t.ctx k = { s.ctx k with wait := some (.bar acq va' pa p (if p then some (xs.toNat, 0) else none)) })
      ∧ (v.toNat < 2 ^ 36 → o.pend + v.toNat < 2 ^ 36 →
          falls (.barExpect a b) { o with pend := o.pend + v.toNat }
          ∧ (o.left ≠ 0 → gives (.barArrive d a b r) arrived
              ∧ gives (.barDrop d a b r) { arrived with expect := (o.expect + 65535) % 65536 }))
      ∧ (v.toNat < 2 →
          Performs (.barTest d a b q) s pa 32 (fun t => barRead t pa = o)
            (TookGA d (if o.par ≠ v.toNat then 1 else 0) (q = 1 ∧ o.par ≠ v.toNat) s.cc)
          ∧ (o.par ≠ v.toNat →
              Performs (.barWait a b q) s pa 32 (fun t => barRead t pa = o)
                (fun c => Acquired (q = 1) s.cc c ∧ c.g = s.cc.g))
          ∧ (o.par = v.toNat → ∃ t, exec (.barWait a b q) s = .next t
              ∧ t.cc = { s.cc with st := .waiting, wait := some (.bar (q == 1) va pa (v == 1) none) }
              ∧ (∀ k, k ≠ s.cur.ctx → t.ctx k = s.ctx k)
              ∧ t = { s with ctxs := t.ctxs, leases := t.leases, stokers := t.stokers, hits := t.hits })))
  ∧ (∀ (s s1 : State) (d b : BitVec 5) (a xs : BitVec 3) (q r : BitVec 1) (e : TlbEnt) (va pa n : Nat), Issues s →
      va = (s.cc.ra a).toNat → n = (s.cc.rg b).toNat →
      let need : Need := { r := true, w := true, ms := true, noProof := true, noSys := true }
      ∀ i op, (i, op) ∈ [(Instr.cbInit d a, AccOp.cbInit d), (.cbAvail d a, .cbAvail d), (.cbRoom d a, .cbRoom d)]
          ∨ (n < 2 ^ 17 ∧ (i, op) ∈ [(Instr.cbPush d a b xs r, AccOp.cbPush xs.toNat (r == 1) d n),
              (.cbPop d a b xs q, .cbPop xs.toNat (q == 1) d n)])
          ∨ (n < 2 ^ 36 ∧ (i, op) ∈ [(Instr.barArrive d a b r, AccOp.barArrive false (r == 1) d n),
              (.barDrop d a b r, .barArrive true (r == 1) d n), (.barExpect a b, .barExpect n)])
          ∨ (n < 2 ∧ (i, op) ∈ [(Instr.barWait a b q, AccOp.barWait (q == 1) (n == 1)), (.barTest d a b q, .barTest (q == 1) d (n == 1))])
          ∨ (1 ≤ n ∧ n ≤ 65535 ∧ (i, op) = (Instr.barInit a b xs, AccOp.barInit xs.toNat n)) →
        Refuses i s va 32 need ∧ GoesOut i s s1 op va 32 need e pa)
  ∧ (∀ (t : State) (pa n : Nat), t.dues = [.served (.bar pa) n] →
      let o := barRead t.mem pa
      let o' : Bar := if o.cl = 0 ∧ o.left = 0 ∧ o.pend = 0 then
          { o with par := 1 - o.par, left := o.expect, cl := if o.expect = 0 then 1 else 0 }
        else o
      let u := endFc t
      u = { t with dues := [], mem := u.mem, ctxs := u.ctxs, reqs := u.reqs } ∧ barRead u.mem pa = o'
      ∧ (∀ m, m < pa ∨ pa + 32 ≤ m → u.mem.read m = t.mem.read m)
      ∧ (∀ k, (t.ctx k).wait = none → u.ctx k = t.ctx k)
      ∧ ∀ k acq va p, (t.ctx k).wait = some (.bar acq va pa p none) →
          u.ctx k = { t.ctx k with wait := some (.bar acq va pa p (if o'.par = boolBit p then none else some (o'.scope, o'.tsrel))) })
  ∧ (∀ (s s1 : State) (d b : BitVec 5) (a xs : BitVec 3) (q r : BitVec 1) (e : TlbEnt) (va pa n : Nat), Issues s →
      va = (s.cc.ra a).toNat → (s.cc.rg b).toNat = n → Reaches s va 32 inPlace s1 e pa →
      let o := cbRead s.mem pa
      let does (i : Instr) (o' : CBlk) (v : Int) (acq : Prop) : Prop :=
        Performs i s pa 32 (fun t => cbRead t pa = o') (TookGA d (BitVec.ofInt 64 v) acq s.cc)
      (o.ok s s.cc.lease = true →
        does (.cbInit d a) { o with w2 := 0, w3 := 0 } 0 False
        ∧ does (.cbAvail d a) o o.count False
        ∧ does (.cbRoom d a) o ((o.cap : Int) - o.count) False
        ∧ ((n : Int) ≤ o.room → n < 2 ^ 17 → does (.cbPush d a b xs r) { o with w2 := (o.prod + n) % (2 * o.cap) } (o.room - n) False)
        ∧ (n ≤ o.count → n < 2 ^ 17 →
            does (.cbPop d a b xs q) { o with w3 := (o.cons + n) % (2 * o.cap) } ((o.count : Int) - n) (q = 1)))
      ∧ (o.ok s s.cc.lease = false → does (.cbInit d a) o 4 False)
      ∧ (CanTrap s → n < 2 ^ 17 → ∀ i,
          (i = .cbPush d a b xs r ∧ (o.ok s s.cc.lease = false ∨ o.room < (n : Int)))
          ∨ (i = .cbPop d a b xs q ∧ (o.ok s s.cc.lease = false ∨ o.count < n))
          ∨ ((i = .cbAvail d a ∨ i = .cbRoom d a) ∧ o.ok s s.cc.lease = false) →
          ∃ t, exec i s = .next t ∧ Entered 0x12 (BitVec.ofNat 64 va) (BitVec.ofNat 64 (va / 2 ^ 64)) s.cc t.cc
            ∧ ∀ m, t.mem.read m = s.mem.read m))

/-! ### Proof levels and tag tables -/

/-- R229 to R234: SNAP.OPEN, SNAP.ADD (whose seventeenth range traps with 0x0D), SNAP.KEEP, SNAP.DROP and SNAP.QUERY complete on the levels of the issuing context's group, or say
what stands against them; a DROP gives every line that the level shadowed the content of its shadow back, and KEEP changes no content. -/
def Obligations.ProofLevels : Prop :=
  ∀ (s : State) (d a b : BitVec 5) (x xs : BitVec 3) (va n depth sc : Nat), Issues s →
    va = (s.cc.ra x).toNat → va % 128 = 0 → n = (s.cc.rg b).toNat → n % 128 = 0 → 1 ≤ n → n ≤ 2 ^ 48 →
    let l := s.cc.lease
    let group (c : Nat) : SUnit := agentUnit (.ctx s.cur.ctx) c
    let levels (t : State) (c : Nat) : List (List (Nat × Nat)) := snapLevels t l (group c)
    let next4 : Word := s.cc.pc + 4
    (xs.toNat ≤ 6 → otherHolds s l (group xs.toNat) va n = false → (levels s xs.toNat).length = depth →
      (depth < 4 → ∃ u t, Sys2Proof.Machine.exec (.snapOpen d x b xs) s = .next t ∧ OnlyContext u t
        ∧ TookG d (BitVec.ofNat 64 (xs.toNat + 8 * (depth + 1))) next4 s.cc t.cc
        ∧ u = { s with leases := u.leases } ∧ levels u xs.toNat = [(va, n)] :: levels s xs.toNat)
      ∧ (4 ≤ depth → CanTrap s → Enters (.snapOpen d x b xs) s 0x0D 0 0))
    ∧ (xs.toNat ≤ 6 → otherHolds s l (group xs.toNat) va n = true → CanTrap s → Enters (.snapOpen d x b xs) s 0x0B 0 0)
    ∧ (sc ≤ 6 → 1 ≤ depth → depth ≤ 4 →
        (s.cc.rg d = BitVec.ofNat 64 (sc + 8 * depth) → otherHolds s l (group sc) va n = false → ∀ rs rest, levels s sc = rs :: rest →
          (depth = (levels s sc).length → rs.length < 16 →
            ∃ u t, Sys2Proof.Machine.exec (.snapAdd d x b) s = .next t ∧ OnlyContext u t ∧ TookG d 0 next4 s.cc t.cc
              ∧ u = { s with leases := u.leases } ∧ levels u sc = (rs ++ [(va, n)]) :: rest)
          ∧ (depth = (levels s sc).length → 16 ≤ rs.length → CanTrap s → Enters (.snapAdd d x b) s 0x0D 0 0)
          ∧ (depth < (levels s sc).length → ResultG (.snapAdd d x b) s d 2)
          ∧ ((levels s sc).length < depth → ResultG (.snapAdd d x b) s d 3))
        ∧ (s.cc.rg a = BitVec.ofNat 64 (sc + 8 * depth) →
            (depth < (levels s sc).length → ResultG (.snapKeep d a) s d 2 ∧ ResultG (.snapDrop d a) s d 2)
            ∧ ((levels s sc).length < depth → ResultG (.snapKeep d a) s d 3 ∧ ResultG (.snapDrop d a) s d 3)
            ∧ ((levels s sc).length = depth → Tbl.sorted s.lines = true →
                (∃ u t, Sys2Proof.Machine.exec (.snapKeep d a) s = .next t ∧ OnlyContext u t ∧ TookG d 0 next4 s.cc t.cc
                  ∧ levels u sc = (levels s sc).drop 1 ∧ u.mem = s.mem)
                ∧ ∃ u t, Sys2Proof.Machine.exec (.snapDrop d a) s = .next t ∧ OnlyContext u t ∧ TookG d 0 next4 s.cc t.cc
                    ∧ levels u sc = (levels s sc).drop 1
                    ∧ ∀ ln, match (lineRec s ln).older.find? (fun y => y.proof == some (l, group sc, depth)) with
                        | some y => frameLine u ln = y.data
                        | none => frameLine u ln = frameLine s ln)))
    ∧ (s.cc.rg a = BitVec.ofNat 64 sc → sc ≤ 6 → ((levels s sc).headD []).length < 32 → (levels s sc).length < 8 →
        ∃ t, ∃ v : Word, Sys2Proof.Machine.exec (.snapQuery d a) s = .next t ∧ OnlyContext s t ∧ TookG d v next4 s.cc t.cc
          ∧ (v.extractLsb' 0 3).toNat = (levels s sc).length
          ∧ (v.extractLsb' 3 5).toNat = ((levels s sc).headD []).length ∧ v.extractLsb' 8 24 = 0#24)

/-- R16, R236, R237: TAG.LOOK, TAG.FILL, TAG.EVICT and TAG.CLEAR complete on the selected tile, and the updates of its tag table stand
from the end of the fc on. That TAG.EVICT returns the entry as it stood is the model's choice (log entry 28). -/
def Obligations.TagTables : Prop :=
  (∀ (s : State) (d a : BitVec 5) (b : BitVec 3) (v : Word) (k n : Nat), Issues s → s.cc.rg a = v → Selects s v k →
      v.extractLsb' 19 9 = 0#9 → s.cc.rg d = BitVec.ofNat 64 n → n < 256 →
      let slot (j : Nat) : BitVec 80 := Tbl.get 0 (s.tile k).tags j
      let tag : BitVec 72 := (s.cc.ra b).extractLsb' 8 72
      let hit (j : Nat) : Prop := (slot j).getLsbD 7 = true ∧ (slot j).extractLsb' 8 72 = tag
      let next4 : Word := s.cc.pc + 4
      let due (i : Option Nat) (e : BitVec 80) : State := { s with dues := s.dues ++ [.tag s.cur.ctx k i e] }
      (Tbl.sorted (s.tile k).tags = true → (∀ e ∈ (s.tile k).tags, e.1 < 256) →
        ∃ t j, Sys2Proof.Machine.exec (.tagLook d a b) s = .next t ∧ OnlyContext s t ∧ TookG d (BitVec.ofNat 64 j) next4 s.cc t.cc
          ∧ (∀ i, i < j → ¬ hit i) ∧ (j = 0x1FF ∨ hit j))
      ∧ (∃ t, Sys2Proof.Machine.exec (.tagFill d a b) s = .next t ∧ OnlyContext (due (some n) (tag ++ 0x80#8)) t
          ∧ t.cc = { s.cc with pc := next4 })
      ∧ (∃ t, Sys2Proof.Machine.exec (.tagEvict d a) s = .next t ∧ OnlyContext (due (some n) 0) t
          ∧ TookG d (BitVec.ofNat 64 (2 * ((slot n).getLsbD 6).toNat + ((slot n).getLsbD 7).toNat)) next4 s.cc t.cc)
      ∧ ∃ t, Sys2Proof.Machine.exec (.tagClear a) s = .next t ∧ OnlyContext (due none 0) t ∧ t.cc = { s.cc with pc := next4 })
  ∧ (∀ (t : State) (c k : Nat) (i : Option Nat) (e : BitVec 80), t.dues = [.tag c k i e] →
      endFc t = { t with dues := [], tiles := (endFc t).tiles } ∧ (∀ j, j ≠ k → (endFc t).tile j = t.tile j)
      ∧ (endFc t).tile k = { t.tile k with tags := ((endFc t).tile k).tags }
      ∧ (i = none → ((endFc t).tile k).tags = [])
      ∧ ∀ n j, i = some n → Tbl.get 0 ((endFc t).tile k).tags j = if j = n then e else Tbl.get 0 (t.tile k).tags j)
  ∧ (∀ (t : State) (c c' k n : Nat) (e e' : BitVec 80), t.dues = [.tag c k (some n) e, .tag c' k (some n) e'] →
      Tbl.get 0 ((endFc t).tile k).tags n = if c' < c then e else e')

/-! ### Copies, press forms and flue forms of a context -/

/-- R238 to R244: a CPY form starts a copy of its descriptor, with the next ticket, where the context has fewer than 2 in flight, or
fewer than 16 while the stoker's contexts hold fewer than 32 beyond their first 2; else it gives 0. A malformed
descriptor traps with 0x14. CPY.WAIT and CPY.STAT report a ticket that is unknown, in flight or ended. -/
def Obligations.CopiesStartAndReport : Prop :=
  ∀ (s s1 : State) (d b g : BitVec 5) (a xs : BitVec 3) (q r : BitVec 1) (ws : List Nat) (va n : Nat), Issues s →
    let k := s.cur.ctx
    let mine := s.copies.filter (fun c => c.ctx == k)
    let tk := if 65535 ≤ s.cc.cpyTk then 1 else s.cc.cpyTk + 1
    let shared := ((List.range 8).map (fun i => (s.copies.filter (fun c => c.ctx == k / 8 * 8 + i)).length - 2)).sum
    (va = (s.cc.ra a).toNat → va % 8 = 0 → (s.cc.rg b).extractLsb' 2 62 = 0#62 → readVaWords s k 8 va 8 = .ok (s1, ws) →
      ∀ i form, (i, form) ∈ [(Instr.cpyLin d a b xs q r, 0), (.cpyTwo d a b xs q r, 1), (.cpyGather d a b xs q r, 2),
                             (.cpyScatter d a b xs q r, 3), (.cpyFill d a b xs q r, 4)] →
        let c : Copy := { ctx := k, ticket := tk, lease := s.cc.lease, form := form, desc := ws.map (BitVec.ofNat 64),
                          notify := (s.cc.rg b).getLsbD 0, bar := (s.cc.rg b).getLsbD 1, scope := xs.toNat,
                          acq := q == 1, rel := r == 1 }
        (c.bad s1 = true → CanTrap s →
          ∃ t, exec i s = .next t ∧ Entered 0x14 (BitVec.ofNat 64 va) (BitVec.ofNat 64 (va / 2 ^ 64)) s.cc t.cc
            ∧ t = { s1 with ctxs := t.ctxs } ∧ ∀ j, j ≠ k → t.ctx j = s.ctx j)
        ∧ (c.bad s1 = false → (xs = 7 ∨ ∀ x ∈ c.named, inWindow s1 k x = false) →
            (mine.length < 2 ∨ (mine.length < 16 ∧ shared < 32) →
              ∃ t, exec i s = .next t ∧ t = { s1 with ctxs := t.ctxs, leases := t.leases, copies := s.copies ++ [c] }
                ∧ (∀ j, j ≠ k → t.ctx j = s.ctx j) ∧ t.cc = { s.cc with g := t.cc.g, cpyTk := tk, pc := s.cc.pc + 4 }
                ∧ ∀ y, y ≠ 0 → t.cc.rg y = if y = d then BitVec.ofNat 64 tk else s.cc.rg y)
            ∧ (2 ≤ mine.length → 16 ≤ mine.length ∨ 32 ≤ shared → ResultGOn i s s1 d 0)))
    ∧ ((s.cc.rg g).toNat = n → n ≠ 0 →
        ((∀ c ∈ mine, c.ticket ≠ n) → (∀ e ∈ s.cc.cpyEnded, e.ticket ≠ n) →
          ResultG (.cpyWait d g) s d 3 ∧ ResultG (.cpyStat d g) s d 0)
        ∧ (∀ c, mine.find? (fun x => x.ticket == n) = some c →
            WaitsFor (.cpyWait d g) s (.cpy d [n]) ∧ ResultG (.cpyStat d g) s d (BitVec.ofNat 64 (2 ^ 62 + c.units % 2 ^ 48)))
        ∧ (∀ e, (∀ c ∈ mine, c.ticket ≠ n) → s.cc.cpyEnded.getLast? = some e → e.ticket = n →
            ResultG (.cpyWait d g) s d (BitVec.ofNat 64 e.code)
            ∧ ResultG (.cpyStat d g) s d
                (BitVec.ofNat 64 ((if e.code = 0 then 2 else 3) * 2 ^ 62 + e.code * 2 ^ 48 + e.units % 2 ^ 48))))
    ∧ (s.cc.rg g = 0 →
        (mine = [] → ResultG (.cpyWait d g) s d 0)
        ∧ (mine ≠ [] → WaitsFor (.cpyWait d g) s (.cpy d (mine.map (fun c => c.ticket)))))

/-- R207 to R209, R288, R306, R310: PRS.ISSUE puts a control token into the queue of a press tile of a running lease, or says what
stands against it; PRS.READ puts its READ token there and waits for its value, or waits in the stoker while the queue is full or a
later context's token has gone before in the fc (the order of the requests of an fc is the model's choice, log entry 1); a FLUE form writes the function's value of f[a] in FP32 to f[d], boxed, and sets no
flag, where no other request stands before it at its flue, and waits for room for its result. -/
def Obligations.PressAndFlueForms : Prop :=
  ∀ (s : State) (d a b : BitVec 5) (xs : BitVec 3) (q r : BitVec 1) (v x : Word) (k : Nat), Issues s → s.cc.rg a = v → s.cc.rg b = x →
    let l := s.cc.lease
    let ctl := (s.tile k).press.ctl
    let late := lateFor s (.ctl k) (s.cur.ctx + 1)
    let pushed (u : PTok) : State :=
      serve ((overTheTree s k).setTile k { s.tile k with press := { (s.tile k).press with ctl := ctl ++ [u] } }) (.ctl k) (s.cur.ctx + 1)
    (Selects s v k → v.extractLsb' 19 9 = 0#9 → isPressTile s k = true → x.extractLsb' 32 32 = 0#32 →
      ((s.lease l).st ≠ .running → ResultG (.prsIssue d a b xs q r) s d 5)
      ∧ ((s.lease l).st = .running → TreeOpen s k → 16 ≤ ctl.length →
          ResultGOn (.prsIssue d a b xs q r) s (overTheTree s k) d 1)
      ∧ ((s.lease l).st = .running → ctl.length < 16 → late = true → exec (.prsIssue d a b xs q r) s = .next s)
      ∧ ((s.lease l).st = .running → TreeOpen s k → ctl.length < 16 → late = false →
          ResultGOn (.prsIssue d a b xs q r) s
            (pushed { word := x.extractLsb' 0 32, src := .issue s.cur.ctx (q == 1) (r == 1) xs.toNat }) d 0))
    ∧ (Selects s v k → v.extractLsb' 19 9 = 0#9 → isPressTile s k = false → CanTrap s → Enters (.prsIssue d a b xs q r) s 0x07 v 0)
    ∧ (Selects s v k → v.extractLsb' 19 9 = 0#9 → isPressTile s k = true → x.extractLsb' 14 50 = 0#50 →
        ((16 ≤ ctl.length ∨ late = true) → TreeOpen s k →
            ∃ t w, exec (.prsRead d a b) s = .next t ∧ t = { overTheTree s k with ctxs := t.ctxs }
              ∧ t.cc = { s.cc with busy := some (.prsWait k w d) } ∧ ∀ j, j ≠ s.cur.ctx → t.ctx j = s.ctx j)
        ∧ (ctl.length < 16 → late = false → TreeOpen s k →
            ∃ t u, exec (.prsRead d a b) s = .next t ∧ t = { pushed u with ctxs := t.ctxs } ∧ u.src = .read s.cur.ctx
              ∧ u.word.extractLsb' 28 4 = 2#4 ∧ u.word.extractLsb' 26 2 = x.extractLsb' 0 2
              ∧ u.word.extractLsb' 20 6 = x.extractLsb' 2 6 ∧ u.word.extractLsb' 14 6 = x.extractLsb' 8 6
              ∧ t.cc = { s.cc with busy := some (.prsRead d) } ∧ ∀ j, j ≠ s.cur.ctx → t.ctx j = s.ctx j))
    ∧ (injSpent (s.lease l) = false → s.cur.ctx < 4096 → ∀ i fn,
        (i, fn) ∈ [(Instr.flueExp2 d a, 0), (.flueLog2 d a, 1), (.flueRcp d a, 2), (.flueRsqrt d a, 3), (.flueSqrt d a, 4),
                   (.flueSinpi d a, 5), (.flueCospi d a, 6), (.flueTanh d a, 7), (.flueSigm d a, 8)] →
        let f := ctxFlue s.cur.ctx
        (nextReq s f = none → flueHeld s f < 256 →
          ∃ u t, exec i s = .next t ∧ OnlyContext u t ∧ u = { countInj s l (ctxDie s.cur.ctx) with flues := u.flues }
            ∧ TookF d (boxFmt .fp32 (flueEval fn .fp32 (readFmt .fp32 (s.cc.rf a)) % 2 ^ 32)) 0 s.cc t.cc)
        ∧ (256 ≤ flueHeld s f →
            ∃ t, exec i s = .next t ∧ t = { countInj s l (ctxDie s.cur.ctx) with ctxs := t.ctxs }
              ∧ t.cc = { s.cc with busy := some (.flue fn d (BitVec.ofNat 32 (readFmt .fp32 (s.cc.rf a))) s.ordn) }
              ∧ ∀ j, j ≠ s.cur.ctx → t.ctx j = s.ctx j))

/-! ### Element operations -/

/-- R62, R88, R249, R251 to R254: what a source gives, how operands join, how an integer result fits its width, and where a result
goes. -/
def Obligations.OperandsJoinAndResultsGo : Prop :=
  ∀ (s : State) (p : BitVec 8) (f : Firing) (x : Token) (rest : List Token) (q n : Nat) (z : Int), s.ct.firing = some f →
    let k := s.cur.tile
    let d := s.ct.desc f.actor
    (src s 0 p = (s, Opd.ofLane f.chain))
    ∧ (src s 1 p = (s, .val { kind := 0, pay := Tbl.get 0 s.ct.kreg (f.lane * 8 + (p.extractLsb' 0 3).toNat) } none))
    ∧ (src s 6 p = (s, .val { kind := 0, pay := p.signExtend 32 } none))
    ∧ (src s 7 p = (s, .val { kind := 0, pay := Tbl.get 0 s.ct.latch f.lane } none))
    ∧ (q < 4 → q ∉ (s.ct.act f.actor).closed → s.ct.iq q = x :: rest → x.kind ≠ 1 → (∀ y ∈ rest, y.kind ≠ 1) →
        ∃ s1, src s (BitVec.ofNat 3 (q + 2)) p = (s1, Opd.of x (Tbl.get none s.ct.hdr q)) ∧ (s1.tile k).iq q = rest
          ∧ (∀ j, j ≠ q → (s1.tile k).iq j = s.ct.iq j) ∧ (∀ j, j ≠ k → s1.tile j = s.tile j)
          ∧ ((x.kind = 2 ∧ dInq d q ≠ 0) ↔ q ∈ ((s1.tile k).act f.actor).closed))
    ∧ (q < 4 → q ∈ (s.ct.act f.actor).closed → (src s (BitVec.ofNat 3 (q + 2)) p).2 = .eos
        ∧ ((src s (BitVec.ofNat 3 (q + 2)) p).1.tile k).iq q = s.ct.iq q)
    ∧ (∀ mode pad a b, a.isVal = true →
        (joinOps mode pad [a, b] =
          match b with
          | .val _ _ => .vals a b .bub
          | .err e => .res (some (errTok e))
          | .bub => .res none
          | .eos => if mode = 1 then .vals a (.val { kind := 0, pay := pad } none) .bub
                    else if mode = 2 then .res none else .fault a.pay.toNat 1)
        ∧ joinOps mode pad [.eos, a] =
            (if mode = 1 then .vals (.val { kind := 0, pay := pad } none) a .bub
             else if mode = 2 then .res none else .fault a.pay.toNat 0))
    ∧ (∀ mode pad, joinOps mode pad [.eos, .eos] = .res (some { kind := 2 })
        ∧ joinOps mode pad [.eos, .eos, .eos] = .res (some { kind := 2 })
        ∧ ∀ e g, joinOps mode pad [.err e, .err g] =
            .res (some (errTok (if (g.extractLsb' 0 24).toNat < (e.extractLsb' 0 24).toNat then g else e))))
    ∧ (∀ mode pad ops,
        ((∃ e, Opd.err e ∈ ops) → ∃ e, Opd.err e ∈ ops ∧ joinOps mode pad ops = .res (some (errTok e))
          ∧ ∀ g, Opd.err g ∈ ops → (e.extractLsb' 0 24).toNat ≤ (g.extractLsb' 0 24).toNat)
        ∧ ((∀ e, Opd.err e ∉ ops) → Opd.bub ∈ ops → joinOps mode pad ops = .res none))
    ∧ (∀ mode pad u v w, (u.isVal = true ∨ u = .eos) → (v.isVal = true ∨ v = .eos) → (w.isVal = true ∨ w = .eos) →
        let val (o : Opd) : Opd := if o = .eos then .val { kind := 0, pay := pad } none else o
        let ended := u = .eos ∨ v = .eos ∨ w = .eos
        (¬ ended → joinOps mode pad [u, v, w] = .vals u v w)
        ∧ (ended → ¬ (u = .eos ∧ v = .eos ∧ w = .eos) →
            (mode = 1 → joinOps mode pad [u, v, w] = .vals (val u) (val v) (val w))
            ∧ (mode = 2 → joinOps mode pad [u, v, w] = .res none)
            ∧ (mode ≠ 1 → mode ≠ 2 → joinOps mode pad [u, v, w] =
                .fault (if u ≠ .eos then u else if v ≠ .eos then v else w).pay.toNat (if u = .eos then 0 else if v = .eos then 1 else 2))))
    ∧ (n ∈ [8, 16, 32] →
        ((narrow false true n z : Int) = z % 2 ^ n)
        ∧ (signed n (narrow true true n z) = max (-(2 ^ (n - 1))) (min (2 ^ (n - 1) - 1) z))
        ∧ ((narrow true false n z : Int) = max 0 (min (2 ^ n - 1) z)))
    ∧ (∀ (dst : BitVec 3) (r : Lane), f.lane + 1 < dLane0 d + dLanes d →
        let t := (putRes s (dest dst p) r).tile k
        t.firing = some { f with chain := r, lane := f.lane + 1, eos := f.eos || (match r with | some y => y.kind == 2 | none => false)
                                 regw := (t.firing.getD {}).regw }
        ∧ (2 ≤ dst.toNat → dst.toNat ≤ 5 → t.oq (dst.toNat - 2) = s.ct.oq (dst.toNat - 2) ++ r.toList)
        ∧ (∀ j, j + 2 ≠ dst.toNat → t.oq j = s.ct.oq j)
        ∧ (dst = 1 → (t.firing.getD {}).regw = f.regw ++ (match r with
            | some y => if y.kind = 2 ∨ y.kind = 3 then [] else [(f.lane * 8 + (p.extractLsb' 3 3).toNat, y.pay)]
            | none => []))
        ∧ t.bank = s.ct.bank ∧ t.inq = s.ct.inq ∧ t.kreg = s.ct.kreg
        ∧ ∀ j, j ≠ k → (putRes s (dest dst p) r).tile j = s.tile j)

/-- R256, R259 to R263, R270: what the arithmetic, shift, compare and conversion words give of values of their type: the integer types,
the halves of PAIR16, BF16 and FP32, and for compares E4M3 and E5M2 under their scales. -/
def Obligations.ElementArithmetic : Prop :=
  ∀ (s : State) (a b d : BitVec 3) (t : BitVec 4) (xs e : BitVec 1) (m : BitVec 2) (p : BitVec 8), s.ct.firing.isSome = true →
    let sat := xs == 1
    let rm := Rm.ofBits (if m = 3 then s.ct.rm else m)
    let one (i : Instr) (f : Code → Code) : Prop := Word1 i s a d p (fun o => { kind := 0, pay := f o.pay })
    let two (i : Instr) (f : Code → Code → Code) : Prop := Word2 i s a b d p false (fun u v _ => { kind := 0, pay := f u.pay v.pay })
    let mac (i : Instr) (f : Code → Code → Code → Code) : Prop :=
      Word2 i s a b d p true (fun u v c => { kind := 0, pay := f u.pay v.pay c.pay })
    (∀ n sg, (t = 0 ∧ n = 8 ∧ sg = true) ∨ (t = 1 ∧ n = 16 ∧ sg = true) ∨ (t = 2 ∧ n = 32 ∧ sg = true)
        ∨ (t = 3 ∧ n = 16 ∧ sg = false) ∨ (t = 10 ∧ n = 8 ∧ sg = false) →
      let v (x : Code) : Int := if sg then signed n x.toNat else (x.toNat % 2 ^ n : Nat)
      let u (x : Code) : Nat := x.toNat % 2 ^ n
      let put (sat : Bool) (z : Int) : Code := laneExt t.toNat (narrow sat sg n z)
      let by_ (x : Code) : Nat := u x % 64
      two (.elemAdd a b d t xs e p) (fun x y => put sat (v x + v y))
      ∧ two (.elemSub a b d t xs e p) (fun x y => put sat (v x - v y))
      ∧ two (.elemMul a b d t xs e p) (fun x y => put sat (v x * v y))
      ∧ two (.elemMulh a b d t e p) (fun x y => put false (v x * v y / 2 ^ n))
      ∧ mac (.elemMac a b d t xs e p) (fun x y c => put sat (v x * v y + v c))
      ∧ two (.elemMin a b d t e p) (fun x y => put false (min (v x) (v y)))
      ∧ two (.elemMax a b d t e p) (fun x y => put false (max (v x) (v y)))
      ∧ one (.elemAbs a d t xs e p) (fun x => put sat (v x).natAbs)
      ∧ one (.elemNeg a d t xs e p) (fun x => put sat (-(v x)))
      ∧ two (.elemAnd a b d t e p) (fun x y => put false (u x &&& u y : Nat))
      ∧ two (.elemOr a b d t e p) (fun x y => put false (u x ||| u y : Nat))
      ∧ two (.elemXor a b d t e p) (fun x y => put false (u x ^^^ u y : Nat))
      ∧ one (.elemNot a d t e p) (fun x => put false (2 ^ n - 1 - u x : Nat))
      ∧ two (.elemShl a b d t xs e p) (fun x y => put sat (v x * 2 ^ by_ y))
      ∧ two (.elemShr a b d t e p) (fun x y => put false (u x / 2 ^ by_ y : Nat))
      ∧ two (.elemSra a b d t e p) (fun x y => put false (v x / 2 ^ by_ y))
      ∧ one (.elemPopc a d t e p) (fun x => put false ((List.range n).countP (fun i => x.getLsbD i) : Nat))
      ∧ one (.elemClz a d t e p) (fun x => put false (clzBits (u x) n : Nat))
      ∧ two (.elemCmpeq a b d t m xs e p) (fun x y => if v x = v y then 1 else 0)
      ∧ two (.elemCmpne a b d t m xs e p) (fun x y => if v x = v y then 0 else 1)
      ∧ two (.elemCmplt a b d t m xs e p) (fun x y => if v x < v y then 1 else 0)
      ∧ two (.elemCmple a b d t m xs e p) (fun x y => if v x ≤ v y then 1 else 0))
    ∧ (t = 9 →
        let lo (x : Code) : Int := (x.extractLsb' 0 16).toInt
        let hi (x : Code) : Int := (x.extractLsb' 16 16).toInt
        let put (sat : Bool) (l h : Int) : Code := BitVec.ofNat 16 (narrow sat true 16 h) ++ BitVec.ofNat 16 (narrow sat true 16 l)
        two (.elemAdd a b d t xs e p) (fun x y => put sat (lo x + lo y) (hi x + hi y))
        ∧ two (.elemSub a b d t xs e p) (fun x y => put sat (lo x - lo y) (hi x - hi y))
        ∧ two (.elemMul a b d t xs e p) (fun x y => put sat (lo x * lo y) (hi x * hi y))
        ∧ mac (.elemMac a b d t xs e p) (fun x y c => put sat (lo x * lo y + lo c) (hi x * hi y + hi c))
        ∧ (∀ i f, (i, f) ∈ [(Instr.elemMulh a b d t e p, fun (x y : Int) => x * y / 2 ^ 16), (.elemMin a b d t e p, min),
              (.elemMax a b d t e p, max), (.elemCmpeq a b d t m xs e p, fun x y => if x = y then 1 else 0),
              (.elemCmpne a b d t m xs e p, fun x y => if x = y then 0 else 1),
              (.elemCmplt a b d t m xs e p, fun x y => if x < y then 1 else 0),
              (.elemCmple a b d t m xs e p, fun x y => if x ≤ y then 1 else 0),
              (.elemSra a b d t e p, fun x y => x / 2 ^ ((y % 2 ^ 16).toNat % 64))] →
            two i (fun x y => put false (f (lo x) (lo y)) (f (hi x) (hi y))))
        ∧ two (.elemShl a b d t xs e p) (fun x y =>
            put sat (lo x * 2 ^ ((lo y % 2 ^ 16).toNat % 64)) (hi x * 2 ^ ((hi y % 2 ^ 16).toNat % 64)))
        ∧ (∀ i f, (i, f) ∈ [(Instr.elemAnd a b d t e p, fun (x y : Nat) => x &&& y), (.elemOr a b d t e p, fun x y => x ||| y),
              (.elemXor a b d t e p, fun x y => x ^^^ y), (.elemShr a b d t e p, fun x y => x / 2 ^ (y % 64))] →
            two i (fun x y => put false (f (x.toNat % 2 ^ 16) (y.toNat % 2 ^ 16) : Nat)
              (f (x.toNat / 2 ^ 16) (y.toNat / 2 ^ 16) : Nat)))
        ∧ one (.elemAbs a d t xs e p) (fun x => put sat (lo x).natAbs (hi x).natAbs)
        ∧ one (.elemNeg a d t xs e p) (fun x => put sat (-(lo x)) (-(hi x)))
        ∧ one (.elemNot a d t e p) (fun x => ~~~x)
        ∧ one (.elemPopc a d t e p) (fun x => put false ((List.range 16).countP (fun i => x.getLsbD i) : Nat)
            ((List.range 16).countP (fun i => x.getLsbD (16 + i)) : Nat))
        ∧ one (.elemClz a d t e p) (fun x => put false (clzBits (x.toNat % 2 ^ 16) 16 : Nat) (clzBits (x.toNat / 2 ^ 16) 16 : Nat)))
    ∧ (∀ f, tyFmt t.toNat = some f →
        let sc (o : Opd) : Nat := if t = 6 ∨ t = 7 then o.scale else 127
        let v (o : Opd) : FV :=
          if sc o = 0xFF then .nan
          else if sat = true ∧ f.isSub o.pay.toNat = true then .num (f.signOf o.pay.toNat) 0 0
          else (f.dec (o.pay.toNat % 2 ^ f.width)).scale ((sc o : Int) - 127)
        ∀ i r, (i, r) ∈ [(Instr.elemCmpeq a b d t m xs e p, fun (x y : FV) => x ≠ .nan ∧ y ≠ .nan ∧ FV.cmp x y = .eq),
            (.elemCmpne a b d t m xs e p, fun x y => x = .nan ∨ y = .nan ∨ FV.cmp x y ≠ .eq),
            (.elemCmplt a b d t m xs e p, fun x y => x ≠ .nan ∧ y ≠ .nan ∧ FV.cmp x y = .lt),
            (.elemCmple a b d t m xs e p, fun x y => x ≠ .nan ∧ y ≠ .nan ∧ FV.cmp x y ≠ .gt)] →
          ∃ g : Opd → Opd → Code, Word2 i s a b d p false (fun x y _ => { kind := 0, pay := g x y })
            ∧ ∀ x y, (r (v x) (v y) → g x y = 1) ∧ (¬ r (v x) (v y) → g x y = 0))
    ∧ (∀ f, (t = 4 ∧ f = Fmt.bf16) ∨ (t = 5 ∧ f = .fp32) →
        let put (c : Nat) : Code := BitVec.ofNat 32 (c % 2 ^ f.width)
        two (.elemFadd a b d t m xs e p) (fun x y => put (f.add rm sat x.toNat y.toNat).1)
        ∧ two (.elemFsub a b d t m xs e p) (fun x y => put (f.sub rm sat x.toNat y.toNat).1)
        ∧ two (.elemFmul a b d t m xs e p) (fun x y => put (f.mul rm sat x.toNat y.toNat).1)
        ∧ mac (.elemFfma a b d t m xs e p) (fun x y c => put (f.fma rm sat false x.toNat y.toNat c.toNat).1)
        ∧ two (.elemFmin a b d t m xs e p) (fun x y => put (f.minmax sat false x.toNat y.toNat).1)
        ∧ two (.elemFmax a b d t m xs e p) (fun x y => put (f.minmax sat true x.toNat y.toNat).1)
        ∧ one (.elemFabs a d t m e p)
            (fun x => put (if f.isNaN x.toNat = true then f.canonNaN else f.withSign false x.toNat))
        ∧ one (.elemFneg a d t m e p)
            (fun x => put (if f.isNaN x.toNat = true then f.canonNaN else f.withSign (!f.signOf x.toNat) x.toNat)))
    ∧ two (.elemPack a b d xs e p) (fun x y =>
        let h (z : Code) : BitVec 16 := if sat = true then BitVec.ofInt 16 (max (-32768) (min 32767 z.toInt)) else z.extractLsb' 0 16
        h y ++ h x)
    ∧ one (.elemUnpkl a d e p) (fun x => (x.extractLsb' 0 16).signExtend 32)
    ∧ one (.elemUnpkh a d e p) (fun x => (x.extractLsb' 16 16).signExtend 32)
    ∧ (∀ n sg, tyInt t.toNat = some (n, sg) →
        let lo : Int := if sg then -(2 ^ (n - 1)) else 0
        let hi : Int := if sg then 2 ^ (n - 1) - 1 else 2 ^ n - 1
        one (.elemCvti a d t m xs e p) (fun x => laneExt t.toNat (narrow sat sg n x.toInt))
        ∧ one (.elemCvtf a d t m xs e p)
            (fun x => laneExt t.toNat (narrow false sg n ((Fmt.fp32.dec x.toNat).toRange rm lo hi).1)))
    ∧ (∀ f, tyFmt t.toNat = some f →
        one (.elemCvti a d t m xs e p) (fun x => laneExt t.toNat (f.enc rm sat (FV.ofInt x.toInt)).1)
        ∧ one (.elemCvtf a d t m xs e p) (fun x => laneExt t.toNat (f.enc rm sat (Fmt.fp32.inp sat x.toNat).1).1)
        ∧ Word1 (.elemCvth a d t m xs e p) s a d p (fun o => { kind := 0, pay := match o with
            | .val x (some h) => laneExt t.toNat
                (f.enc rm sat (laneVal (h.extractLsb' 11 4).toNat sat (h.extractLsb' 24 8).toNat x.pay)).1
            | o => laneExt t.toNat (f.enc rm sat (laneVal t.toNat sat 127 o.pay)).1 }))

/-- R257, R258, R264 to R269, R271 to R274, R280 to R283, R118: the transport, generator, header, check, K-sum, lookup, packet,
boundary and thread words, with EOS and error operands of the steers, SELECT and MERGE, and the first and last value and the end of a CVTS
block. That HDR.GET of a source that is no queue gives the value of an absent header, and that the chain takes the last token of a
CVTS, are the model's choices (log entry 28). -/
def Obligations.ElementTransportAndControl : Prop :=
  ∀ (s : State) (a b d : BitVec 3) (t : BitVec 4) (m : BitVec 2) (e : BitVec 1) (p : BitVec 8) (f : Firing), s.ct.firing = some f →
    let k := s.cur.tile
    let pass (x : Token) : Token := { x with pay := laneExt t.toNat x.pay.toNat }
    let counted (s : State) (code : Nat) : Token := errTok (BitVec.ofNat 32 (code * 2 ^ 24 + (s.ct.act f.actor).count % 2 ^ 24))
    let keeps (i : Instr) (g : State → Token → Token) : Prop :=
      ∀ s1 x h, src s a p = (s1, .val x h) → exec i s = .next (putRes s1 (dest d p) (some (g s1 x)))
    let others (i : Instr) : Prop :=
      ∀ s1 o, src s a p = (s1, o) →
        (o = .eos → exec i s = .next (putRes s1 (dest d p) (some eosTok)))
        ∧ (∀ c, o = .err c → exec i s = .next (putRes s1 (dest d p) (some (errTok c))))
        ∧ (o = .bub → exec i s = .next (putRes s1 (dest d p) none))
    exec (.elemNop e) s = .next (laneDone s f.chain)
    ∧ (∀ i g, (i, g) ∈ [(Instr.elemPass a d t m e p, fun _ x => pass x),
          (.elemConst a d t m e p, fun _ x => dataTok (laneExt t.toNat x.pay.toNat)),
          (.elemHdrPut a d e p, fun _ x => { kind := 1, pay := x.pay }),
          (.elemErrgen a d e p, fun s x => counted s (0x80 + (x.pay.extractLsb' 0 7).toNat)),
          (.elemThread a d e p, fun s x =>
            if x.pay.extractLsb' 16 5 = 0#5 then { kind := 4, pay := x.pay } else counted s 0x06),
          (.elemCtok a d e p, fun _ x => { kind := 5, pay := x.pay })] →
        others i ∧ keeps i g)
    ∧ (∀ s1 x h, src s a p = (s1, .val x h) → exec (.elemDup a d t m e p) s =
        .next (putRes (pushOut s1 (p.extractLsb' 6 2).toNat (pass x)) (dest d p) (some (pass x))))
    ∧ Word2L (.elemSteert a b d t m e p) s a b d p false (fun x y _ => if y.pay = 0 then none else some (pass x.tok))
    ∧ Word2L (.elemSteerf a b d t m e p) s a b d p false (fun x y _ => if y.pay = 0 then some (pass x.tok) else none)
    ∧ (∀ s1 s2 x y, src s a p = (s1, x) → src s1 b p = (s2, y) →
        let data (o : Opd) : Prop := o.isVal = true ∨ o = .eos
        let ends := Opd.ofLane f.chain = .eos ∧ data x ∧ data y ∧ ¬ (x = .eos ∧ y = .eos)
        (ends → exec (.elemSelect a b d t m e p) s =
          .next (laneFault s2 (dest d p) 0x0E (if x.isVal = true then x else y).pay.toNat 2 (elemCount s2)))
        ∧ (¬ ends → exec (.elemSelect a b d t m e p) s =
            .next (joined2 s s2 a b d p true x y (fun u v c => some (pass (if c.pay.getLsbD 0 then u else v).tok)))))
    ∧ (∀ s1 o, popQ s (dSelq (s.ct.desc f.actor)) = (s1, o) →
        let merge := exec (.elemMerge a b d t m e p) s
        (o = .eos → merge = .next (putRes s1 (dest d p) (some eosTok)))
        ∧ (∀ c, o = .err c → merge = .next (putRes s1 (dest d p) (some (errTok c))))
        ∧ ∀ x h, o = .val x h → ∀ s2 y, src s1 (if x.pay.getLsbD 0 then b else a) p = (s2, y) →
            merge = .next (putRes s2 (dest d p) (match y with
              | .val z _ => some (pass z)
              | .err c => some (errTok c)
              | _ => none)))
    ∧ (∀ s1 s2 x h y h', src s a p = (s1, .val x h) → readSrc s1 b.toNat (p.extractLsb' 3 3).toNat (p.signExtend 32) = (s2, .val y h') →
        let key := (firingOf s2).step * 8 + (firingOf s2).lane
        let n := (Tbl.get 0 s2.ct.iter key).toNat
        let w := tyWidth t.toNat
        let set (v : Code) : State := s2.modT (fun t => { t with iter := Tbl.set 0 t.iter key v })
        exec (.elemIter a b d t e p) s = .next (
          if n < y.pay.toNat % 2 ^ w then
            putRes (set (BitVec.ofNat 32 (n + 1))) (dest d p) (some (dataTok (laneExt t.toNat (n * (x.pay.toNat % 2 ^ w)))))
          else putRes (set 0) (dest d p) (some eosTok)))
    ∧ exec (.elemHdrGet a d e p) s =
        .next (putRes s (dest d p)
          (some (dataTok ((if 2 ≤ a.toNat ∧ a.toNat ≤ 5 then Tbl.get none s.ct.hdr (a.toNat - 2) else none).getD 0x7FFF1000#32))))
    ∧ (∀ s1 s2 x h y h', src s a p = (s1, .val x h) → src s1 b p = (s2, .val y h') →
        let k4 := kreg s2 (firingOf s2).lane 4
        let k5 := kreg s2 (firingOf s2).lane 5
        let sa := (Opd.val x h).scale
        let sb := (Opd.val y h').scale
        (exec (.elemBound a b d e p) s = .next (putRes s2 (dest d p)
          (some (if x.pay.toNat < y.pay.toNat then { kind := 0, pay := x.pay } else counted s2 0x01))))
        ∧ (lmacStep k4 k5 x.pay.toNat y.pay.toNat sa sb = none →
            exec (.elemLmac a b d e p) s = .next (putRes s2 (dest d p) (some (counted s2 0x04))))
        ∧ (∀ n4 n5, lmacStep k4 k5 x.pay.toNat y.pay.toNat sa sb = some (n4, n5) →
            exec (.elemLmac a b d e p) s =
              .next (putRes (pendReg (pendReg s2 (firingOf s2).lane 4 n4) (firingOf s2).lane 5 n5) (dest d p) (some (dataTok n4)))))
    ∧ keeps (.elemTlook a d e p) (fun s x => dataTok (BitVec.ofNat 32 (tagSlot s.ct.tags
        (x.pay.toNat + (kreg s (firingOf s).lane 6).toNat * 2 ^ 32
          + ((kreg s (firingOf s).lane 7).extractLsb' 0 8).toNat * 2 ^ 64))))
    ∧ (∀ s1 x h, src s a p = (s1, .val x h) →
        let k4 := kreg s1 (firingOf s1).lane 4
        let k5 := kreg s1 (firingOf s1).lane 5
        exec (.elemLfin a d e p) s = .next (putRes (pendReg (pendReg s1 (firingOf s1).lane 4 0) (firingOf s1).lane 5 0)
          (dest d p) (some (dataTok (lfinWord k4 k5 x.pay)))))
    ∧ (∀ s1 o, src s a p = (s1, o) →
        let seen : State := s1.modT (fun t => { t with sinkEos := Tbl.set false t.sinkEos ((firingOf s1).step * 8 + (firingOf s1).lane) true })
        (o.isVal = true → exec (.elemSink a t m e p) s = .next (putRes s1 (dest 7 p) none))
        ∧ (o = .eos → exec (.elemSink a t m e p) s = .next (putRes seen (dest 7 p) none))
        ∧ (∀ c, o = .err c → exec (.elemSink a t m e p) s = .next (
            if p.extractLsb' 6 2 = 1#2 then
              laneFault s1 (dest 7 p) 0x0F (c.extractLsb' 24 8).toNat 0 (c.extractLsb' 0 24).toNat
            else putRes s1 (dest 7 p) none)))
    ∧ (f.wait = none → ∀ s1 x h, src s a p = (s1, .val x h) → (x.pay.extractLsb' 0 3 = 7#3 →
          exec (.elemPhasen a d e p) s = .next (putRes s1 (dest d p) (some (counted s1 0x05))))
        ∧ (x.pay.extractLsb' 0 3 ≠ 7#3 → ∃ u, exec (.elemPhasen a d e p) s = .next u
            ∧ (firingOf u).wait = some (x.pay.extractLsb' 0 3).toNat ∧ (firingOf u).lane = f.lane ∧ (firingOf u).step = f.step
            ∧ ∀ n ≤ (x.pay.extractLsb' 0 3).toNat, ∃ r ∈ (u.lease (s.ct.lease.getD 0)).arr,
                r.agent = .tile k ∧ r.unit = agentUnit (.tile k) n))
    ∧ (∀ s1 s2 x h y h', (s.ct.chan injKey).length ≤ 2 → src s a p = (s1, .val x h) → src s1 b p = (s2, .val y h') →
        Tbl.get 0 s2.ct.rcOpen ((firingOf s2).step * 8 + (firingOf s2).lane) = 0 →
        ∃ u, exec (.elemRcsend a b d t m e p) s = .next (putRes u (dest d p) (some (pass y)))
          ∧ u.ct.chan injKey = s2.ct.chan injKey ++
              [{ tok := { kind := 6, pay := x.pay }, lease := s.ct.lease.getD 0, rc := (x.pay.extractLsb' 27 5).toNat },
               { tok := y, lease := s.ct.lease.getD 0, rc := (x.pay.extractLsb' 27 5).toNat }]
          ∧ Tbl.get 0 u.ct.rcOpen ((firingOf s2).step * 8 + (firingOf s2).lane) =
              if x.pay.extractLsb' 19 8 = 0#8 then 0
              else (x.pay.extractLsb' 19 8).toNat * 32 + (x.pay.extractLsb' 27 5).toNat)
    ∧ (∀ s1 x h xs, src (s.modT (fun t => { t with conv := {} })) a p = (s1, .val x h) → s.ct.conv = {} → s1.ct.conv = {} → 2 ≤ a.toNat → 2 ≤ d.toNat →
        Tbl.get none s.ct.hdr (a.toNat - 2) = xs → 1 < (match xs with | some w => (w.extractLsb' 16 8).toNat + 1 | none => 256) →
        exec (.elemCvts a d t m 0 e p) s = .next (laneDone (s1.modT (fun t => { t with conv := { vals := [dataTok x.pay], hdr := xs } })) none))
    ∧ (∀ s1 x h c hd vs (xs : BitVec 1), src (s.modT (fun t => { t with conv := c })) a p = (s1, .val x h) → s.ct.conv = c → s1.ct.conv = c →
        c = { vals := vs, hdr := some hd } → vs ≠ [] → vs.length = (hd.extractLsb' 16 8).toNat →
        let all := vs ++ [dataTok x.pay]
        let val (y : Token) : FV := laneVal 5 (xs == 1 && (tyFmt t.toNat).isSome) 127 y.pay
        let sc := blockScale t.toNat ((all.filter (fun y => y.kind != 3)).map val)
        let code (y : Token) : Token :=
          if y.kind = 3 then y
          else dataTok (laneExt t.toNat (toTy (Rm.ofBits (if m = 3 then s.ct.rm else m)) (xs == 1) false t.toNat
            ((val y).scale (127 - (sc : Int)))))
        ∃ head : Token, head.kind = 1 ∧ head.pay.extractLsb' 16 8 = hd.extractLsb' 16 8 ∧ head.pay.extractLsb' 15 1 = hd.extractLsb' 15 1
          ∧ head.pay.extractLsb' 11 4 = t ∧ head.pay.extractLsb' 0 11 = hd.extractLsb' 0 11
          ∧ (sc < 256 → (head.pay.extractLsb' 24 8).toNat = sc)
          ∧ exec (.elemCvts a d t m xs e p) s = .next (laneDone (pushAllOut
              (s1.modT (fun t => { t with conv := { out := (all.map code).drop 1 } })) (d.toNat - 2) (head :: (all.map code).take 1))
              ((all.map code).head?)))
    ∧ (∀ s1 (xs : BitVec 1), src (s.modT (fun t => { t with conv := {} })) a p = (s1, .eos) → s.ct.conv = {} → s1.ct.conv = {} →
        exec (.elemCvts a d t m xs e p) s =
          .next (putRes (s1.modT (fun t => { t with conv := { ended := true } })) (dest d p) (some eosTok)))

/-- R66, R237, R275 to R279: BLD and BST read and write an element of the bank, L6 elements standing 16 to 12 bytes, the slots that BST
wrote standing marked from the end of the fc on, and an element beyond the bank giving the error 0x02; a BLD's value goes to the latch and to
dst. The nodes of the edge interface send their access there and the chain passes unchanged. Performed in wave order, an access of the null
address makes none; a load reads its element, a store writes it and no other byte, and an atomic leaves the value of the table and gives the
old one; a misaligned address gives the error 0x03, and a port that no engine serves holds the access with 0x04. Each one performed counts
its instance, and its value returns to the lane and to dst. -/
def Obligations.MemoryNodes : Prop :=
  ∀ (s : State) (asrc dsrc dst : BitVec 3) (typ : BitVec 4) (off : BitVec 12) (seq pre suc : BitVec 10) (first last : BitVec 1)
    (f : Firing), s.ct.firing = some f →
    let imm : Code := (off.extractLsb' 0 8).signExtend 32
    let rd (s : State) (c : BitVec 3) : State × Opd := readSrc s c.toNat (off.extractLsb' 0 3).toNat imm
    let sizeOf_ (t : Nat) : Nat := if t = 0 ∨ t = 6 ∨ t = 7 ∨ t = 10 then 1 else if t = 1 ∨ t = 3 ∨ t = 4 then 2 else 4
    let size : Nat := sizeOf_ typ.toNat
    let plain := typ.toNat ≤ 10 ∧ typ ≠ 8
    let bld := exec (.bld asrc dsrc dst typ off seq pre suc first last) s
    let bst := exec (.bst asrc dsrc dst typ off seq pre suc first last) s
    let six (e : Nat) : Nat := 12 * (e / 16) + 6 * (e % 16) / 8
    let sh (e : Nat) : Nat := 6 * (e % 16) % 8
    let wide (e : Nat) : Nat := if sh e ≤ 2 then 1 else 2
    let loads (s1 : State) (v : Code) : Prop :=
      ∃ u, bld = .next (laneDone u f.chain) ∧ latchOf u f.lane = v
        ∧ (∀ j, (u.tile j).bank = (s1.tile j).bank)
        ∧ (∀ j, u.ct.oq j = s1.ct.oq j ++ (if j + 2 = dst.toNat ∧ j < 4 then [{ kind := 0, pay := v }] else []))
        ∧ (firingOf u).regw = (firingOf s1).regw ++ (if dst = 1 then [(f.lane * 8 + (off.extractLsb' 3 3).toNat, v)] else [])
    let stores (s2 : State) (at_ n : Nat) (P : Nat → Prop) : Prop :=
      ∃ u, bst = .next (laneDone u f.chain) ∧ P (u.ct.bank.readN at_ n)
        ∧ (∀ m, m < at_ ∨ at_ + n ≤ m → u.ct.bank.read m = s2.ct.bank.read m)
        ∧ ∀ m, Due.stored s.cur.tile m ∈ u.dues ↔ (at_ / 256 ≤ m ∧ m ≤ (at_ + n - 1) / 256) ∨ Due.stored s.cur.tile m ∈ s2.dues
    (∀ s1 x h, rd s asrc = (s1, .val x h) → ∀ e, e = x.pay.toNat + off.toNat →
      (plain → e * size + size ≤ 65536 → loads s1 (laneExt typ.toNat (s1.ct.bank.readN (e * size) size)))
      ∧ (typ = 8 → six e + wide e ≤ 65536 → loads s1 (BitVec.ofNat 32 (s1.ct.bank.readN (six e) (wide e) / 2 ^ sh e % 64)))
      ∧ ((plain ∧ 65536 < e * size + size) ∨ (typ = 8 ∧ 65536 < six e + wide e) →
          let err := errTok (BitVec.ofNat 32 (2 * 2 ^ 24 + (s1.ct.act (firingOf s1).actor).count % 2 ^ 24))
          bld = .next (laneDone (if 2 ≤ dst.toNat ∧ dst.toNat ≤ 5 then pushOut s1 (dst.toNat - 2) err else s1) f.chain)))
    ∧ (∀ s1 s2 x h y h', rd s asrc = (s1, .val x h) → rd s1 dsrc = (s2, .val y h') → ∀ e, e = x.pay.toNat + off.toNat →
        (plain → e * size + size ≤ 65536 → stores s2 (e * size) size (fun v => v = y.pay.toNat % 2 ^ (8 * size)))
        ∧ (typ = 8 → six e + wide e ≤ 65536 → stores s2 (six e) (wide e) (fun v =>
            v / 2 ^ sh e % 64 = y.pay.toNat % 64
            ∧ ∀ i, i < sh e ∨ sh e + 6 ≤ i → v.testBit i = (s2.ct.bank.readN (six e) (wide e)).testBit i)))
    ∧ (∀ (t : State) (k n : Nat), t.dues = [.stored k n] →
        endFc t = { t with dues := [], tiles := (endFc t).tiles } ∧ (∀ j, j ≠ k → (endFc t).tile j = t.tile j)
        ∧ (endFc t).tile k = { t.tile k with tags := ((endFc t).tile k).tags }
        ∧ ∀ j m, (Tbl.get 0 ((endFc t).tile k).tags j).getLsbD m = (decide (j = n ∧ m = 6) || (Tbl.get 0 (t.tile k).tags j).getLsbD m))
    ∧ (∀ i opc load, (i, opc, load) ∈ [(Instr.mld asrc dsrc dst typ off seq pre suc first last, 0x4A, true),
          (.mst asrc dsrc dst typ off seq pre suc first last, 0x4B, false),
          (.matAdd asrc dsrc dst typ off seq pre suc first last, 0x4C, false),
          (.matFadd asrc dsrc dst typ off seq pre suc first last, 0x4D, false),
          (.matAnd asrc dsrc dst typ off seq pre suc first last, 0x4E, false),
          (.matOr asrc dsrc dst typ off seq pre suc first last, 0x4F, false),
          (.matMin asrc dsrc dst typ off seq pre suc first last, 0x50, false),
          (.matMax asrc dsrc dst typ off seq pre suc first last, 0x51, false),
          (.matSwap asrc dsrc dst typ off seq pre suc first last, 0x52, false)] →
        ∀ s1 s2 x h y h', rd s asrc = (s1, .val x h) → (load = true → s2 = s1 ∧ y.pay = 0) →
          (load = false → rd s1 dsrc = (s2, .val y h')) →
          let l := s2.ct.lease.getD 0
          ∃ u q, exec i s = .next (laneDone u f.chain) ∧ (u.lease l).nodes = (s2.lease l).nodes ++ [q] ∧ q.opc = opc ∧ q.st = .waiting
            ∧ q.tile = s.cur.tile ∧ q.lane = f.lane ∧ q.dst = dst.toNat ∧ q.typ = typ.toNat ∧ q.gone = false
            ∧ q.pos = (if hasPort s2 l f.lane = true then .tile else .edge)
            ∧ q.seq = seq.toNat ∧ q.pred = pre.toNat ∧ q.succ = suc.toNat ∧ q.data = y.pay
            ∧ q.kern = s2.ct.kern ∧ q.inst = Tbl.get 0 (s2.lease l).fired (waveKey q.kern seq.toNat)
            ∧ Tbl.get 0 (u.lease l).fired (waveKey q.kern seq.toNat) = q.inst + 1
            ∧ q.addr = if x.pay = 0xFFFFFFFF#32 then none else some (x.pay.toNat + off.toNat))
    ∧ (∀ l i q, (s.lease l).nodes[i]? = some q → q.st = .waiting → q.pos = .edge → leaseLive s l = true → nodeDue s l q = true →
        let key := waveKey q.kern q.seq
        let performed (t : State) (r : Lane) : Prop :=
          exec (.memNodePerform l i) s = .next t
          ∧ (t.lease l).nodes = (s.lease l).nodes.set i
              { q with st := .performed r, pos := if hasPort s l q.lane = true then q.pos else .home }
          ∧ Tbl.get 0 (t.lease l).done key = Tbl.get 0 (s.lease l).done key + 1
        let en := Tbl.get {} (s.lease l).engines q.lane
        let w : Who := { lease := l, agent := .tile q.tile }
        (q.addr = none → ∃ t, performed t q.reply ∧ t = { s with leases := t.leases })
        ∧ (∀ e, q.addr = some e → q.typ ≤ 10 → q.typ ≠ 8 →
            let n := sizeOf_ q.typ
            let va := (en.base + e * n) % 2 ^ 80
            (en.bound = true → en.host = none → va % n ≠ 0 →
              ∃ t, performed t (some (errTok (BitVec.ofNat 32 (3 * 2 ^ 24 + q.count % 2 ^ 24)))) ∧ t = { s with leases := t.leases })
            ∧ (en.bound = false → (s.lease l).st = .running →
                ∃ t, exec (.memNodePerform l i) s = .next t ∧ (t.lease l).nodes = (s.lease l).nodes.set i { q with st := .held 0x04 }
                  ∧ t.mem = s.mem ∧ ∃ z, (t.lease l).faults = (s.lease l).faults ++ [z] ∧ z.code = 0x04)
            ∧ (∀ s1 x pa need, en.bound = true → en.host = none → va % n = 0 → pa % n = 0 → translateEng s l q.lane va = .ok (s1, x) →
                pageCheck s1 w va x need = .ok pa → x.attr.sysw = false → agentWaits s1 w pa x.attr = false →
                (q.opc = 0x4A → need = { r := true, noSys := true } →
                  ∃ t, performed t (some { kind := 0, pay := laneExt q.typ (loadAt s1 w va pa x.attr n) })
                    ∧ t = { s with leases := t.leases, freeN := t.freeN, hits := t.hits })
                ∧ (∀ s2, q.opc = 0x4B → need = { w := true, noSys := true } →
                    storeAt s1 w va pa x.attr n (2 ^ (8 * n) - 1) (q.data.toNat % 2 ^ (8 * n)) = .ok s2 →
                    ∃ t, performed t (some { kind := 0, pay := 0 })
                      ∧ t = { s with leases := t.leases, freeN := t.freeN, hits := t.hits, mem := t.mem, lines := t.lines,
                                     dirty := t.dirty, parts := t.parts }
                      ∧ t.mem.readN pa n = q.data.toNat % 2 ^ (8 * n) ∧ ∀ a, a < pa ∨ pa + n ≤ a → t.mem.read a = s.mem.read a)
                ∧ (∀ fn, (q.typ = 2 ∨ q.typ = 5) → need = { r := true, w := true, ms := true, noProof := true, noSys := true } →
                    (q.opc, fn) ∈ [(0x4C, fun (m x : Nat) => m + x), (0x4D, fun m x => (Fmt.fp32.add .rne false m x).1),
                      (0x4E, fun m x => m &&& x), (0x4F, fun m x => m ||| x),
                      (0x50, fun m x => if signed 32 x < signed 32 m then x else m),
                      (0x51, fun m x => if signed 32 m < signed 32 x then x else m), (0x52, fun _ x => x)] →
                    let old := s.mem.readN pa 4
                    ∃ t, performed t (some { kind := 0, pay := BitVec.ofNat 32 old })
                      ∧ t = { s with leases := t.leases, hits := t.hits, mem := t.mem }
                      ∧ t.mem.readN pa 4 = fn old q.data.toNat % 2 ^ 32 ∧ ∀ a, a < pa ∨ pa + 4 ≤ a → t.mem.read a = s.mem.read a))))
    ∧ (∀ l i q x, (s.lease l).nodes[i]? = some q → q.st = .performed (some x) → q.opc ≠ 0x4B → q.pos = .home → q.gone = false →
        q.dst ≠ 6 → (s.lease l).st = .running → (∀ y ∈ (s.lease l).nodes.take i, y.tile ≠ q.tile ∨ y.lane ≠ q.lane) →
        let data := x.kind ≠ 2 ∧ x.kind ≠ 3
        let t0 := s.tile q.tile
        ∃ t, exec (.memNodeReturn l i) s = .next t ∧ t = { s with leases := t.leases, tiles := t.tiles }
          ∧ (t.lease l).nodes = (s.lease l).nodes.eraseIdx i
          ∧ (∀ j, j ≠ q.tile → t.tile j = s.tile j)
          ∧ (∀ j, (t.tile q.tile).oq j = t0.oq j ++ (if j + 2 = q.dst ∧ j < 4 then [x] else []))
          ∧ (data → Tbl.get 0 (t.tile q.tile).latch q.lane = x.pay) ∧ (¬ data → (t.tile q.tile).latch = t0.latch)
          ∧ (data → q.dst = 1 → Tbl.get 0 (t.tile q.tile).kreg (q.lane * 8 + q.reg) = x.pay)
          ∧ ((¬ data ∨ q.dst ≠ 1) → (t.tile q.tile).kreg = t0.kreg))

/-! ### Events of the fabric -/

/-- R43 to R51, R172, R173, R356, R382 to R384, R391: a router hop moves a token to the neighbour's channel, or drops it at a lease
boundary with fault 0x07; the tile scheduler starts the first ready actor; a step of one lane runs it; a wave reaches its tile, the
tile takes it, its sanctioned bits and those of its neighbours being set anew, and its load ends; a thread joins an entry queue, and the block scheduler starts a load. How a thread leaves a
configuration and enters another follows log entry 14, a load of the block scheduler's being of ticket 0 (the model's choice). -/
def Obligations.FabricEvents : Prop :=
  ∀ (s : State) (k l : Nat), (s.tile k).lease = some l → leaseLive s l = true → (s.lease l).st = .running →
    (∀ p c o j w x rest, p < 4 → c = chanKey p 0 0 → (s.tile k).chan c = x :: rest → x.lease = l → x.taken = [] → s.loads = [] →
      (s.tile k).ckpt = [] → (s.tile k).routes p 0 0 x.rc = [(o, w)] → o < 4 → sidePort s l k o = none → stepOut k o = some j →
      j ≠ k → tileDie j = tileDie k → (s.tile k).held o 0 = 0 → isTurn (noteLocal s k) k o (tripleId p 0 0) = true →
      (∀ m, (s.tile j).lease = some m → (m = l ∨ swSanc w = true) → ((s.tile j).chan (chanKey (farPort o) 0 0)).length < 4 →
        ∃ t, exec (.routerTokenHop k p 0 0) s = .next t ∧ t = { s with tiles := t.tiles } ∧ (t.tile k).chan c = rest
          ∧ (t.tile j).chan (chanKey (farPort o) 0 0) =
              (s.tile j).chan (chanKey (farPort o) 0 0) ++ [{ x with lease := m, taken := [] }]
          ∧ ∀ n, n ≠ j → n ≠ k → t.tile n = s.tile n)
      ∧ ((s.tile j).lease ≠ some l → swSanc w = false → (s.lease l).work = none → Tbl.sorted s.tiles = true →
        ∃ t, exec (.routerTokenHop k p 0 0) s = .next t ∧ (t.tile k).chan c = rest ∧ t.tile j = s.tile j
          ∧ (t.lease l).st = .frozen
          ∧ (Tbl.get 0 t.pkg.asrc 0).fld 32 32 = min (2 ^ 32 - 1) ((Tbl.get 0 s.pkg.asrc 0).fld 32 32 + 1)
          ∧ ∃ f, (t.lease l).faults = (s.lease l).faults ++ [f] ∧ f.code = 0x07))
    ∧ (∀ i r, (s.tile k).halted = false → (s.tile k).firing = none → (s.tile k).note.readyQ = i :: r →
        exec (.actorFiringStart k) s = .next (s.setTile k { s.tile k with
          readyQ := r, aged := (s.tile k).note.aged - 1
          firing := some { actor := i, step := dEntry ((s.tile k).desc i), lane := dLane0 ((s.tile k).desc i) } }))
    ∧ (∀ f, (s.tile k).firing = some f → dLanes ((s.tile k).desc f.actor) = 1 → f.lane = dLane0 ((s.tile k).desc f.actor) →
        f.chain = some {} → laneMay s k = true → (s.tile k).atWord1 f = false → (s.tile k).op f.step f.lane = 0 → f.step < 31 →
        let u : State := { s with cur := { s.cur with tile := k } }
        exec (.firingStep k) s = .next (laneDone u f.chain)
        ∧ firingOf (laneDone u f.chain) = { f with step := f.step + 1, regw := [] })
    ∧ (∀ n tk x c, findLoad s n tk = some x → x.lease = l → (tk = 0 ∨ blocksMeet s (n / 8) (tileStoker k) = true) → x.st = .running →
        x.send.find? (fun e => e.1 == k) = some (k, c) →
        ∃ t, exec (.waveArrival n tk k) s = .next t ∧ t = { s with tiles := t.tiles, loads := t.loads }
          ∧ t.tile k = { s.tile k with waves := (s.tile k).waves ++
              [{ ctx := n, ticket := tk, cfg := c, rm := x.rm, image := x.image, conf := x.conf }] }
          ∧ ∀ m, m ≠ k → t.tile m = s.tile m)
    ∧ (∀ w r, mayReconfigure s k = true → (s.tile k).waves = w :: r → findLoad s w.ctx w.ticket = none → Tbl.sorted w.cfg.tile.sw = true →
        (∀ q ∈ (s.lease l).nodes, q.tile ≠ k) →
        ∃ t, exec (.tileReconfigure k) s = .next t ∧ t = { s with tiles := t.tiles, leases := t.leases }
          ∧ (t.tile k).ops = w.cfg.tile.ops ∧ (t.tile k).actors = w.cfg.tile.actors
          ∧ (∀ i b, b ≠ 5 → (Tbl.get 0 (t.tile k).sw i).getLsbD b = (Tbl.get 0 w.cfg.tile.sw i).getLsbD b)
          ∧ (t.tile k).configured = true ∧ (t.tile k).rm = w.rm ∧ (t.tile k).waves = r ∧ (t.tile k).inq = (s.tile k).inq
          ∧ (t.tile k).bank = (s.tile k).bank
          ∧ ∀ m, m ≠ k → t.tile m = { s.tile m with sw := (t.tile m).sw, late := (t.tile m).late })
    ∧ (∀ n tk x, findLoad s n tk = some x → x.lease = l → tk ≠ 0 → x.notify = false →
        (x.st = .running → x.send = [] → x.left = [] →
          ∃ t, exec (.configLoadComplete n tk) s = .next t ∧ t = { s with loads := t.loads, leases := t.leases }
            ∧ ∀ y ∈ t.loads, y.ctx = n → y.ticket = tk → y.st = .done)
        ∧ (∀ o, x.st = .reading → resolveLoad s x = .error o →
          ∃ t, exec (.configLoadRefused n tk) s = .next t ∧ t = { readImage s x with loads := t.loads, leases := t.leases }
            ∧ ∃ y ∈ t.loads, y.ctx = n ∧ y.ticket = tk ∧ y.st = .refused o))
    ∧ (∀ q x live rest c, q < 4 → Tbl.get [] (s.tile k).threadIn q = [] → Tbl.get [] (s.tile k).threadOut q = [] →
        takeThread ((s.tile k).oq q) = some (x :: live, rest) → (s.tile k).routes 6 0 q 0 = [] →
        confRec s l (x.pay.extractLsb' 26 6).toNat = some c → (s.lease l).conf ≠ (x.pay.extractLsb' 26 6).toNat →
        (entryQ s l (x.pay.extractLsb' 26 6).toNat).length < c.cap →
        ∃ t, exec (.threadEnqueue k q) s = .next t ∧ t = { s with tiles := t.tiles, leases := t.leases } ∧ (t.tile k).oq q = rest
          ∧ entryQ t l (x.pay.extractLsb' 26 6).toNat =
              entryQ s l (x.pay.extractLsb' 26 6).toNat ++ [{ tok := x, live, at_ := s.fc }])
    ∧ (∀ c i, (s.lease l).dbgHalt = false → (s.lease l).starting = false → schedCtx s l = some c → (s.ctx c).st = .ready →
        (s.ctx c).status.extractLsb' 2 1 = 0#1 → confLoading s l = false → entryQ s l (s.lease l).conf = [] →
        (∀ j q, threadEntry s l (s.lease l).conf = some (j, q) → Tbl.get [] (s.tile j).threadIn q = []) →
        confIdle s l (s.lease l).conf = true → nextConf s l = some i →
        exec (.blockSchedulerSelect l) s = .next
          { s with loads := s.loads ++ [{ ctx := l, lease := l, conf := i, all := true, image := (s.lease l).image.va }] })

/-- R35, R180, R193 to R195, R290, R446: an edge engine delivers its next element or its EOS, and commits one; a wide write engine
takes the beat of a press, with the issuer, the release and the lines of its DRAIN (R302, R338; which lines, log entry 19); a beat of a
ring moves the tiles of its family by one stop, unless one of them is held or is to retire (R195, R465); a kindle token enters q0. -/
def Obligations.EngineAndRingEvents : Prop :=
  ∀ (s : State) (l p : Nat), (s.lease l).st = .running → (s.lease l).dbgHalt = false → injSpent (s.lease l) = false →
    hbmSpent (s.lease l) = false →
    let e := eng s l p
    let into := chanKey e.side 0 0
    (e.side < 8 → e.eosDue = true → ((s.tile e.tile).chan into).length < 4 →
      ∃ t, exec (.edgeReadElement l p) s = .next t ∧ eng t l p = { e with eosDue := false }
        ∧ (t.tile e.tile).chan into = (s.tile e.tile).chan into ++ [{ tok := { kind := 2 }, lease := l }]
        ∧ ∀ n, n ≠ e.tile → t.tile n = s.tile n)
    ∧ (∀ x s1 ts, e.side < 8 → e.eosDue = false → e.bound = true → e.dir = false → e.st = .running →
        (s.tile e.tile).configured = true → ((s.tile e.tile).chan into).length ≤ 2 → e.committed < e.total →
        readElem s l p e.committed = .ok x → elemTokens x.st l p x = .ok (s1, ts) → e.committed + 1 ≠ (eng s1 l p).total →
        ∃ t, exec (.edgeReadElement l p) s = .next t ∧ (eng t l p).committed = e.committed + 1 ∧ (eng t l p).hdrDue = false
          ∧ (t.tile (eng s1 l p).tile).chan (chanKey (eng s1 l p).side 0 0) =
              (s1.tile (eng s1 l p).tile).chan (chanKey (eng s1 l p).side 0 0) ++ ts.map (fun y => { tok := y, lease := l })
          ∧ t.mem = s1.mem)
    ∧ (∀ x r, e.bound = true → e.dir = true → e.st = .running → e.inbuf = x :: r →
        ((x.kind = 1 ∨ x.kind = 2) → exec (.edgeWriteCommit l p) s = .next (setEng s l p { e with inbuf := r }))
        ∧ (∀ s1, x.kind ≠ 1 → x.kind ≠ 2 → e.committed + 1 < e.total → writeElem s l p e.committed x = .ok s1 →
            (eng s1 l p).rel = none →
            ∃ t, exec (.edgeWriteCommit l p) s = .next t ∧ (eng t l p).committed = e.committed + 1 ∧ (eng t l p).inbuf = r
              ∧ t.mem = s1.mem ∧ t.host = s1.host))
    ∧ (∀ b r, e.side = 8 → e.bound = true → e.dir = true → e.st = .running → e.inbuf = [] →
        (s.tile e.tile).press.wout = b :: r →
        ∃ u, exec (.wideEngineBeat l p) s = .next (edgeCommitAll u l p 64) ∧ (u.tile e.tile).press.wout = r
          ∧ eng u l p = { e with inbuf := b.slots.map dataTok, who := b.who, rel := b.rel, wl := if b.first then [] else e.wl }
          ∧ u = { s with tiles := u.tiles, leases := u.leases })
    ∧ (∀ n rr, ringRec s l n = some rr → (ringOf s l n).st = .running → (ringOf s l n).ending = none →
        (∀ k ∈ stopTiles s l rr, lateFor s (.bank k) bankRing = false) →
        let u := (stopTiles s l rr).foldl (fun s k => serve s (.bank k) bankRing) s
        (beatRetired u l rr (ringOf s l n)).isSome = true → ringWaiter (ringBeat u l n rr (ringOf s l n)) l n = none →
        let g := ringOf s l n
        let held := g.beat = 0 ∨ (g.beat % 2 = 0 ∧ ∃ x ∈ g.stops, x.heldA = true) ∨ ∃ x ∈ g.tiles, x.2 = g.beat % 2 ∧ metAll u l rr x = true
        let from_ (j : Nat) : Nat :=
          if held then j else (if g.beat % 2 = 0 then j + g.stops.length - 1 else j + 1) % g.stops.length
        ∃ t, exec (.ringBeat l n) s = .next t ∧ (ringOf t l n).beat = g.beat + 1
          ∧ (∀ j home, j < g.stops.length → ((ringOf t l n).stop j).slot (g.beat % 2) = some home →
              (g.stop (from_ j)).slot (g.beat % 2) = some home)
          ∧ ∀ j home, ((ringOf t l n).stop j).slot (1 - g.beat % 2) = some home → (g.stop j).slot (1 - g.beat % 2) = some home)
    ∧ (∀ n rr i k y q, ringRec s l n = some rr → i < (ringOf s l n).stops.length → ((ringOf s l n).stop i).kq = y :: q →
        y.handed = false → stopTile s l rr i = some k → (s.tile k).iq 0 = [] → Tbl.get [] (s.tile k).threadIn 0 = [] →
        ∃ t x, exec (.kindleHandoff l n i) s = .next t ∧ (t.tile k).iq 0 = [x] ∧ x.kind = 0
          ∧ (x.pay.extractLsb' 0 16).toNat = (slotAt rr 0 + 16) % 2 ^ 16
          ∧ (x.pay.extractLsb' 16 16).toNat = (kbufAt rr y.buf + 16) % 2 ^ 16
          ∧ ((ringOf t l n).stop i).kq = { y with handed := true } :: q)

/-- R288, R292, R296, R299 to R301, R306 to R312: a press takes an MMA, a DRAIN, a ZERO or a LOADW from its control queue, consumes a
beat of an MMA or a LOADW, gives an element and a beat of rows; a flue serves a tile's request of its function, absorbs a malformed one
with fault 0x02, and hands back the first token of a reply. -/
def Obligations.PressAndFlueEvents : Prop :=
  ∀ (s : State) (k l : Nat), (s.tile k).lease = some l → leaseLive s l = true → (s.lease l).st = .running →
    let t0 := s.tile k
    let p := t0.press
    let ready := isPressTile s k = true ∧ t0.halted = false
    let onTime := lateFor s (.bank k) bankPress = false
    let served := serve s (.bank k) bankPress
    let steps (u : State) (i : Instr) (q : Press → Press) : Prop :=
      ∃ t, exec i s = .next t ∧ t = { u with tiles := t.tiles, leases := t.leases }
        ∧ t.tile k = { t0 with press := q p } ∧ ∀ n, n ≠ k → t.tile n = s.tile n
    (∀ x r, ready → p.ctl = x :: r → p.run = none → p.drain = none → x.src = .router →
      (pOp x.word = 1 → mmaBad x.word (weightDesc t0.bank (x.word.extractLsb' 21 3).toNat) = false → onTime →
        steps served (.pressMma k) (fun p => { p with ctl := r, run := some { tok := x, desc := weightDesc t0.bank (x.word.extractLsb' 21 3).toNat } }))
      ∧ (pOp x.word = 3 → p.wout = [] → drainOk x.word = true →
        steps s (.pressDrain k) (fun p => { p with ctl := r, drain := some { tok := x } }))
      ∧ (pOp x.word = 4 → x.word.extractLsb' 0 26 = 0#26 →
        steps s (.pressZero k) (fun p => { p with ctl := r, acc := p.acc.filter (fun e => e.1 / 4096 != (x.word.extractLsb' 26 2).toNat) }))
      ∧ (pOp x.word = 5 → loadwOk x.word = true →
        steps s (.pressLoadw k) (fun p => { p with ctl := r, run := some { tok := x } }))
      ∧ (pOp x.word = 2 → x.word.extractLsb' 0 14 = 0#14 → p.wout = [] → (t0.oq 2) = [] → t0.nodeOut = [] →
        ∃ t, exec (.pressRead k) s = .next t ∧ (t.tile k).press = { p with ctl := r }
          ∧ (t.tile k).oq 2 = [{ kind := 0, pay := Tbl.get 0 p.acc (accKey (x.word.extractLsb' 26 2).toNat
                (x.word.extractLsb' 20 6).toNat (x.word.extractLsb' 14 6).toNat) }]))
    ∧ (∀ x r c d, ready → p.ctl = x :: r → p.run = none → p.drain = none → p.wout = [] → x.src = .read c → pOp x.word = 2 →
        x.word.extractLsb' 0 14 = 0#14 → (s.ctx c).busy = some (.prsRead d) → (s.ctx c).status.extractLsb' 3 1 = 0#1 →
        (s.ctx c).repOn = false →
        ∃ t, exec (.pressRead k) s = .next t ∧ (t.ctx c).busy = none ∧ (t.ctx c).pc = (s.ctx c).pc + 4
          ∧ ∀ y, y ≠ 0 → (t.ctx c).rg y = if y = d then
              (Tbl.get 0 p.acc (accKey (x.word.extractLsb' 26 2).toNat (x.word.extractLsb' 20 6).toNat
                (x.word.extractLsb' 14 6).toNat)).setWidth 64
            else (s.ctx c).rg y)
    ∧ (∀ r b rest, ready → p.run = some r → p.wbuf = b :: rest → widePort s l k false = none →
        (pOp r.tok.word = 1 → pairOk b.fmt (wFmt r.desc) = true → onTime → (r.chunk ≠ 0 ∨ r.row ≠ 0) →
          steps (if r.loads then served else s) (.pressMmaBeat k) (fun p =>
            { p with wbuf := rest, run := (r.loaded t0.bank).next
                     acc := applyBeat p.acc r.tok.word r.desc (r.loaded t0.bank).panel r.row b }))
        ∧ (pOp r.tok.word = 5 → b.fmt ≠ 8 → onTime →
          ∃ t, exec (.pressLoadw k) s = .next t ∧ (t.tile k).press.wbuf = rest
            ∧ (t.tile k).bank.readN (32 * (r.tok.word.extractLsb' 16 11).toNat + 64 * r.row) 64 = beatBytes b 0 % 2 ^ 512))
    ∧ (∀ dr, ready → p.drain = some dr → p.wout = [] →
        ∃ t b, exec (.pressDrainBeat k) s = .next t ∧ (t.tile k).press.wout = [b]
          ∧ b.fmt = (dr.tok.word.extractLsb' 9 4).toNat ∧ b.n = (if b.fmt = 4 then 32 else 16) ∧ b.slots.length = b.n
          ∧ (∀ i, i < b.n → b.slots.getD i 0 = drainVal b.fmt (Tbl.get 0 p.acc
              ((dr.tok.word.extractLsb' 26 2).toNat * 4096 + (dr.tok.word.extractLsb' 20 6).toNat * 64 + dr.pos + i)))
          ∧ (t.tile k).press.drain =
              if 64 * ((dr.tok.word.extractLsb' 14 6).toNat + 1) ≤ dr.pos + b.n then none else some { dr with pos := dr.pos + b.n })
    ∧ (∀ f q, nextReq s f = some q → q.tile = k → q.who = none →
        (∀ i fn, (i, fn) ∈ [(Instr.flueTokenExp2 f, 0), (.flueTokenLog2 f, 1), (.flueTokenRcp f, 2), (.flueTokenRsqrt f, 3),
                            (.flueTokenSqrt f, 4), (.flueTokenSinpi f, 5), (.flueTokenCospi f, 6), (.flueTokenTanh f, 7),
                            (.flueTokenSigm f, 8)] →
          flueBad q.ctl = false → fluFn q.ctl = fn → flueHeld s f + fluCnt q.ctl ≤ 256 →
          ∃ t, exec i s = .next t ∧ t = { s with tiles := t.tiles, flues := t.flues, leases := t.leases }
            ∧ t.tile k = { t0 with fstream := q.rest, fbad := false
                                   freply := t0.freply ++ [q.vals.map (flueResult fn (fluFmt q.ctl))] }
            ∧ (t.flue f).rr = tileRow k + 1 ∧ ∀ n, n ≠ k → t.tile n = s.tile n)
        ∧ (strayTile s f = none → flueBad q.ctl = true → (s.lease l).work = none →
          ∃ t, exec (.flueTokenMalformed f) s = .next t ∧ (t.tile k).fstream = q.rest ∧ (t.lease l).st = .frozen
            ∧ ∃ y, (t.lease l).faults = (s.lease l).faults ++ [y] ∧ y.code = 0x02))
    ∧ (∀ f x, ((List.range 32).map (flueTile f)).findSome? (fun j => (replyDue s j).map (fun r => (j, r))) = some (k, x, .land false) →
        x.kind = 0 → (t0.iq 3) = [] →
        ∃ t, exec (.flueReply f) s = .next t ∧ (t.tile k).iq 3 = [x] ∧ t = serve { s with tiles := t.tiles } (.inq k 3) 7)

/-! ### Events of contexts -/

/-- R33, R123, R154, R216, R222, R240, R331, R342: what happens to a context and its accesses after issue. How a packet of an access
crosses a seam or a circuit is the model's choice (log entries 17 and 26): at issue a load from another die's stack goes as a token by
itself, against a credit of its channel, to the sender of its line's module of the first seam on its way (R385, R393, R394), or sets out
on the circuit that PA[10:7] chooses among those that serve it (R403). -/
def Obligations.ContextEvents : Prop :=
  ∀ (s : State) (k : Nat),
    let c := s.ctx k
    let plain := c.status.extractLsb' 3 1 = 0#1 ∧ c.repOn = false
    (∀ x s1 u n ls, s.copies.find? (fun y => y.ctx == k && y.ticket == x.ticket) = some x → leaseLive s x.lease = true → x.pause = none →
      x.acq = false → x.elems = false → x.bar = false →
      moveBytes s { x with acqDone := true } = .ok s1 u n ls → x.units + u < x.total →
      ∃ t y, exec (.copyUnit k x.ticket) s = .next t ∧ t.copies = s1.copies.map (fun z => if sameCopy x z then y else z)
        ∧ y.units = x.units + u ∧ y.owed = x.owed + n ∧ y.desc = x.desc ∧ t.mem = s1.mem ∧ t.tiles = s1.tiles)
    ∧ (∀ x sel off b, x.form = 4 → x.dst = .bank sel off → selTile s x.lease sel = some b → off + x.total ≤ 65536 →
        x.units < x.total → blocksMeet s (x.ctx / 8) (tileStoker b) = true →
        ∃ s1 u, moveBytes s x = .ok s1 u u [] ∧ 0 < u ∧ x.units + u ≤ x.total ∧ s1 = { serve s (.bank b) bankCopy with tiles := s1.tiles }
          ∧ (∀ j, j < u → (((s1.tile b).bank.read (off + x.units + j)).toNat = bits (x.word 0) (8 * ((x.units + j) % 8)) 8))
          ∧ ∀ a, a < off + x.units ∨ off + x.units + u ≤ a → (s1.tile b).bank.read a = (s.tile b).bank.read a)
    ∧ (∀ i r d v w sg, c.busy = some .access → plain → findReq (fun y => y.ctx == k) s.reqs = some (i, r) → s.reqs[i]? = some r →
        r.res = some (.val v) → r.way = [] → r.held = false → r.op = .load (.g d) w sg →
        ∃ t, exec (.stokerAccessComplete k) s = .next t ∧ t.reqs = s.reqs.eraseIdx i ∧ (t.ctx k).busy = none
          ∧ (t.ctx k).pc = c.pc + 4 ∧ (∀ y, y ≠ 0 → (t.ctx k).rg y = if y = d then v else c.rg y)
          ∧ ∀ a, t.mem.read a = s.mem.read a)
    ∧ (∀ d a im s1 e pa h ws, s.cur.ctx = k →
        let va := (c.ra a + im.signExtend 80).toNat
        let r0 : Req := { ctx := k, op := .load (.g d) 8 false, va, pa, attr := e.attr }
        let circuits := serving s1 (ctxDie k) (homeDie pa) 1
        let r : Req := { r0 with way := h :: ws, via := circuits }
        va % 8 = 0 → translateCtx s k va = .ok (s1, e) → pageCheck s1 (meWho s) va e { r := true } = .ok pa → e.attr.sysw = false →
        oldPath s1 r0 = false → heldBehind s1 r0 = false →
        let sent (t : State) : Prop := exec (.ldd d a im) s = .next t ∧ t.reqs = s1.reqs ++ [r] ∧ (t.ctx k).busy = some .access
          ∧ (t.ctx k).pc = c.pc ∧ ∀ x, t.mem.read x = s.mem.read x
        (circuits = [] → crossings (bits pa 7 4) (homeDie pa) (ctxDie k) 4 = h :: ws →
          let d := (seamMod s1 (h / 2)).dir (h % 2)
          let x : FTok := { tile := k, link := 2, cls := 1 }
          Tbl.get 0 d.used x.channel < 32 → d.undelivered.contains x = false →
          ∃ t, sent t ∧ (seamMod t (h / 2)).dir (h % 2) =
            { d with out := d.out ++ [x], used := Tbl.set 0 d.used x.channel (Tbl.get 0 d.used x.channel + 1) })
        ∧ (circuits[bits pa 7 4 % circuits.length]? = some (h - 320) → 320 ≤ h → ws = [] → ∃ t, sent t ∧ t.fab = s1.fab))
    ∧ (∀ st i r n v, findReq (fun y => y.attr.ms && y.pa / 2 ^ 36 == st && reqFree s y) s.reqs = some (i, r) → i < s.reqs.length →
        r.op = .store n v → r.attr.ms = true → r.came = none →
        ∃ t y, exec (.memorySideApply st) s = .next t
          ∧ t.reqs = s.reqs.set i (Req.setOut s { r with res := some (.val 0), seen := y })
          ∧ t.mem.readN r.pa n = v.toNat % 2 ^ (8 * n)
          ∧ ∀ a, a < r.pa ∨ r.pa + n ≤ a → t.mem.read a = s.mem.read a)
    ∧ (∀ st i r n v s1, findReq (fun y => !y.attr.ms && y.op.isStore && y.pa / 2 ^ 36 == st && reqFree s y) s.reqs = some (i, r) →
        r.op = .store n v → r.came = none →
        storeAt s (ctxWho s r.ctx) r.va r.pa r.attr n (fullMask n) v.toNat = .ok s1 →
        ∃ t y, exec (.phasedWriteAtHome st) s = .next t
          ∧ t.reqs = s1.reqs.set i (Req.setOut s1 { r with res := some (.val 0), seen := y })
          ∧ t.mem = s1.mem ∧ t.lines = s1.lines)
    ∧ (∀ die part, 0 < Tbl.get 0 (s.part part).await die →
        ∃ q, exec (.sweeperReturn die part) s = .next (s.setPart part q)
          ∧ Tbl.get 0 q.await die = Tbl.get 0 (s.part part).await die - 1
          ∧ Tbl.get 0 q.inUse die = Tbl.get 0 (s.part part).inUse die - 1)
    ∧ (∀ scope n, scope ≤ 6 → leaseLive s c.lease = true → namedUnit scope n = agentUnit (.ctx k) scope →
        boundaryDue s c.lease (namedUnit scope n) = true → c.busy = some (.phase scope) → plain → c.st = .ready →
        ∃ t, exec (.phaseBoundaryComplete c.lease scope n) s = .next t ∧ (t.ctx k).busy = none ∧ (t.ctx k).pc = c.pc + 4
          ∧ (t.ctx k).g = c.g ∧ (∀ a, t.mem.read a = s.mem.read a)
          ∧ ∀ x ∈ (t.lease c.lease).arr, x.unit.inside (namedUnit scope n) = false)
    ∧ (c.st = .waiting → (s.lease c.lease).dbgHalt = false → plain →
        (c.wait = some .wfe → c.evq ≠ [] → c.asyncDue = false →
          ∃ t, exec (.contextWake k) s = .next t ∧ t.ctx k = { c with st := .ready, wait := none, busy := none, pc := c.pc + 4 })
        ∧ (∀ d ts v, c.wait = some (.cpy d ts) → copyWaitVal s k ts = some v →
          ∃ t, exec (.contextWake k) s = .next t ∧ (t.ctx k).st = .ready ∧ (t.ctx k).wait = none ∧ (t.ctx k).pc = c.pc + 4
            ∧ ∀ y, y ≠ 0 → (t.ctx k).rg y = if y = d then v else c.rg y))
    ∧ (c.status.getLsbD 0 = true → c.tvec ≠ 0 → (c.st = .ready ∨ c.st = .waiting) → c.busy = none → c.evq ≠ [] →
        leaseLive s c.lease = true →
        ∃ c', exec (.asyncEventTrap k) s = .next (s.setCtx k c')
          ∧ c' = { c with epc := c.pc, cause := BitVec.ofNat 64 (2 ^ 63 + 2 * 2 ^ 8), tval := 0, tvalh := 0, status := c'.status
                          pc := c.tvec, repOn := false, wait := none, busy := none, st := .ready }
          ∧ StatusEntered c.status c'.status)

/-! ### Events of leases -/

/-- R348, R354, R367, R370 to R372, R374, R376: the watchdog raises 0x10 on a lease with an open sink and no progress; a drain, a
freeze, a move and a resume end, and a lease whose image cannot be written stays frozen in place; one whose parking by a compaction would
split or merge a group with an open level runs on where it stands (R235); the placer begins to resume a saved lease where it fits; a lease whose contexts have halted ends.
The size and layout of a save image, and a drain given up on a freeze, are the model's (log entries 11 and 22). -/
def Obligations.LeaseEvents : Prop :=
  ∀ (s : State) (l : Nat),
    let le := s.lease l
    let gone (t : State) : Prop := ∀ k, (s.tile k).lease = some l → (t.tile k).lease = none
    let fits := saveFaults s l (imageBytes s l) = false
    let goesOn := le.regionFault = false ∧ (s.part le.part).quar.extractLsb' 0 1 = 0#1
    let splits := le.work.any (fun w => w.reloc && splitsGroup s l w.dest)
    (le.st = .running → dbgStopped s l = false → throttled le = false → 2 ^ 24 ≤ le.prog → stoppedPeers s l = [] →
      (sinkOpen s l = true → le.work = none → ∃ t, exec (.watchdogExpiry l) s = .next t ∧ (t.lease l).st = .frozen
        ∧ ∃ f, (t.lease l).faults = le.faults ++ [f] ∧ f.code = 0x10 ∧ f.level = 2)
      ∧ (sinkOpen s l = false → exec (.watchdogExpiry l) s = .next (s.setLease l { le with prog := 0, peers := [] })))
    ∧ (le.st = .draining → drained s l = true →
        (fits → splits = false → Tbl.sorted s.tiles = true →
          ∃ t, exec (.drainComplete l) s = .next t ∧ (t.lease l).st = .saved ∧ (t.lease l).work = none
          ∧ (t.lease l).saved.isSome = true ∧ gone t)
        ∧ (splits = true → ∃ t, exec (.drainComplete l) s = .next t ∧ (t.lease l).st = .running ∧ (t.lease l).work = none ∧ t.mem = s.mem)
        ∧ (¬ fits → splits = false → ∃ t, exec (.drainComplete l) s = .next t ∧ (t.lease l).st = .frozen ∧ (t.lease l).work = none
          ∧ ∃ f, (t.lease l).faults = le.faults ++ [f] ∧ f.code = 0x06 ∧ f.level = 0))
    ∧ (∀ w, le.work = some w → w.began + 105000 ≤ s.fc → engineHolds s l = false →
        (le.st = .draining → ∃ t, exec (.drainEscalation l) s = .next t ∧ (t.lease l).st = .freezing
          ∧ (t.lease l).work = some { w with frozen := true })
        ∧ (le.st = .moving → ∃ t, exec (.drainEscalation l) s = .next t ∧ (t.lease l).st = .copying))
    ∧ (le.st = .freezing → sentDone s l = true → owedWaits s l = false → fits → splits = false → Tbl.sorted s.tiles = true →
        ∃ t, exec (.freezeReadoutComplete l) s = .next t ∧ (t.lease l).st = .saved ∧ (t.lease l).work = none ∧ gone t)
    ∧ (∀ w, le.st = .copying → le.work = some w → sentDone s l = true → owing s l = [] → splitsGroup s l w.dest = false → goesOn →
        ∃ t, exec (.relocationComplete l) s = .next t ∧ (t.lease l).st = .running ∧ (t.lease l).work = none
          ∧ tileKey (t.lease l).die (t.lease l).row (t.lease l).col = tileKey (tileDie w.dest) (tileRow w.dest) (tileCol w.dest))
    ∧ (∀ w sv, le.st = .resuming → le.work = some w → le.saved = some sv → goesOn →
        ∃ t, exec (.resumeDone l) s = .next t ∧ (t.lease l).st = .running ∧ (t.lease l).saved = none ∧ (t.lease l).work = none
          ∧ ∀ k x, s.mem.read k = x → t.mem.read k = x)
    ∧ (∀ c, le.st = .saved → s.plans = [] → (s.part le.part).resize = [] → (s.part le.part).quar.extractLsb' 0 1 = 0#1 →
        waitingSet s le.part = [64 + l] → firstFit s le.part le.image (takenNow s [] none) (leaseHomes s l) = some c →
        exec (.placerServe le.part) s = .next (s.setLease l
          { le with st := .resuming, waiting := false, work := some { issuer := 0, dest := c, began := s.fc } }))
    ∧ (le.st = .running → le.starting = false → (∃ k, (s.ctx k).st = .halted ∧ (s.ctx k).lease = l) → Tbl.sorted s.ctxs = true →
        (∀ k, (s.ctx k).lease = l → (s.ctx k).st = .free ∨ (s.ctx k).st = .halted) → quiescent s l false = true →
        Tbl.sorted s.tiles = true →
        ∃ t, exec (.leaseEnd l) s = .next t ∧ (t.lease l).st = .none ∧ gone t
          ∧ ∀ k, (s.ctx k).lease = l → (s.ctx k).st = .halted → (t.ctx k).st = .free)

/-! ### Command packets -/

/-- R425, R428 to R432: what each packet does when it runs on its queue, and how it leaves: packetDone ends it with status 0 and its
completion entry, packetFail stops its queue with a status; a restart of a processor stops its queues with 0x45. Readings of packets
that the spec leaves open are the model's: log entry 24. -/
def Obligations.PacketsRun : Prop :=
  ∀ (s : State) (p q : Nat) (ws : List Word),
    let x := cq s p q
    let w (i : Nat) : Word := ws.getD i 0
    let runs (op : Nat) : Prop := x.pkt = ws ∧ ws ≠ [] ∧ (w 0).toNat % 256 = op ∧ x.top.isSome = true ∧ (x.st = 1 ∨ x.st = 3)
      ∧ x.wait = none ∧ x.launch = false ∧ x.fheld = none
    let gives (i : Instr) (u : State) : Prop := exec i s = .next u
    let holds (pa : Nat) : Prop :=
      let m := s.mem.word pa &&& w 4
      let c := (w 2).extractLsb' 16 2
      (c = 0#2 → m = w 3) ∧ (c = 1#2 → m ≠ w 3) ∧ (c = 2#2 → m.toNat < (w 3).toNat) ∧ (c = 3#2 → (w 3).toNat ≤ m.toNat)
    let fails (i : Instr) (need : Need) : Prop := ∀ c, procWord s p q (pva ws 1) need = .error c → codeLevel c = 2 →
      c ≠ heldCode → gives i (packetFail s p q c)
    (∀ es im, runs 1 → readEndpoints s p (w 6).toNat (w 7).toNat = .ok es → launchImage s p q (pva ws 1) = .ok im →
      let top := x.top.getD (0, 0, false)
      let la : WaitLaunch := { part := p, queue := q, image := im, saveVa := pva ws 3, saveBytes := (w 5).toNat, endpoints := es,
                               seq := top.1, cmp := top.2.1 == 1 && top.2.2, at_ := timeNs s, nowait := (w 0).getLsbD 14
                               depth := (x.stack.filter (fun f => f.size == 0 && !f.loop)).length }
      let s1 := setCq { s with waitL := s.waitL ++ [la] } p q { x with launch := true }
      ((la.saveBytes < saveSize im ∨ launchRefused s la = true) → gives (.launch p q) (packetFail s p q 0x15))
      ∧ (saveSize im ≤ la.saveBytes → launchRefused s la = false →
          (tryLaunch s1 la = none → gives (.launch p q)
            (if (w 0).getLsbD 14 then packetFail s p q 0x15 else if x.st = 3 then packetFail s p q 0x45 else s1))
          ∧ (∀ c id slot r, firstFit s1 p im (takenNow s1 [] none) [] = some c → freeId s1 = some id → freeSlot s1 p = some slot →
              let le : Lease := { st := .running, part := p, cls := im.cls, slot, image := im, placedAt := s.ordn + 1, saveVa := la.saveVa
                                  saveBytes := la.saveBytes, endpoints := es, queue := q, seq := la.seq, cmp := la.cmp, depth := la.depth
                                  starting := true }
              checkConf (takePlace (s1.setLease id le) id c) id im 0x7F none = .ok r →
              ∃ t, exec (.launch p q) s = .next t
                ∧ t.lease id = { le with die := tileDie c, row := tileRow c, col := tileCol c }
                ∧ t.loads = s.loads ++ [{ ctx := id, lease := id, conf := 0x7F, all := true, image := im.va }]
                ∧ t.mem = s.mem ∧ t.host = s.host)))
    ∧ (∀ es off, runs 1 → readEndpoints s p (w 6).toNat (w 7).toNat = .ok es → launchImage s p q (pva ws 1) = .error (0x19, off) →
        gives (.launch p q) (imageRefused (procRelease s p q) p q off 0))
    ∧ (runs 2 →
        let deep := (x.stack.filter (fun f => f.size == 0 && !f.loop)).length
        (2 ≤ deep → gives (.indirect p q) (packetFail s p q 0x42))
        ∧ (deep < 2 → inHost s p (w 1).toNat (8 * (w 2).toNat) = false → gives (.indirect p q) (packetFail s p q 0x44))
        ∧ (deep < 2 → inHost s p (w 1).toNat (8 * (w 2).toNat) = true →
            gives (.indirect p q) (setCq s p q
              { x with pkt := [], moved := 0, met := false, stack := { base := (w 1).toNat, lim := (w 2).toNat } :: x.stack })))
    ∧ (runs 3 → fails (.pred p q) { r := true } ∧ ∀ pa, procWord s p q (pva ws 1) { r := true } = .ok pa →
        (holds pa → gives (.pred p q) (packetDone s p q))
        ∧ (¬ holds pa → ∃ y, gives (.pred p q) (packetDone (setCq s p q y) p q)
            ∧ (x.stack = [] → y = { x with
                qhead := BitVec.ofNat 64 ((x.qhead.toNat + ((w 2).extractLsb' 32 16).toNat) % x.ringSize) })))
    ∧ (runs 4 → x.stack = [] →
        let passes := ((w 1).extractLsb' 0 32).toNat
        let body := ((w 1).extractLsb' 32 16).toNat
        gives (.loop p q) (packetDone (setCq s p q (if passes = 0 then
            { x with qhead := BitVec.ofNat 64 ((x.qhead.toNat + body) % x.ringSize) }
          else { x with stack := [{ size := x.ringSize, start := x.qhead.toNat, lim := body, passes, loop := true }] })) p q))
    ∧ (∀ b r, runs 4 → x.stack = b :: r → b.size = 0 → b.loop = false →
        let passes := ((w 1).extractLsb' 0 32).toNat
        let body := ((w 1).extractLsb' 32 16).toNat
        gives (.loop p q) (packetDone (setCq s p q (if passes = 0 then { x with stack := { b with pos := b.pos + body } :: r }
          else { x with stack := { base := b.base, pos := b.pos, start := b.pos, lim := b.pos + body, passes, loop := true } :: x.stack })) p q))
    ∧ (runs 5 → fails (.waitPacket p q) { r := true } ∧ ∀ pa, procWord s p q (pva ws 1) { r := true } = .ok pa →
        (holds pa → gives (.waitPacket p q) (packetDone s p q))
        ∧ (¬ holds pa → x.st = 3 → gives (.waitPacket p q) (packetFail s p q 0x45))
        ∧ (¬ holds pa → x.st = 1 → gives (.waitPacket p q)
            (setCq s p q { x with wait := some (if w 5 = 0 then 0 else s.fc + 2100 * (w 5).toNat), met := false })))
    ∧ (∀ t, x.pkt = ws → (w 0).toNat % 256 = 5 → x.wait = some t →
        (x.met = true → gives (.waitPacketSatisfied p q) (packetDone s p q))
        ∧ (∀ pa, x.met = false → procWord s p q (pva ws 1) { r := true } = .ok pa →
            gives (.waitPacketSatisfied p q) (open Classical in if holds pa then packetDone s p q else s))
        ∧ (x.met = false → 0 < t → t ≤ s.fc → gives (.waitPacketTimeout p q) (packetFail s p q 0x43))
        ∧ (s.fc < t → gives (.waitPacketTimeout p q) s))
    ∧ (runs 6 → fails (.signal p q) { r := true, w := true, noProof := true }
        ∧ ∀ pa n, procWord s p q (pva ws 1) { r := true, w := true, noProof := true } = .ok pa →
          let c := (w 2).extractLsb' 16 2
          let m := s.mem.word pa
          ((c = 0#2 ∧ n = w 3) ∨ (c = 1#2 ∧ n = m + w 3) ∨ (c = 2#2 ∧ n = m ||| w 3)) →
          gives (.signal p q) (packetDone { s with mem := s.mem.setWord pa n } p q))
    ∧ (runs 7 → x.moved < (w 5).toNat →
        let n := min ((w 5).toNat - x.moved) (8 - ((pLoc ws 3).addr + x.moved) % 8)
        (∀ v m c s1, pktRead s p q (pLoc ws 1) x.moved n = (v, m, c) → m ≠ 0 → pktWrite s p q (pLoc ws 3) x.moved m v = .ok s1 →
          let u := modCq s1 p q (fun y => { y with moved := x.moved + m })
          gives (.copyPacket p q) (if (w 5).toNat ≤ x.moved + m then packetDone u p q else u))
        ∧ ((w 2).getLsbD 16 = true → (w 4).getLsbD 16 = true →
            let a := (w 1).toNat + x.moved
            let b := (w 3).toNat + x.moved
            inHost s p a n = true → inHost s p b n = true →
            let u := setCq { s with host := s.host.writeN b n (s.host.readN a n) } p q { x with moved := x.moved + n }
            gives (.copyPacket p q) (if (w 5).toNat ≤ x.moved + n then packetDone u p q else u)))
    ∧ (runs 8 → gives (.prefetchPacket p q) (packetDone s p q))
    ∧ (runs 9 → (∀ e ∈ s.leases, e.2.part = p → e.2.queue = q → e.2.st = .none) →
        gives (.discardPacket p q) (packetDone (discardRange s p (procWho p q) (fun _ => true) (pva ws 1) (w 3).toNat) p q))
    ∧ (runs 10 → gives (.fetchFence p q) (packetDone (setCq s p q { x with fetched := [] }) p q))
    ∧ (∀ proc, proc < 16 → (∀ e ∈ s.leases, e.2.starting = false) →
        ∃ t, exec (.commandProcessorRestart proc) s = .next t ∧ t.mem = s.mem ∧ t.ctxs = s.ctxs ∧ t.tiles = s.tiles
          ∧ t.leases = s.leases ∧ (∀ b j, j < 64 → b * 64 + j ∈ procQueues s proc → (cq s b j).st = 1 →
              (cq t b j).qstat = BitVec.ofNat 64 (2 + 0x45 * 2 ^ 8 + (cq s b j).lastacc * 2 ^ 32)))
    ∧ (∀ seq op cmp, x.top = some (seq, op, cmp) → x.stack = [] → seq < 2 ^ 32 → op < 256 → s.leases = [] →
        (let t := packetDone s p q
         (cq t p q).top = none ∧ (cq t p q).pkt = [] ∧ t.mem = s.mem ∧ t.ctxs = s.ctxs ∧ t.tiles = s.tiles
         ∧ (cmp = false → t.host = s.host)
         ∧ (cmp = true → x.cheld = [] → x.compFull = false → x.cmsi = false → compIn s p x = true →
             t.host.word (x.cbase.toNat + 16 * x.ctail) = BitVec.ofNat 64 (seq + op * 2 ^ 40)
             ∧ t.host.word (x.cbase.toNat + 16 * x.ctail + 8) = 0
             ∧ (cq t p q).ctail = (x.ctail + 1) % x.compSize % 2 ^ 16))
        ∧ ∀ status, 0 < status → status < 256 → x.st = 1 →
            (cq (packetFail s p q status) p q).qstat = BitVec.ofNat 64 (2 + status * 2 ^ 8 + seq * 2 ^ 32)
            ∧ (cq (packetFail s p q status) p q).top = none)

/-! ### Management space -/

/-- R35, R318, R340, R343, R348, R379, R405, R419, R421, R424: what an accepted write of a register of a partition control block leaves,
what a write by a view that may not make it leaves (one more refusal, with its offset), and what an invalidation and a frame
migration do. That a MIGRATE_FRAME of a frame outside the package stops the machine is the model's reading (DEDUCED, log entry 16).
Readings of management writes that the spec leaves open are the model's: log entry 23. -/
def Obligations.PartitionWrites : Prop :=
  ∀ (s : State) (view off p o : Nat) (v : Word), spotOf view off = .block p o → ready s = true →
    let x := s.part p
    let lv := blockLevel p
    let may (need : Nat) (bit : Option Nat) : Prop := mayWrite s view p need bit = true
    let gives (i : Nat → Nat → Word → Instr) (y : Part) : Prop := exec (i view off v) s = .next (s.setPart p y)
    let refused (i : Nat → Nat → Word → Instr) : Prop := exec (i view off v) s = .next (refuse s p o)
    let hits (y : Part) (l n : Nat) : Bool := leaseUnder s p l && (eng s l n).exts.any (ivCovers y)
    (((refuse s p o).part p).refst.toNat % 2 ^ 32 = min (x.refst.toNat % 2 ^ 32 + 1) (2 ^ 32 - 1)
      ∧ ((refuse s p o).part p).refst.toNat / 2 ^ 32 = o % 2 ^ 32
      ∧ refuse s p o = s.setPart p { x with refst := ((refuse s p o).part p).refst })
    ∧ (o = 0x10 → may (lv - 1) none → hostBoundOk s p v = true → gives .registerWrite { x with hbase := v })
    ∧ (o = 0x20 → may (lv - 1) none → hostBoundOk s p v = true → gives .registerWrite { x with hlimit := v })
    ∧ (o = 0x40 → may lv none → gives .registerWrite { x with ivaddr := v })
    ∧ (lv = 2 → v.toNat % 4096 = 0 →
        (o = 0x28 → may 2 (some 2) → gives .registerWrite { x with croot := v })
        ∧ (o = 0x30 → may 1 (some 2) → gives .registerWrite { x with rroot := v })
        ∧ (o = 0x38 → may 0 none → v.toNat < 2 ^ 52 → gives .registerWrite { x with oroot := v }))
    ∧ (lv - 1 < view → (o = 0x10 ∨ o = 0x20 → refused .registerWrite) ∧ (o = 0 → refused .pcfgWrite) ∧ (o = 8 → refused .rightsWrite)
        ∧ (o = 0x18 → refused .dietabWrite) ∧ (∀ i, arrayIdx o 0x180 8 32 = some i → refused .allotWrite))
    ∧ (o = 0 → may (lv - 1) (some 0) →
        (v = 1 → (partC p = 0 ∨ (s.part (partR p * 32)).pcfg.getLsbD 0 = true) →
          gives .pcfgWrite (if x.pcfg.getLsbD 0 then x else { x with pcfg := 1, queues := [], key := true }))
        ∧ (v = 0 → partHeld s p = false → gives .pcfgWrite { x with pcfg := 0, queues := [], key := false })
        ∧ (v = 0 → partHeld s p = true → refused .pcfgWrite))
    ∧ (o = 8 → may (lv - 1) none → v.toNat < 2 ^ 14 →
        v &&& ~~~(if view = 0 then 0x3FFF else (s.part (viewBlock view p)).rights) = 0 →
        ∃ t, exec (.rightsWrite view off v) s = .next t ∧ (t.part p).rights = v
          ∧ (∀ b, b ≠ p → (t.part b).rights = if b ∈ beneath s p then (s.part b).rights &&& v else (s.part b).rights)
          ∧ t.mem = s.mem)
    ∧ (o = 0x18 → may (lv - 1) (some 1) → dietabOk s p v = true → gives .dietabWrite { x with dietab := v })
    ∧ (∀ i, arrayIdx o 0x180 8 32 = some i → may (lv - 1) (some 0) → v &&& ~~~(parentAllot s p i) = 0 →
        let old := Tbl.get (0 : Word) x.allot i
        (lv = 1 → childHolds s p i (old &&& ~~~v) = false → gives .allotWrite { x with allot := Tbl.set 0 x.allot i v })
        ∧ (lv = 2 → x.resize = [] → (old &&& ~~~v = 0 ∨ partLeases s p = []) →
            ∃ t, exec (.allotWrite view off v) s = .next t ∧ t = s.setPart p { x with allot := (t.part p).allot }
              ∧ ∀ j, Tbl.get 0 (t.part p).allot j = if j = i then v else Tbl.get 0 x.allot j))
    ∧ (∀ d, arrayIdx o 0x100 8 8 = some d → lv = 2 → may 1 (some 3) → v.toNat < 2 ^ 48 →
        (view = 0 ∨ v.extractLsb' 24 24 = (Tbl.get (0 : Word) x.poolseg d).extractLsb' 24 24) →
        (v.extractLsb' 0 24).toNat ≤ (v.extractLsb' 24 24).toNat → Tbl.get 0 x.inUse d ≤ (v.extractLsb' 0 24).toNat →
        let first := (Tbl.get (0 : Word) x.poolpa d).toNat
        ∃ t, exec (.poolsegWrite view off v) s = .next t ∧ t = { s.setPart p { x with poolseg := Tbl.set 0 x.poolseg d v } with tags := t.tags }
          ∧ ∀ f, Tbl.get 0xFFFF t.tags f =
              if first ≤ f ∧ f < first + (144 * (v.extractLsb' 0 24).toNat + 65535) / 65536 then 0 else Tbl.get 0xFFFF s.tags f)
    ∧ (o = 0x48 → v.extractLsb' 0 2 ≠ 3#2 → may (min (2 - (v.extractLsb' 0 2).toNat) lv) (some 2) → v.extractLsb' 3 5 = 0#5 →
        v.extractLsb' 32 32 = 0#32 →
        (x.ivcmd.getLsbD 63 = false →
          let y : Part := { x with ivcmd := v ||| 1 <<< 63, ivfrom := x.ivaddr }
          ∃ t, exec (.ivcmd view off v) s = .next t ∧ t = { s.setPart p y with leases := t.leases }
            ∧ ∀ l n, eng t l n = if hits y l n = true ∧ (eng s l n).st = .running then { eng s l n with st := .paused } else eng s l n)
        ∧ (x.ivcmd.getLsbD 63 = true → refused .ivcmd))
    ∧ (x.ivcmd.getLsbD 63 = true → (∀ r ∈ s.reqs, (s.ctx r.ctx).lease ∉ blockLeases s p) →
        ∃ t, exec (.ivcmdDone p) s = .next t ∧ (t.part p).ivcmd = 0 ∧ t.mem = s.mem ∧ t.tiles = s.tiles
          ∧ (∀ k, t.ctx k = if leaseUnder s p (s.ctx k).lease then (s.ctx k).rewait else s.ctx k)
          ∧ (∀ l n, (eng t l n).st = if hits x l n = true ∧ (eng s l n).st = .paused then .running else (eng s l n).st)
          ∧ ∀ k, ∀ e ∈ (t.stoker k).tlb, e ∈ (s.stoker k).tlb ∧ ((s.lease e.lease).part = p → ivCovers x e = false))
    ∧ (∀ src dst : Nat, (2 ^ 23 ≤ src ∨ 2 ^ 23 ≤ dst → exec (.migrateFrame p src dst) s = .fault .noSuchFrame)
        ∧ (src < 2 ^ 23 → dst < 2 ^ 23 → src ≠ dst →
            (∀ m ∈ s.migrs, m.src ≠ src ∧ m.dst ≠ src ∧ m.src ≠ dst ∧ m.dst ≠ dst) →
            ∀ u, reservePool s (dst * 65536 / 2 ^ 36) (frameShadows s src) = some u →
              exec (.migrateFrame p src dst) s = .next { u with migrs :=
                u.migrs ++ [{ part := p, src, dst, pool := (frameShadows s src).map (fun x => x.part) }] }))
    ∧ (∀ idx g, s.migrs[idx]? = some g → s.mem.wf = true →
        ∃ t m, exec (.frameMigrationComplete idx) s = .next t ∧ t.migrs = s.migrs.eraseIdx idx
          ∧ (∀ a, a < 65536 → m.read (g.dst * 65536 + a) = s.mem.read (g.src * 65536 + a))
          ∧ (∀ a, a / 65536 ≠ g.dst → m.read a = s.mem.read a)
          ∧ t.mem = (if (s.part g.part).oroot = 0 then m else repoint g.src g.dst (s.part g.part).oroot.toNat m 6)
          ∧ Tbl.get 0xFFFF t.tags g.dst = Tbl.get 0xFFFF s.tags g.src)
    ∧ (o = 0x6C0 → lv = 2 → may 2 (some 0) → v.toNat < 2 ^ 20 → Tbl.sorted s.tiles = true →
        let l := (v.extractLsb' 0 12).toNat
        (s.lease l).st ≠ .none → (s.lease l).part = p →
        ∃ t, exec (.lend view off v) s = .next t ∧ t = endLease s l (v.extractLsb' 12 8).toNat
          ∧ (t.lease l).st = .none ∧ ∀ k, (s.tile k).lease = some l → (t.tile k).lease = none)

/-- R361 to R366, R378, R426 to R429, R433, R435: the registers of command queues and handler queues, the replies to faults and the
requests of a debugger, as accepted writes leave them. Readings of management writes that the spec leaves open are the model's: log
entry 23. -/
def Obligations.QueueAndHandlerWrites : Prop :=
  ∀ (s : State) (view off p o : Nat) (v : Word), spotOf view off = .block p o → ready s = true → view ≤ blockLevel p →
    let lv := blockLevel p
    let gives (i : Nat → Nat → Word → Instr) (t : State) : Prop := exec (i view off v) s = .next t
    (∀ q j, lv = 2 → queueSpot o = some (q, j) →
      let x := cq s p q
      let c := v &&& ~~~(0x40000#64)
      (j = 8 → qcfgOk v = true →
        (x.qcfg.getLsbD 16 = false → v.getLsbD 16 = true → x.st ≠ 3 →
          let fit := inHost s p x.qbase.toNat (8 * 2 ^ (v.extractLsb' 0 5).toNat) && inHost s p x.cbase.toNat (16 * 2 ^ (v.extractLsb' 8 5).toNat)
          gives .queueEnable (setCq s p q (if fit then
            { x with qcfg := c, qhead := 0, qstat := 1, proc := some (pickProc s), fetched := [] }
            else { x with qcfg := c &&& ~~~(0x10000#64), qstat := 0x4400 })))
        ∧ (x.qcfg.getLsbD 16 = true → v.getLsbD 16 = false →
            (x.top = none → gives .queueDisable (setCq s p q
              { x with qcfg := c, qstat := x.qstat &&& ~~~3#64, stack := [], fetched := [], proc := none }))
            ∧ (x.top.isSome = true → x.wait = none → x.launch = false →
                gives .queueDisable (setCq s p q { x with qcfg := c, qstat := x.qstat ||| 3 })))
        ∧ (x.qcfg.getLsbD 16 = true → v.getLsbD 16 = true →
            (v.getLsbD 18 = true → gives .queueResume (setCq s p q
              (if x.st = 2 then { x with qcfg := c, qstat := 1 } else { x with qcfg := c })))
            ∧ (v.getLsbD 18 = false → gives .registerWrite (setCq s p q { x with qcfg := c }))))
      ∧ (j = 0 → v.toNat % 8 = 0 → x.qcfg.getLsbD 16 = false → x.st = 0 → gives .registerWrite (setCq s p q { x with qbase := v }))
      ∧ (j = 0x10 → v.toNat < x.ringSize → gives .qtailDoorbell (setCq s p q { x with qtail := v }))
      ∧ (j = 0x10 → x.ringSize ≤ v.toNat → gives .qtailDoorbell (refuse s p o))
      ∧ (j = 0x28 → v.toNat < 2 ^ 32 → v.toNat / 2 ^ 16 < x.compSize → x.cheld = [] →
          ∃ y, gives .cringHeadWrite (setCq s p q { x with cring := y }) ∧ y.extractLsb' 16 16 = v.extractLsb' 16 16
            ∧ y.extractLsb' 0 16 = x.cring.extractLsb' 0 16))
    ∧ (o = 0x618 → v.toNat < 2 ^ 20 → (s.part p).hq.held = [] →
        gives .hqheadWrite (s.setPart p { s.part p with hq := { (s.part p).hq with head := v } }))
    ∧ (o = 0x600 → v.toNat % 4096 = 0 → (s.part p).hq.held = [] →
        gives .registerWrite (s.setPart p { s.part p with hq := { (s.part p).hq with base := v } }))
    ∧ (o = 0x620 → replyOk v = true → replyPacket s lv p v = none →
        let l := (v.extractLsb' 0 12).toNat
        let act := (v.extractLsb' 20 2).toNat
        (replyFault s lv p v = none → ∀ i, (act, i) ∈ [(0, Instr.faultReplyResume), (1, .faultReplySave), (2, .faultReplyEnd)] →
          gives i (unmatched s lv p))
        ∧ (∀ n f, replyFault s lv p v = some (n, f) →
            (act = 0 → quarantined s (s.lease l).part = false →
              (∀ e, f.what = .engine e → (eng s l e).st = .faulted → (s.lease l).st ≠ .frozen →
                (∀ g ∈ (s.lease l).faults, g.what = .region → g.replied = false) →
                ∃ t, exec (.faultReplyResume view off v) s = .next t ∧ t = { s with leases := t.leases }
                  ∧ eng t l e = { (eng s l e).resumed with st := .running, exts := [] } ∧ (t.lease l).faults = (s.lease l).faults.eraseIdx n)
              ∧ ((f.what = .region ∨ ∃ e, f.what = .engine e) → (s.lease l).st = .frozen → (s.lease l).work = none → (s.lease l).late = [] →
                  (∀ m g, m ≠ n → (s.lease l).faults[m]? = some g → g.replied = true) →
                  ∃ t, exec (.faultReplyResume view off v) s = .next t ∧ (t.lease l).st = .running
                    ∧ (∀ g ∈ (t.lease l).faults, g.what ≠ .region)
                    ∧ (Tbl.sorted s.ctxs = true → (s.lease l).starting = false →
                        ∀ k, (s.ctx k).lease = l → (s.ctx k).st = .frozen → t.ctx k = { s.ctx k with st := (s.ctx k).thaw })))
            ∧ (act = 0 → quarantined s (s.lease l).part = true → gives .faultReplyResume (unmatched s lv p))
            ∧ (act = 1 → (s.lease l).st = .frozen → (s.lease l).work = none →
                ∃ t, exec (.faultReplySave view off v) s = .next t ∧ (t.lease l).st = .freezing ∧ (t.lease l).waiting = true
                  ∧ (t.lease l).faults = (s.lease l).faults ∧ t.mem = s.mem)
            ∧ (act = 2 → ∃ t, exec (.faultReplyEnd view off v) s = .next t ∧ (t.lease l).st = .none
                ∧ t = endLease s l (v.extractLsb' 12 8).toNat)))
    ∧ (o = 0x680 → lv = 2 → viewRight s view p 4 = true → v.extractLsb' 3 9 = 0#9 → v.getLsbD 47 = false →
        let l := (v.extractLsb' 12 12).toNat
        let idx := (v.extractLsb' 48 16).toNat
        let op (n : Nat) : Prop := (v.extractLsb' 0 3).toNat = n
        (s.lease l).st ≠ .none → (s.lease l).part = p →
        let answers (i : Nat → Nat → Word → Instr) (P : State → Prop) : Prop :=
          ∃ t, exec (i view off v) s = .next t ∧ (t.lease l).dbg.contains view = true ∧ t.mem = s.mem ∧ P t
        (op 2 → answers .dbgHaltLease (fun t => (t.lease l).dbgHalt = true ∧ (t.lease l).haltBy = view ∧ t.tiles = s.tiles
          ∧ (Tbl.sorted s.ctxs = true → ∀ k, (s.ctx k).lease = l → (s.ctx k).st ≠ .free → (s.ctx k).st ≠ .frozen → (s.ctx k).dbgHalt = false →
              t.ctx k = { s.ctx k with st := .halted, dbgPrev := (s.ctx k).st, dbgHalt := true, dbgAll := true, haltBy := view })))
        ∧ (op 3 → quarantined s p = false → answers .dbgResumeLease (fun t => (t.lease l).dbgHalt = false))
        ∧ (op 3 → quarantined s p = true → gives .dbgResumeLease (refuse s p o))
        ∧ (∀ k, dbgTarget s view p v = some (.tile k) →
            (op 0 → answers .dbgHaltUnit (fun t => t.tile k = { s.tile k with halted := true, haltBy := view } ∧ t.ctxs = s.ctxs))
            ∧ (op 1 → quarantined s p = false → (s.tile k).halted = true → (s.tile k).dbgOps = [] →
                answers .dbgResumeUnit (fun t => t.tile k = ({ s.tile k with halted := false } : Tile).note ∧ t.ctxs = s.ctxs))
            ∧ (∀ w, op 4 → dbgHalted s l (.tile k) = true → tileStateWord (s.tile k) idx = some w →
                answers .dbgReadWord (fun t => (t.part p).dbgdata = w ∧ t.tiles = s.tiles ∧ t.ctxs = s.ctxs))
            ∧ (∀ y, op 5 → dbgHalted s l (.tile k) = true → tileSetWord (s.tile k) idx (s.part p).dbgdata = some y →
                answers .dbgWriteWord (fun t => t.tile k = y ∧ t.ctxs = s.ctxs))
            ∧ (dbgHalted s l (.tile k) = false → (op 4 → gives .dbgReadWord (refuse s p o)) ∧ (op 5 → gives .dbgWriteWord (refuse s p o))))
        ∧ (∀ k, dbgTarget s view p v = some (.ctx k) →
            (op 0 → (s.ctx k).dbgHalt = false → (s.ctx k).st ≠ .frozen →
              answers .dbgHaltUnit (fun t => t.ctx k = { s.ctx k with st := .halted, dbgPrev := (s.ctx k).st, dbgHalt := true, haltBy := view }
                ∧ t.tiles = s.tiles))
            ∧ (op 1 → quarantined s p = false → (s.ctx k).dbgHalt = true → (s.ctx k).st = .halted →
                answers .dbgResumeUnit (fun t => t.ctx k = { s.ctx k with st := (s.ctx k).dbgPrev, dbgHalt := false, dbgAll := false } ∧ t.tiles = s.tiles))
            ∧ (op 4 → dbgHalted s l (.ctx k) = true → idx < 32 →
                answers .dbgReadWord (fun t => (t.part p).dbgdata = (s.ctx k).rg (BitVec.ofNat 5 idx) ∧ t.ctxs = s.ctxs))
            ∧ (op 5 → dbgHalted s l (.ctx k) = true → 0 < idx → idx < 32 →
                answers .dbgWriteWord (fun t => (t.ctx k).pc = (s.ctx k).pc ∧ t.tiles = s.tiles
                  ∧ ∀ y, y ≠ 0 → (t.ctx k).rg y = if y.toNat = idx then (s.part p).dbgdata else (s.ctx k).rg y))))

/-- R380, R398, R402, R406, R410, R411, R422, R436, R437, R439, R440: what a write of a register of the owner page or of the fabric
control region leaves, and what comes of a retagging and of a change of a circuit. Readings of management writes that the spec
leaves open are the model's: log entry 23. -/
def Obligations.OwnerAndFabricWrites : Prop :=
  ∀ (s : State) (view off o : Nat) (v : Word), ready s = true →
    let g := s.pkg
    let b (n : Nat) : Bool := v.getLsbD n
    let gives (i : Nat → Nat → Word → Instr) (t : State) : Prop := exec (i view off v) s = .next t
    (spotOf view off = .none → ∀ i, i ∈ [Instr.registerWrite, .asrcWrite, .mext, .quarantine, .quarantineLift, .ftcmd, .mstatFullRetrain,
      .mstatClear, .connSetup, .connTeardown, .dcfgWrite, .pkgidWrite, .gstatEnable, .gstatClear] → gives i s)
    ∧ (spotOf view off = .owner o →
      (o = 8 → v.toNat < 2 → gives .registerWrite { s with pkg := { g with alarmcfg := v } })
      ∧ (o = 0x300 → v.toNat < 2 ^ 23 → gives .registerWrite { s with pkg := { g with ftframe := v } })
      ∧ (∀ i, arrayIdx o 0x80 8 4 = some i → ∃ m, gives .registerWrite { s with pkg := { g with mdig := m } }
          ∧ ∀ n, m.getLsbD n = if n / 64 = i then v.getLsbD (n % 64) else g.mdig.getLsbD n)
      ∧ (∀ i, arrayIdx o 0x40 8 8 = some i →
          (i < 5 → alarmClass s i ≤ (v.extractLsb' 0 2).toNat →
            ∃ w, gives .asrcWrite { s with pkg := { g with asrc := Tbl.set 0 g.asrc i w } } ∧ w.extractLsb' 0 2 = v.extractLsb' 0 2
              ∧ w.extractLsb' 2 62 = (Tbl.get (0 : Word) g.asrc i).extractLsb' 2 62)
          ∧ (5 ≤ i ∨ (v.extractLsb' 0 2).toNat < alarmClass s i → gives .asrcWrite s))
      ∧ (o = 0xA0 → 8 ≤ v.toNat → v.toNat ≤ 15 →
          gives .mext { s with pkg := { g with meas := Tbl.set 0 g.meas v.toNat (extendMeas (Tbl.get 0 g.meas v.toNat) g.mdig) } })
      ∧ (o = 0xA0 → (v.toNat < 8 ∨ 15 < v.toNat) → gives .mext s)
      ∧ (∀ p, o = 0xA8 → quarPart v = some p →
          (b 10 = true →
            ∃ t, gives .quarantine t ∧ (t.part p).quar = 1 ∧ (t.part p).key = (s.part p).key ∧ t.mem = s.mem
              ∧ (∀ l, (s.lease l).part = p → (s.lease l).st ≠ .ending → (t.lease l).live = false
                  ∧ ((s.lease l).st ∈ [.running, .draining, .freezing] → (t.lease l).st = .frozen ∧ (t.lease l).work = none))
              ∧ (Tbl.sorted s.leases = true → ∀ l, (s.lease l).part ≠ p → t.lease l = { s.lease l with saved := (t.lease l).saved })
              ∧ ∀ q, (cq s p q).st = 1 → (cq t p q).qstat.extractLsb' 0 16 = 0x4502#16)
          ∧ (b 10 = false → gives .quarantineLift (s.setPart p { s.part p with quar := 0 })))
      ∧ (o = 0x308 →
          (g.ftbusy = true → gives .ftcmd s)
          ∧ (g.ftbusy = false → v.extractLsb' 41 23 = 0#23 → (g.ftframe.extractLsb' 0 23).toNat + (v.extractLsb' 16 24).toNat ≤ 0x7FFFFF →
              gives .ftcmd { s with pkg := { g with ftcmd := v, ftbusy := true, ftfirst := (g.ftframe.extractLsb' 0 23).toNat } })))
    ∧ (g.ftbusy = true →
      let inR (x : Nat) : Prop := g.ftfirst ≤ x ∧ x ≤ g.ftfirst + (g.ftcmd.extractLsb' 16 24).toNat
      (∀ r ∈ s.reqs, ¬ inR (r.pa / 65536)) →
      ∃ t, exec .ftcmdDone s = .next t ∧ t.pkg.ftbusy = false
        ∧ (∀ x, (inR x → Tbl.get 0xFFFF t.tags x = g.ftcmd.extractLsb' 0 16) ∧ (¬ inR x → Tbl.get 0xFFFF t.tags x = Tbl.get 0xFFFF s.tags x))
        ∧ (g.ftcmd.getLsbD 40 = false → t.mem = s.mem ∧ t.lines = s.lines)
        ∧ (g.ftcmd.getLsbD 40 = true → (∀ a, (inR (a / 65536) → t.mem.read a = 0) ∧ (¬ inR (a / 65536) → t.mem.read a = s.mem.read a))
            ∧ ∀ e ∈ t.lines, ¬ inR (e.1 / 512)))
    ∧ (∀ e, let w := Tbl.get (0 : Word) s.fab.conn e
        (w.extractLsb' 61 2 = 1#2 → s.fc < Tbl.get 0 s.fab.connT e + 3150 → exec (.circuitSetupDone e) s = .next s)
        ∧ (w.extractLsb' 61 2 = 1#2 → Tbl.get 0 s.fab.connT e + 3150 ≤ s.fc →
            ∃ y, exec (.circuitSetupDone e) s = .next (msiWrite (setConn s e y s.fc) g.hq) ∧ y.extractLsb' 61 2 = 2#2
              ∧ y.extractLsb' 0 61 = w.extractLsb' 0 61 ∧ y.getLsbD 63 = w.getLsbD 63)
        ∧ (w.extractLsb' 61 2 = 2#2 → w.getLsbD 63 = false → (∀ r ∈ s.reqs, r.way.head? ≠ some (circuitHop e)) →
            ∃ y, exec (.circuitTeardownDone e) s = .next (setConn s e y 0) ∧ y.extractLsb' 61 2 = 0#2
              ∧ y.extractLsb' 0 61 = w.extractLsb' 0 61))
    ∧ (spotOf view off = .fab o →
      (∀ i, arrayIdx o 0x4000 8 2048 = some i → v.extractLsb' 52 11 = 0#11 → v.extractLsb' 12 28 = 0#28 →
        gives .registerWrite { s with fab := { s.fab with win := Tbl.set 0 s.fab.win i v } })
      ∧ (∀ k, arrayIdx o 0x1000 8 160 = some k →
          (b 1 = true → ∃ t, let m := seamMod t k
              gives .mstatFullRetrain t ∧ t = { s with fab := t.fab } ∧ m.retrain = some s.fc ∧ m.full = true
              ∧ (carrier s k = some k → m.d0.wire = [] ∧ m.d1.wire = [])
              ∧ m.d0.replay = (seamMod s k).d0.replay ∧ m.d1.replay = (seamMod s k).d1.replay
              ∧ m.mstat.extractLsb' 0 16 = (seamMod s k).mstat.extractLsb' 0 16 ∧ (b 0 = true → m.mstat.extractLsb' 16 48 = 0#48))
          ∧ (b 0 = true → b 1 = false → ∃ w, gives .mstatClear (setSeamMod s k { seamMod s k with mstat := w })
              ∧ w.extractLsb' 16 48 = 0#48 ∧ w.extractLsb' 0 16 = (seamMod s k).mstat.extractLsb' 0 16))
      ∧ (∀ k, arrayIdx o 0 8 256 = some k →
          let old := Tbl.get (0 : Word) s.fab.conn k
          let sets (i : Nat → Nat → Word → Instr) (st : BitVec 2) (at_ : Nat) : Prop :=
            ∃ w, gives i (setConn s k w at_) ∧ w.extractLsb' 61 2 = st ∧ w.extractLsb' 32 22 = v.extractLsb' 32 22
              ∧ w.getLsbD 63 = b 63 ∧ w.extractLsb' 0 32 = 0#32
          (b 63 = true → (old.extractLsb' 61 2 = 0#2 ∨ old.extractLsb' 61 2 = 3#2) →
            (connOk s k v = true → sets .connSetup 1 s.fc) ∧ (connOk s k v = false → sets .connSetup 3 0))
          ∧ (b 63 = false →
            ((old.extractLsb' 61 2 = 0#2 ∨ old.extractLsb' 61 2 = 3#2) → sets .connTeardown 0 0)
            ∧ (old.extractLsb' 61 2 = 1#2 → gives .connTeardown (setConn s k (old &&& 0x7FFFFFFFFFFFFFFF) (Tbl.get 0 s.fab.connT k)))
            ∧ (old.extractLsb' 61 2 = 2#2 → gives .connTeardown (setConn s k (old &&& 0x7FFFFFFFFFFFFFFF) s.fc))))
      ∧ (o = 0x2000 → 1 ≤ v.toNat → v.toNat ≤ 3400 → gives .dcfgWrite { s with fab := { s.fab with dcfg := v } })
      ∧ (o = 0x2000 → (v.toNat = 0 ∨ 3400 < v.toNat) → gives .dcfgWrite s)
      ∧ (o = 0x3000 → v.toNat < 2 ^ 12 → (∀ e ∈ s.fab.ports, e.2.st ≠ 2) →
          ∃ t, gives .pkgidWrite t ∧ t = { s with fab := { s.fab with pkgid := v, pkgidSet := true, ports := t.fab.ports } }
            ∧ ∀ i, gport t i = if (gport s i).en && (gport s i).st != 1 then (gport s i).put 1 0 else gport s i)
      ∧ (∀ i, arrayIdx o 0x3100 8 36 = some i → v.extractLsb' 1 4 = 0#4 →
          (b 5 = true → (gport s i).en = false → ∃ y, gives .gstatEnable (setGport s i y) ∧ y.en = true
              ∧ (s.fab.pkgidSet = true → y.st = 1 ∧ y.lanes = 0) ∧ (s.fab.pkgidSet = false → y.st = (gport s i).st)
              ∧ y.gstat.extractLsb' 32 32 = if b 0 then 0#32 else (gport s i).gstat.extractLsb' 32 32)
          ∧ (b 5 = false → (gport s i).en = true → ∃ t, gives .gstatEnable t ∧ (gport t i).en = false ∧ (gport t i).st = 3 ∧ t.mem = s.mem)
          ∧ (b 5 = (gport s i).en → b 0 = true → ∃ w, gives .gstatClear (setGport s i { gport s i with gstat := w })
              ∧ w.extractLsb' 32 32 = 0#32 ∧ w.extractLsb' 0 32 = (gport s i).gstat.extractLsb' 0 32)))

/-- R357, R358, R395 to R398, R406 to R408, R410, R411, R413, R414, R437 to R442: what a request in a mailbox is answered with, and
the events of seam modules, Gorisk ports and system requests, of the damper and of budgets, of boot and of the package's own alarms.
The bytes of an SPDM response, whether a request has a bad length or state, the firmware images and what a remote package answers are
opaque constants, and when a mailbox answers and how a request of another package reaches this one is the model's (log entries 12 and
13). That a package reset keeps memory, host memory, the clock and the model's own fields is the model's choice too (log entries 4 and
23), and so is how flits are filled and acknowledged (log entry 17).
-/
def Obligations.MailboxesLinksAndAlarms : Prop :=
  ∀ s : State,
    (∀ (view off : Nat) (v : Word), ready s = true → v.toNat < 4096 →
      (spotOf view off = .owner 0x700 → exec (.registerWrite view off v) s
          = .next { s with pkg := { s.pkg with mb := { s.pkg.mb with ctl := v, sta := 1 } } })
      ∧ (∀ p, spotOf view off = .block p 0x700 → view ≤ blockLevel p → exec (.registerWrite view off v) s
          = .next (s.setPart p { s.part p with mb := { (s.part p).mb with ctl := v, sta := 1 } })))
    ∧ (∀ (view off : Nat) (w : Word) (box : Option Nat), ready s = true →
      ((spotOf view off = .owner 0x700 ∧ box = none) ∨ ∃ p, spotOf view off = .block p 0x700 ∧ box = some p) →
      (mailbox s box).sta.extractLsb' 0 2 = 1#2 → (mailbox s box).ctl = w →
      let v := w.extractLsb' 0 12
      let req := (List.range v.toNat).map (fun i => (mailbox s box).buf.read i)
      let code := (req.getD 1 0).toNat
      let m : Mailbox := mailbox s box
      let resp (r : List Byte) : State := setMailbox s box (m.answer r)
      let answer (signed : Bool) : State :=
        let r := Config.spdmResponse (box.getD 0) m.past req (measBlocks s box) signed
        if Config.spdmBad m.past req then spdmAlarm (resp r) box
        else setMailbox s box (({ m with past := if code = 0x84 then [code] else m.after code } : Mailbox).answer r)
      let error : State := resp [0x14, 0x7F, 0x07, BitVec.ofNat 8 code]
      let gives (i : Nat → Nat → Word → Instr) (t : State) : Prop := exec (i view off w) s = .next t
      (∀ r : List Byte, r.length < 4096 → (mailbox (resp r) box).sta = BitVec.ofNat 64 (2 + r.length * 2 ^ 16)
        ∧ (mailbox (resp r) box).ctl = m.ctl ∧ ∀ i, i < r.length → (mailbox (resp r) box).buf.read i = r.getD i 0)
      ∧ (4 ≤ v.toNat →
          (∀ c i, (c, i) ∈ [(0x84, Instr.getVersion), (0xE1, .getCapabilities), (0xE3, .negotiateAlgorithms), (0x82, .getCertificate)] →
            code = c → gives i (answer false))
          ∧ (code = 0x83 → gives .challenge (if maySign s box then answer true else error))
          ∧ (code = 0xE0 → (req.getD 2 0).getLsbD 0 = false → gives .getMeasurements (answer false))
          ∧ (code = 0xE0 → (req.getD 2 0).getLsbD 0 = true → gives .getMeasurements (if maySign s box then answer true else error))
          ∧ (code ∉ [0x84, 0xE1, 0xE3, 0x82, 0x83, 0xE0] → gives .spdmUnsupportedRequest error))
      ∧ (v.toNat < 4 → ∃ t, gives .spdmUnsupportedRequest t ∧ t.mem = s.mem
          ∧ (Tbl.get 0 t.pkg.asrc 4).fld 32 32 = min (2 ^ 32 - 1) ((Tbl.get 0 s.pkg.asrc 4).fld 32 32 + 1)))
    ∧ (∀ k dir, k < 160 → dir < 2 → flitsMove s k = true →
        let m := seamMod s k
        let d := m.dir dir
        let o := m.dir (1 - dir)
        let count (a b : Word) : Prop := b.fld 32 16 = min (a.fld 32 16 + 1) 65535 ∧ b.extractLsb' 48 16 = a.extractLsb' 48 16
          ∧ b.extractLsb' 0 32 = a.extractLsb' 0 32
        let takes (toks : List FTok) (a b : LinkDir) (w : Word) : Prop :=
          ∃ m', exec (.seamFlitReceive k dir true 0) s = .next (landTokens (setSeamMod s k m') toks) ∧ m'.dir dir = a ∧ m'.mstat = w
            ∧ { m'.dir (1 - dir) with used := o.used, ret := o.ret } = b
        (∀ f r, d.wire = f :: r → f.nak = false → (f.ack = none →
            (f.seq = d.e → takes f.toks { d with wire := r, e := (d.e + 1) % 256, nak := false, heard := true } o m.mstat)
            ∧ (f.seq ≠ d.e → takes [] { d with wire := r } o m.mstat))
          ∧ (∀ x g y, f.ack = some g.seq → o.replay = x ++ g :: y → (∀ h ∈ x, h.seq ≠ g.seq) → f.seq ≠ d.e →
              takes [] { d with wire := r } { o with replay := y, acked := s.fc } m.mstat))
        ∧ (∀ f r, d.wire = f :: r → f.nak = true → f.ack = none → f.seq ≠ d.e → o.replay ≠ [] →
            ∃ w b, takes [] { d with wire := r } b w ∧ count m.mstat w ∧ b.replay = o.replay
              ∧ b.wire.map (fun g => (g.seq, g.toks)) = (o.wire ++ o.replay).map (fun g => (g.seq, g.toks)))
        ∧ (d.wire = [] → d.replay.length < 128 → d.out.length ≤ 38 → d.next = d.e → o.heard = false → o.nakDue = false →
            ∃ f a, takes d.out a o m.mstat ∧ f.seq = d.next ∧ f.toks = d.out ∧ a.out = [] ∧ a.wire = [] ∧ a.replay = d.replay ++ [f]
              ∧ a.next = (d.next + 1) % 256 ∧ a.e = (d.e + 1) % 256)
        ∧ (∀ f r, d.wire = f :: r → carrier s k = some k →
            ∃ t, exec (.seamFlitReceive k dir false 0) s = .next t ∧ t = { s with fab := t.fab } ∧ (seamMod t k).dir (1 - dir) = o
              ∧ (seamMod t k).dir dir = { d with wire := r, nak := true, nakDue := d.nakDue || !d.nak }
              ∧ (seamMod t k).mstat.fld 48 16 = min (m.mstat.fld 48 16 + 1) 65535
              ∧ (seamMod t k).mstat.extractLsb' 0 48 = m.mstat.extractLsb' 0 48)
        ∧ (∀ f r bad, d.wire = f :: r → carrier s k = some k → bad ≠ 0 →
            ∃ t, exec (.seamFlitReceive k dir false bad) s = .next t ∧ (seamMod t k).bad = m.bad ||| bad ∧ t.mem = s.mem
              ∧ (Config.laneRepair (m.bad ||| bad) = true → (seamMod t k).retrain = m.retrain)
              ∧ (Config.laneRepair (m.bad ||| bad) = false → widthOf (m.bad ||| bad) ≠ 3 →
                  (seamMod t k).retrain = some s.fc ∧ (seamMod t k).d0.wire = [] ∧ (seamMod t k).d1.wire = [])
              ∧ (Config.laneRepair (m.bad ||| bad) = false → widthOf (m.bad ||| bad) = 3 → (seamMod t k).width = 3))
        ∧ (d.replay ≠ [] → d.acked + 512 ≤ s.fc →
            ∃ w x, exec (.seamReplayTimeout k dir) s = .next (setSeamMod s k { m.setDir dir x with mstat := w }) ∧ count m.mstat w
              ∧ x.replay = d.replay ∧ x.acked = s.fc
              ∧ x.wire.map (fun g => (g.seq, g.toks)) = (d.wire ++ d.replay).map (fun g => (g.seq, g.toks))))
    ∧ (∀ k t0 bad, k < 160 → (seamMod s k).retrain = some t0 → t0 + 2100 ≤ s.fc →
        let m := seamMod s k
        let takes (b : BitVec 64) : Prop := ∃ t, exec (.seamRetrainEnd k bad) s = .next t ∧ (seamMod t k).retrain = none
          ∧ (seamMod t k).bad = b ∧ (seamMod t k).width = widthOf b ∧ (seamMod t k).fails = 0 ∧ t.mem = s.mem
        (m.full = true → takes bad)
        ∧ (m.full = false → bad &&& ~~~m.bad = 0 → takes (m.bad ||| bad))
        ∧ (m.full = false → bad &&& ~~~m.bad ≠ 0 → m.fails < 7 → widthOf (m.bad ||| bad) ≠ 3 →
            ∃ t, exec (.seamRetrainEnd k bad) s = .next t ∧ t = { s with fab := t.fab } ∧ (seamMod t k).retrain = some s.fc
              ∧ (seamMod t k).fails = m.fails + 1 ∧ (seamMod t k).bad = m.bad ||| bad))
    ∧ (∀ k dir, k < 36 → dir < 2 → (gport s k).st = 2 →
        let g := gport s k
        let d := g.dir dir
        let o := g.dir (1 - dir)
        (∀ f r, d.wire = f :: r → f.nak = false → f.ack = none →
          (f.seq = d.e → ∃ y, (y.dir dir).e = (d.e + 1) % 4096 ∧ (y.dir dir).wire = r ∧ y.gstat = g.gstat
            ∧ (y.dir (1 - dir)).replay = o.replay
            ∧ (dir = 0 → exec (.goriskFlitReceive k 0 true) s = .next (setGport s k y))
            ∧ ∀ x v, dir = 1 → f.toks = [x] → firstReply s x.tile = some v →
                exec (.goriskFlitReceive k 1 true) s = .next (endRemote (setGport s k y) x.tile v))
          ∧ (f.seq ≠ d.e → ∃ y, exec (.goriskFlitReceive k dir true) s = .next (setGport s k y) ∧ y.gstat = g.gstat
              ∧ y.dir dir = { d with wire := r } ∧ y.dir (1 - dir) = o))
        ∧ (∀ f r, d.wire = f :: r → ∃ y, exec (.goriskFlitReceive k dir false) s = .next (setGport s k y)
              ∧ y.dir dir = { d with wire := r, nak := true, nakDue := d.nakDue || !d.nak } ∧ y.dir (1 - dir) = o
              ∧ y.gstat.fld 48 16 = min (g.gstat.fld 48 16 + 1) 65535 ∧ y.gstat.extractLsb' 0 48 = g.gstat.extractLsb' 0 48)
        ∧ (d.replay ≠ [] → d.acked + 512 ≤ s.fc →
            ∃ w x, exec (.goriskReplayTimeout k dir) s = .next (setGport s k { g.setDir dir x with gstat := w })
              ∧ w.fld 32 16 = min (g.gstat.fld 32 16 + 1) 65535 ∧ w.extractLsb' 0 32 = g.gstat.extractLsb' 0 32
              ∧ x.replay = d.replay ∧ x.acked = s.fc
              ∧ x.wire.map (fun h => (h.seq, h.toks)) = (d.wire ++ d.replay).map (fun h => (h.seq, h.toks))))
    ∧ (∀ k lanes, k < 36 →
        let g := gport s k
        (lanes ∈ [1, 2, 4] → (g.st = 1 ∨ (g.st = 2 ∧ lanes = g.lanes / 2)) →
          ∃ w, exec (.goriskPortTrainingDone k lanes) s = .next (setGport s k { g with gstat := w }) ∧ w.fld 6 2 = 2 ∧ w.fld 8 3 = lanes
            ∧ w.extractLsb' 0 6 = g.gstat.extractLsb' 0 6 ∧ w.extractLsb' 11 53 = g.gstat.extractLsb' 11 53)
        ∧ (g.st = 1 → ∃ t, exec (.goriskPortTrainingDone k 0) s = .next t ∧ (gport t k).st = 0 ∧ t.mem = s.mem))
    ∧ (∀ n q, s.fab.greqs.find? (fun x => x.txn == n) = some q →
        (n < 2 ^ 16 → (gport s q.port).st = 2 → (∀ x ∈ (gport s q.port).d0.undelivered, x.cls = 1 → x.tile ≠ n) →
          ∃ t, exec (.goriskRemoteRequest n) s = .next t ∧ t = { s with fab := t.fab }
            ∧ keptReply t.fab.gseen q.pkg n = some ((keptReply s.fab.gseen q.pkg n).getD (Config.remoteReply q.pkg q.rpa n q.op))
            ∧ (gport t q.port).d1.out = (gport s q.port).d1.out ++ [{ tile := n, cls := 2 }])
        ∧ (q.sent + 2 ^ 21 ≤ s.fc → exec (.goriskRequestTimeout n) s = .next (endRemote s n (.trap 0x06))
            ∧ ∀ x ∈ (endRemote s n (.trap 0x06)).fab.greqs, x.txn ≠ n))
    ∧ (∀ n q r, s.fab.gin = q :: r → 2 ^ 16 ≤ n → ready s = true → migrates s q.pa = false → q.pa < 2 ^ 39 →
        let served (t : State) (a : AccRes) : Prop := exec (.goriskRemoteRequest n) s = .next t ∧ t.fab.gin = r
          ∧ keptReply t.fab.gdone q.src q.txn = some a ∧ (gport t q.port).d0.out = (gport s q.port).d0.out ++ [{ tile := q.txn, cls := 2 }]
        (∀ a, keptReply s.fab.gdone q.src q.txn = some a → ∃ t, served t a ∧ t.mem = s.mem)
        ∧ (keptReply s.fab.gdone q.src q.txn = none →
            (admits (frameTag s q.pa) q.tag = true →
              (∀ d w sg, q.op = .load d w sg → ∃ t, served t (.val (BitVec.ofNat 64 (s.mem.readN q.pa w))) ∧ t.mem = s.mem)
              ∧ (∀ w v, q.op = .store w v → ∃ t, served t (.val 0) ∧ t.mem.readN q.pa w = v.toNat % 2 ^ (8 * w)
                  ∧ ∀ a, a < q.pa ∨ q.pa + w ≤ a → t.mem.read a = s.mem.read a))
            ∧ (admits (frameTag s q.pa) q.tag = false → ∃ t, served t (.trap 0x08) ∧ t.mem = s.mem
                ∧ (Tbl.get 0 t.pkg.asrc 1).fld 32 32 = min (2 ^ 32 - 1) ((Tbl.get 0 s.pkg.asrc 1).fld 32 32 + 1))))
    ∧ (ready s = true →
        let imax := (s.fab.dcfg.extractLsb' 0 12).toNat
        let spent := ((List.range 8).map (fun d => (dieDamp s d).spent)).foldl (· + ·) 0
        (s.fc % 2100 = 0 → 10 * spent ≤ 22 * imax → ∃ t, exec .damperPeriod s = .next t ∧ t = { s with fab := t.fab, freeN := s.freeN + 8 }
          ∧ t.fab.amps = spent / 2 ∧ t.fab.tenths = 0
          ∧ ∀ d, d < 8 → ∃ gr, dieDamp t d = { dieDamp s d with demand := dieDemand s d, grant := gr, spent := 0, tick := 0, slowed := (dieDamp s d).level != 0 }
              ∧ ((∀ j, j < 8 → dieDemand s j ≤ 2 * imax / 8) → gr = dieDemand s d))
        ∧ ∀ d, d < 8 →
          let x := dieDamp s d
          let j := x.tick + 1
          let level (n : Nat) : Prop := exec (.damperTick d) s = .next (setDieDamp s d { x with tick := j, level := n, slowed := x.slowed || n != 0 })
          x.tick < 10 → s.fc % 2100 = 210 * j % 2100 →
          (2 * x.grant * j + x.grant < 20 * x.spent → level (min 4 (x.level + 1)))
          ∧ (20 * x.spent + x.grant < 2 * x.grant * j → level (x.level - 1))
          ∧ (20 * x.spent ≤ 2 * x.grant * j + x.grant → 2 * x.grant * j ≤ 20 * x.spent + x.grant → level x.level))
    ∧ (s.fc % 21000 = 0 → ∃ t, exec .budgetPeriod s = .next t ∧ t = { s with leases := t.leases }
        ∧ ∀ l, t.lease l = { s.lease l with limit := (s.lease l).budget, used := 0, localUse := [] })
    ∧ (∀ d, s.fc % 2100 = 0 → ∃ t, exec (.budgetReport d) s = .next t ∧ t = { s with leases := t.leases }
        ∧ ∀ l, t.lease l = { s.lease l with used := (t.lease l).used, localUse := Tbl.set 0 (s.lease l).localUse d 0 }
          ∧ ∀ h, h ∈ [0, 32] → (t.lease l).used.fld h 32 =
              min ((s.lease l).used.fld h 32 + (Tbl.get (0 : Word) (s.lease l).localUse d).fld h 32) (2 ^ 32 - 1))
    ∧ (∃ t, exec .packageReset s = .next t ∧ t.mem = s.mem
        ∧ t = { State.reset with agenda := s.agenda, fc := s.fc, ordn := s.ordn, freeN := s.freeN, mem := s.mem, host := s.host, pkg := t.pkg }
        ∧ t.pkg = { State.reset.pkg with stage := t.pkg.stage, state := t.pkg.state, meas := t.pkg.meas }
        ∧ ((∀ n, n < 15 → Config.bootSigned n = true) → t.pkg.state = 1 ∧ t.pkg.stage = 12)
        ∧ (Config.bootSigned 0 = false → t.pkg.state = 0 ∧ t.pkg.stage = 1))
    ∧ (∀ n i, (n, i) ∈ [(5, Instr.clockGlitch), (6, .supplyGlitch), (7, .tamperMesh)] →
        ∃ t, exec i s = .next t ∧ Halted t ∧ t.pkg.keys = false ∧ (∀ p, (t.part p).key = false) ∧ t.mem = s.mem
          ∧ (Tbl.get 0 t.pkg.asrc n).fld 32 32 = min (2 ^ 32 - 1) ((Tbl.get 0 s.pkg.asrc n).fld 32 32 + 1))
    ∧ (∀ d, d < 8 → exec (.thermalTrip d) s = .next { s with pkg := { s.pkg with state := 2 } })

/-! ### The machine as a whole -/

/-- R48, R117, R161, R163, and log entry 1: a step is the turn of the unit that is due, and that turn runs the instruction which the
words at hand decode to. A stoker runs the word at the pc of the next context of its round robin, or, inside a repeat, the word
behind the prefix with its fields stepped; a word that is no instruction traps with 0x01. A tile runs the word of its firing's lane.
A step with no word of its own is what the agenda names. The word behind a
prefix is the one that the prefix fetched and checked. What a step adds around exec is `finish`, which keeps a fault and ends a
next state with `settle`: outside a halted package the damper's charge for the act, and the waits of command queues. -/
def Obligations.StepRunsTheInstruction : Prop :=
  ∀ (s u : State) (w : What), dueAct s = (w, u) → u.pkg.state ≠ 2 →
    (∀ st transit k, w = .issue st transit → pickCtx u st = some k → (u.ctx k).asyncDue = false →
      let c := u.ctx k
      let u1 := u.setStoker st { u.stoker st with last := k % 8 }
      let runs (x : State) (word : Code) : Prop :=
        let y : State := { x with cur := { ctx := k, tile := x.cur.tile, word, transit } }
        (∀ i, decodeControl word = .ok i → step s = finish w y (exec i y))
        ∧ (∀ e, decodeControl word = .error e → step s = .next (settle w u (raiseIll y)))
      (c.repOn = false →
        (∀ u2 word, fetchWord u1 k c.pc.toNat = .ok (u2, word) → runs u2 word)
        ∧ (∀ code, fetchWord u1 k c.pc.toNat = .error code → step s = .next (settle w u (fetchFault u1 k code c.pc.toNat))))
      ∧ (∀ word, c.repOn = true → c.repW = some word → runs u1 (repWord word c.repstate)))
    ∧ (∀ (st : Nat) (x : State) k va u2 word, (x.ctx k).fbuf = [] → memWord x k va = .ok (u2, word) → st = ctxStoker k →
        ∃ y, fetchWord x k va = .ok (u2.modCtx k (fun c => { c with fbuf := y }), word))
    ∧ (∀ k i, w = .lane k → laneMay u k = true →
        let u1 : State := { u with cur := { u.cur with tile := k } }
        let f := firingOf u1
        let word := (u.tile k).op f.step f.lane
        let u2 : State := { u1 with cur := { u1.cur with word } }
        (u.tile k).atWord1 f = false → isNodeWord word = false → decodeElement word = .ok i → step s = finish w u2 (exec i u2))
    ∧ (∀ i, w = .event i → encode i = [] → step s = finish w u (exec i u))
    ∧ (∀ p a b u1, w = .cmd p → cmdTurn u p = (u1, some (a, b)) → step s = finish w u1 (runPacket u1 a b))
    ∧ (∀ x o, (∀ t, finish w x o = .next t → ∃ y, o = .next y ∧ t = settle w x y) ∧ (∀ y, o = .next y → finish w x o = .next (settle w x y)))
    ∧ (∀ x y st transit, (y : State).pkg.state ≠ 2 → settle (.issue st transit) x y = noteWaits (noteLate (chargeHits y)))

/-- R440 to R442: a halted package stays halted until a package reset. Each step then only lets time pass: no register, no byte of
memory and no other state changes, for as many steps as the agenda names acts other than a reset, and every management register
but pkgstat reads zero. That the package reset keeps HBM's contents, and the model's own agenda, is the model's choice (log entries 4
and 23). -/
def Obligations.HaltedStays : Prop :=
  ∀ s : State, Halted s →
    ((dueAct s).1 ≠ .event .packageReset → step s = .next (dueAct s).2 ∧ Halted (dueAct s).2)
    ∧ (∀ n, n ≤ s.agenda.length → (∀ a ∈ s.agenda.take n, a.what ≠ .event .packageReset) →
        stateAfter n s = some { s with agenda := s.agenda.drop n, ordn := s.ordn + n, fc := ((s.agenda.take n).map (fun a => a.dt)).foldl (· + ·) s.fc })
    ∧ (∀ view off, readSpot view off ≠ .owner 0 → mgmtRead s view off = 0)
    ∧ ∀ dt rest, s.agenda = { dt, what := .event .packageReset } :: rest →
        ∃ t, step s = .next t ∧ t.mem = s.mem ∧ t.agenda = rest ∧ ((∀ n, n < 15 → Config.bootSigned n = true) → ready t = true)

/-- R23, R25, R380, R406, R420, R422, R426, R436, R437, R442: the values that the spec gives for reset. The rails are up and no boot
stage has run; every partition, rights, host range, queue and mailbox register is 0; every frame has the tag 0xFFFF; the damper's
budget is 3,400 A; no circuit is set up; memory lists nothing and is canonical. The model's choices among these: unlisted bytes read 0
(log entry 4); a context begins FREE, with its registers 0 (log entry 2); a tile begins with its bank, operation store and registers
empty (log entry 3). -/
def Obligations.ResetState : Prop :=
  let s := State.reset
  s.pkg.state = 0 ∧ s.pkg.stage = 0 ∧ mgmtRead s 0 0 = 0 ∧ s.mem = [] ∧ s.host = [] ∧ Canonical s
  ∧ (∀ f, Tbl.get 0xFFFF s.tags f = 0xFFFF) ∧ s.fab.dcfg = 3400 ∧ (∀ e, Tbl.get (0 : Word) s.fab.conn e = 0)
  ∧ (∀ m, (seamMod s m).mstat = 0) ∧ (∀ i, (gport s i).st = 0)
  ∧ (∀ p o, blockRead s p o = 0) ∧ (∀ p, s.pkg.asrc = [] ∧ asrcWord s p = BitVec.ofNat 64 (alarmDefault p))
  ∧ (∀ i, 8 ≤ i → Tbl.get (0 : BitVec 256) s.pkg.meas i = 0)
  ∧ (∀ k, (s.ctx k).st = .free ∧ (∀ r, (s.ctx k).rg r = 0 ∧ (s.ctx k).rf r = 0) ∧ ∀ x, x ∈ [Csr.status, .cause, .epc, .tvec, .tval, .tvalh,
      .fcr, .repstate, .tsfloor, .evhead, .evtail, .scratch] → (s.ctx k).csr 0 x = 0)
  ∧ ∀ k, (s.tile k).lease = none ∧ (s.tile k).bank = [] ∧ (s.tile k).ops = []
end

