-- ==== Sys2Proof/Laws/Access.lean ====
section
/-! SUPPORT. What a read of memory by a unit of the package answers when its translation and its page allow it (log entry 17). -/

namespace Sys2Proof.Machine

/-- R330: where no line has a version beside its base, a read gives the bytes of memory. -/
theorem readAs_plain {s : State} (h : s.lines = []) (w : Option Who) (pa n : Nat) : readAs s w pa n = s.mem.readN pa n := by
  induction n generalizing pa with
  | zero => rfl
  | succ n ih => simp [readAs, Memory.readN, ih, readByteAs, lineRec, h, Tbl.get]

/-- R116: a unit's read whose page is found, allows it and is no system window answers what stands at its line. -/
theorem agentRead_ok {tr : State → Nat → Except Nat (State × TlbEnt)} {s s1 : State} {w : Who} {va pa n : Nat} {sys : Bool} {e : TlbEnt}
    (t : tr s va = .ok (s1, e)) (c : pageCheck s1 w va e { r := true, noSys := !sys } = .ok pa) (h : e.attr.sysw = false) (f : agentWaits s1 w pa e.attr = false) :
    agentRead tr s w va n sys = .ok { st := s1, val := loadAt s1 w va pa e.attr n, pa, n, phased := isPhased s1 w va e.attr
                                      cached := !e.attr.ms, sys := false } := by
  simp [agentRead, t, c, h, f]

/-- As agentRead_ok, for a command processor's read of a word on a page that is not phased. -/
theorem procRead_ok {s : State} {p q va pa : Nat} {e : TlbEnt} (t : translate s p 0 va = .ok e)
    (c : pageCheck s (procWho p q) va e { r := true, noSys := true } = .ok pa) (h : e.attr.sysw = false)
    (f : agentWaits s (procWho p q) pa e.attr = false)
    (i : isPhased s (procWho p q) va e.attr = false) : procRead s p q va = .ok (s.mem.word pa) := by
  have t' : procTr p s va = .ok (s, e) := by simp [procTr, t, Except.map]
  simp [procRead, agentRead_ok (sys := false) t' c h f, loadAt, i, Except.map, Memory.word]

/-- R314: an address that the reseller's walk and then the owner's bring on. -/
theorem caToPa_ok {s : State} {p ca : Nat} {w v : Walked} (h : resellerWalk s p ca = .ok w) (g : ownerWalk s p w.out = .ok v) :
    caToPa s p ca = .ok v.out := by
  simp [caToPa, h, g, Except.map]

/-- R430: the word of a PRED, a WAIT or a SIGNAL on a page that allows it. -/
theorem procWord_ok {s : State} {p q va pa : Nat} {e : TlbEnt} {n : Need} (t : translate s p 0 va = .ok e)
    (c : pageCheck s (procWho p q) va e { n with ms := true } = .ok pa) (h : e.attr.sysw = false) (f : frameHeld s pa = false) :
    procWord s p q va n = .ok pa := by
  simp [procWord, t, c, h, f]

/-- R346: the image of a launch is what its records give. -/
theorem launchImage_of {s : State} {p q va : Nat} {r : Image}
    (h : rdImage (fun off => (procRead s p q ((va + off) % 2 ^ 80)).toOption) va = .ok r) : launchImage s p q va = .ok r := by
  rw [launchImage, h]

/-- R83: an image with an offending byte that can be read. -/
theorem launchImage_bad {s : State} {p q va off : Nat} {v : Word}
    (h : rdImage (fun off => (procRead s p q ((va + off) % 2 ^ 80)).toOption) va = .error off)
    (g : procRead s p q ((va + off / 8 * 8) % 2 ^ 80) = .ok v) : launchImage s p q va = .error (0x19, off) := by
  simp only [launchImage, h, g]

end Sys2Proof.Machine
end

