-- ==== Sys2Proof/Laws/Bits.lean ====
section
/-! SUPPORT. Bit fields: the fields that the model reads are the fields that statements name. -/

namespace Sys2Proof.Machine

/-- A field as a number is the field as bits. -/
theorem extract_toNat {k : Nat} (w : BitVec k) (lo n : Nat) : (w.extractLsb' lo n).toNat = w.fld lo n := by
  simp [BitVec.extractLsb'_toNat, BitVec.fld, bits, Nat.shiftRight_eq_div_pow]

/-- A field is a number below 2^n exactly where it is those bits. -/
theorem extract_eq_iff {k : Nat} (w : BitVec k) (lo n v : Nat) (h : v < 2 ^ n) : w.extractLsb' lo n = BitVec.ofNat n v ↔ w.fld lo n = v := by
  rw [← extract_toNat, ← BitVec.toNat_inj, BitVec.toNat_ofNat, Nat.mod_eq_of_lt h]

/-- A field of one bit. -/
theorem fld_one {k : Nat} (w : BitVec k) (n : Nat) : (w.fld n 1 = 1) ↔ w.getLsbD n = true := by
  simp [BitVec.fld, bits, BitVec.getLsbD, Nat.testBit, Nat.shiftRight_eq_div_pow, Nat.one_and_eq_mod_two]

/-- A field is below its range. -/
theorem fld_lt {k : Nat} (w : BitVec k) (lo n : Nat) : w.fld lo n < 2 ^ n := Nat.mod_lt _ (Nat.two_pow_pos n)

end Sys2Proof.Machine
end

