-- ==== Sys2Proof/Laws/State.lean ====
section
/-! SUPPORT. Small laws of the state: sparse tables read back what was written, the canonical form is kept, and what each named
update of the state leaves. -/

namespace Sys2Proof.Machine

/-! ### Sparse tables -/

section Tables
variable {α : Type}

theorem Tbl.get_erase_self (d : α) (t : Tbl α) (k : Nat) : Tbl.get d (Tbl.erase t k) k = d := by
  induction t with
  | nil => rfl
  | cons e r ih =>
    unfold Tbl.erase at ih ⊢
    by_cases h : e.1 = k
    · rw [List.filter_cons_of_neg (by simp [h])]; exact ih
    · rw [List.filter_cons_of_pos (by simp [h])]; simp only [Tbl.get, h, if_false]; exact ih

theorem Tbl.get_erase_ne (d : α) (t : Tbl α) {j k : Nat} (n : j ≠ k) : Tbl.get d (Tbl.erase t k) j = Tbl.get d t j := by
  induction t with
  | nil => rfl
  | cons e r ih =>
    unfold Tbl.erase at ih ⊢
    by_cases h : e.1 = k
    · rw [List.filter_cons_of_neg (by simp [h])]
      have : ¬ e.1 = j := fun q => n (q.symm.trans h)
      simp only [Tbl.get, this, if_false]; exact ih
    · rw [List.filter_cons_of_pos (by simp [h])]; simp only [Tbl.get]; split
      · rfl
      · exact ih

theorem Tbl.get_ins_self (d : α) (t : Tbl α) (k : Nat) (v : α) (h : ∀ e ∈ t, e.1 ≠ k) : Tbl.get d (Tbl.ins t k v) k = v := by
  induction t with
  | nil => simp [Tbl.ins, Tbl.get]
  | cons e r ih =>
    simp only [Tbl.ins]
    split
    · simp [Tbl.get]
    · have h1 := h e (List.mem_cons_self ..)
      simp only [Tbl.get, h1, if_false]
      exact ih (fun x hx => h x (List.mem_cons_of_mem _ hx))

theorem Tbl.get_ins_ne (d : α) (t : Tbl α) {j k : Nat} (v : α) (n : j ≠ k) : Tbl.get d (Tbl.ins t k v) j = Tbl.get d t j := by
  induction t with
  | nil => simp [Tbl.ins, Tbl.get, Ne.symm n]
  | cons e r ih =>
    simp only [Tbl.ins]
    split
    · simp [Tbl.get, Ne.symm n]
    · simp only [Tbl.get]; split
      · rfl
      · exact ih

theorem Tbl.not_mem_erase (t : Tbl α) (k : Nat) : ∀ e ∈ Tbl.erase t k, e.1 ≠ k := by
  intro e he
  simpa [Tbl.erase] using (List.mem_filter.mp he).2

/-- A key reads back what was written at it. -/
@[simp] theorem Tbl.get_set_self [DecidableEq α] (d : α) (t : Tbl α) (k : Nat) (v : α) : Tbl.get d (Tbl.set d t k v) k = v := by
  unfold Tbl.set
  split
  · next h => rw [Tbl.get_erase_self, h]
  · exact Tbl.get_ins_self d _ k v (Tbl.not_mem_erase t k)

/-- A write leaves every other key. -/
theorem Tbl.get_set_ne [DecidableEq α] (d : α) (t : Tbl α) {j k : Nat} (v : α) (n : j ≠ k) :
    Tbl.get d (Tbl.set d t k v) j = Tbl.get d t j := by
  unfold Tbl.set
  split
  · exact Tbl.get_erase_ne d t n
  · rw [Tbl.get_ins_ne d _ v n, Tbl.get_erase_ne d t n]

theorem Tbl.sorted_erase (t : Tbl α) (k : Nat) (h : Tbl.sorted t = true) : Tbl.sorted (Tbl.erase t k) = true := by
  induction t with
  | nil => rfl
  | cons e r ih =>
    simp only [Tbl.sorted, Bool.and_eq_true, List.all_eq_true, decide_eq_true_eq] at h
    unfold Tbl.erase at ih ⊢
    by_cases q : e.1 = k
    · rw [List.filter_cons_of_neg (by simp [q])]; exact ih h.2
    · rw [List.filter_cons_of_pos (by simp [q])]
      simp only [Tbl.sorted, Bool.and_eq_true, List.all_eq_true, decide_eq_true_eq]
      exact ⟨fun x hx => h.1 x (List.mem_filter.mp hx).1, ih h.2⟩

theorem Tbl.mem_ins (t : Tbl α) (k : Nat) (v : α) (e : Nat × α) (h : e ∈ Tbl.ins t k v) : e = (k, v) ∨ e ∈ t := by
  induction t with
  | nil => simpa [Tbl.ins] using h
  | cons a r ih =>
    simp only [Tbl.ins] at h
    split at h
    · rcases List.mem_cons.mp h with h | h
      · exact .inl h
      · exact .inr h
    · rcases List.mem_cons.mp h with h | h
      · exact .inr (by rw [h]; exact List.mem_cons_self ..)
      · rcases ih h with h | h
        · exact .inl h
        · exact .inr (List.mem_cons_of_mem _ h)

theorem Tbl.sorted_ins (t : Tbl α) (k : Nat) (v : α) (h : Tbl.sorted t = true) (n : ∀ e ∈ t, e.1 ≠ k) :
    Tbl.sorted (Tbl.ins t k v) = true := by
  induction t with
  | nil => rfl
  | cons e r ih =>
    have h' := h
    simp only [Tbl.sorted, Bool.and_eq_true, List.all_eq_true, decide_eq_true_eq] at h
    simp only [Tbl.ins]
    split
    · next q =>
      simp only [Tbl.sorted, Bool.and_eq_true, List.all_eq_true, decide_eq_true_eq]
      refine ⟨fun x hx => ?_, h⟩
      rcases List.mem_cons.mp hx with hx | hx
      · rw [hx]; exact q
      · exact Nat.lt_trans q (h.1 x hx)
    · next q =>
      have ne := n e (List.mem_cons_self ..)
      simp only [Tbl.sorted, Bool.and_eq_true, List.all_eq_true, decide_eq_true_eq]
      refine ⟨fun x hx => ?_, ih h.2 (fun x hx => n x (List.mem_cons_of_mem _ hx))⟩
      rcases Tbl.mem_ins r k v x hx with hx | hx
      · rw [hx]
        have : ¬ k < e.1 := q
        show e.1 < k
        omega
      · exact h.1 x hx

/-- A write keeps the canonical form. -/
theorem Tbl.wf_set [DecidableEq α] (d : α) (t : Tbl α) (k : Nat) (v : α) (h : Tbl.wf d t = true) :
    Tbl.wf d (Tbl.set d t k v) = true := by
  simp only [Tbl.wf, Bool.and_eq_true, List.all_eq_true, decide_eq_true_eq] at h ⊢
  unfold Tbl.set
  split
  · exact ⟨Tbl.sorted_erase t k h.1, fun e he => h.2 e (List.mem_filter.mp he).1⟩
  · next q =>
    refine ⟨Tbl.sorted_ins _ k v (Tbl.sorted_erase t k h.1) (Tbl.not_mem_erase t k), fun e he => ?_⟩
    rcases Tbl.mem_ins _ k v e he with he | he
    · rw [he]; exact q
    · exact h.2 e (List.mem_filter.mp he).1

end Tables

/-! ### Memory -/

/-- A byte reads back what was written. -/
@[simp] theorem Memory.read_write_self (m : Memory) (a : Nat) (b : Byte) : (m.write a b).read a = b :=
  Tbl.get_set_self 0 m a b

/-- A write leaves every other byte. -/
theorem Memory.read_write_ne (m : Memory) {a c : Nat} (b : Byte) (n : c ≠ a) : (m.write a b).read c = m.read c :=
  Tbl.get_set_ne 0 m b n

theorem Memory.wf_write (m : Memory) (a : Nat) (b : Byte) (h : m.wf = true) : (m.write a b).wf = true := Tbl.wf_set 0 m a b h

/-- A write of n bytes leaves every byte outside them. -/
theorem Memory.read_writeN_out (n : Nat) : ∀ (m : Memory) (a v c : Nat), (c < a ∨ a + n ≤ c) → (m.writeN a n v).read c = m.read c := by
  induction n with
  | zero => intros; rfl
  | succ n ih =>
    intro m a v c h
    rw [Memory.writeN, ih _ _ _ _ (by omega), Memory.read_write_ne _ _ (by omega)]

/-- A write of n bytes keeps the canonical form. -/
theorem Memory.wf_writeN (n : Nat) : ∀ (m : Memory) (a v : Nat), m.wf = true → (m.writeN a n v).wf = true := by
  induction n with
  | zero => intros; assumption
  | succ n ih => intro m a v h; exact ih _ _ _ (Memory.wf_write m a _ h)

theorem Memory.wf_setWord (m : Memory) (a : Nat) (w : Word) (h : m.wf = true) : (m.setWord a w).wf = true :=
  Memory.wf_writeN 8 m a _ h

theorem Memory.wf_setWords (ws : List Word) : ∀ (m : Memory) (a : Nat), m.wf = true → (m.setWords a ws).wf = true := by
  induction ws with
  | nil => intros; assumption
  | cons w r ih => intro m a h; exact ih _ _ (Memory.wf_setWord m a w h)

theorem Memory.readN_write_out (n : Nat) : ∀ (m : Memory) (a c : Nat) (b : Byte), c < a → (m.write c b).readN a n = m.readN a n := by
  induction n with
  | zero => intros; rfl
  | succ n ih =>
    intro m a c b h
    rw [Memory.readN, Memory.readN, ih _ _ _ _ (by omega), Memory.read_write_ne _ _ (by omega)]

theorem Memory.readN_writeN_out (n : Nat) : ∀ (k : Nat) (m : Memory) (a c v : Nat), c + k ≤ a →
    (m.writeN c k v).readN a n = m.readN a n := by
  intro k
  induction k with
  | zero => intros; rfl
  | succ k ih =>
    intro m a c v h
    rw [Memory.writeN, ih _ _ _ _ (by omega), Memory.readN_write_out _ _ _ _ _ (by omega)]

/-- n bytes read back the value that was written, modulo 256^n. -/
theorem Memory.readN_writeN (n : Nat) : ∀ (m : Memory) (a v : Nat), (m.writeN a n v).readN a n = v % 256 ^ n := by
  induction n with
  | zero => intro m a v; simp [Memory.readN, Nat.mod_one]
  | succ n ih =>
    intro m a v
    rw [Memory.writeN, Memory.readN, ih, Memory.read_writeN_out _ _ _ _ _ (by omega), Memory.read_write_self]
    simp only [BitVec.toNat_ofNat]
    rw [show (2 : Nat) ^ 8 = 256 from rfl, Nat.pow_succ, Nat.mul_comm (256 ^ n) 256, Nat.mod_mul]

/-! ### The parts of the state -/

@[simp] theorem State.setCtx_cur (s : State) (k : Nat) (x : Ctx) : (s.setCtx k x).cur = s.cur := rfl
@[simp] theorem State.setCtx_agenda (s : State) (k : Nat) (x : Ctx) : (s.setCtx k x).agenda = s.agenda := rfl
@[simp] theorem State.setCtx_fc (s : State) (k : Nat) (x : Ctx) : (s.setCtx k x).fc = s.fc := rfl
@[simp] theorem State.setCtx_ordn (s : State) (k : Nat) (x : Ctx) : (s.setCtx k x).ordn = s.ordn := rfl
@[simp] theorem State.setCtx_freeN (s : State) (k : Nat) (x : Ctx) : (s.setCtx k x).freeN = s.freeN := rfl
@[simp] theorem State.setCtx_stokers (s : State) (k : Nat) (x : Ctx) : (s.setCtx k x).stokers = s.stokers := rfl
@[simp] theorem State.setCtx_tiles (s : State) (k : Nat) (x : Ctx) : (s.setCtx k x).tiles = s.tiles := rfl
@[simp] theorem State.setCtx_flues (s : State) (k : Nat) (x : Ctx) : (s.setCtx k x).flues = s.flues := rfl
@[simp] theorem State.setCtx_leases (s : State) (k : Nat) (x : Ctx) : (s.setCtx k x).leases = s.leases := rfl
@[simp] theorem State.setCtx_loads (s : State) (k : Nat) (x : Ctx) : (s.setCtx k x).loads = s.loads := rfl
@[simp] theorem State.setCtx_copies (s : State) (k : Nat) (x : Ctx) : (s.setCtx k x).copies = s.copies := rfl
@[simp] theorem State.setCtx_reqs (s : State) (k : Nat) (x : Ctx) : (s.setCtx k x).reqs = s.reqs := rfl
@[simp] theorem State.setCtx_mem (s : State) (k : Nat) (x : Ctx) : (s.setCtx k x).mem = s.mem := rfl
@[simp] theorem State.setCtx_tags (s : State) (k : Nat) (x : Ctx) : (s.setCtx k x).tags = s.tags := rfl
@[simp] theorem State.setCtx_lines (s : State) (k : Nat) (x : Ctx) : (s.setCtx k x).lines = s.lines := rfl
@[simp] theorem State.setCtx_relT (s : State) (k : Nat) (x : Ctx) : (s.setCtx k x).relT = s.relT := rfl
@[simp] theorem State.setCtx_pubs (s : State) (k : Nat) (x : Ctx) : (s.setCtx k x).pubs = s.pubs := rfl
@[simp] theorem State.setCtx_dirty (s : State) (k : Nat) (x : Ctx) : (s.setCtx k x).dirty = s.dirty := rfl
@[simp] theorem State.setCtx_dues (s : State) (k : Nat) (x : Ctx) : (s.setCtx k x).dues = s.dues := rfl
@[simp] theorem State.setCtx_migrs (s : State) (k : Nat) (x : Ctx) : (s.setCtx k x).migrs = s.migrs := rfl
@[simp] theorem State.setCtx_parts (s : State) (k : Nat) (x : Ctx) : (s.setCtx k x).parts = s.parts := rfl
@[simp] theorem State.setCtx_host (s : State) (k : Nat) (x : Ctx) : (s.setCtx k x).host = s.host := rfl
@[simp] theorem State.setCtx_procs (s : State) (k : Nat) (x : Ctx) : (s.setCtx k x).procs = s.procs := rfl
@[simp] theorem State.setCtx_waitL (s : State) (k : Nat) (x : Ctx) : (s.setCtx k x).waitL = s.waitL := rfl
@[simp] theorem State.setCtx_plans (s : State) (k : Nat) (x : Ctx) : (s.setCtx k x).plans = s.plans := rfl
@[simp] theorem State.setCtx_pkg (s : State) (k : Nat) (x : Ctx) : (s.setCtx k x).pkg = s.pkg := rfl
@[simp] theorem State.setCtx_fab (s : State) (k : Nat) (x : Ctx) : (s.setCtx k x).fab = s.fab := rfl
@[simp] theorem State.setCtx_mesh (s : State) (k : Nat) (x : Ctx) : (s.setCtx k x).mesh = s.mesh := rfl
@[simp] theorem State.setCtx_hits (s : State) (k : Nat) (x : Ctx) : (s.setCtx k x).hits = s.hits := rfl
@[simp] theorem State.setCtx_ctx_self (s : State) (k : Nat) (x : Ctx) : (s.setCtx k x).ctx k = x := Tbl.get_set_self ..
theorem State.setCtx_ctx_ne (s : State) {j : Nat} (k : Nat) (x : Ctx) (n : j ≠ k) : (s.setCtx k x).ctx j = s.ctx j :=
  Tbl.get_set_ne _ _ _ n
@[simp] theorem State.setCtx_stoker (s : State) (k : Nat) (x : Ctx) (j : Nat) : (s.setCtx k x).stoker j = s.stoker j := rfl
@[simp] theorem State.setCtx_tile (s : State) (k : Nat) (x : Ctx) (j : Nat) : (s.setCtx k x).tile j = s.tile j := rfl
@[simp] theorem State.setCtx_flue (s : State) (k : Nat) (x : Ctx) (j : Nat) : (s.setCtx k x).flue j = s.flue j := rfl
@[simp] theorem State.setCtx_lease (s : State) (k : Nat) (x : Ctx) (j : Nat) : (s.setCtx k x).lease j = s.lease j := rfl
@[simp] theorem State.setCtx_part (s : State) (k : Nat) (x : Ctx) (j : Nat) : (s.setCtx k x).part j = s.part j := rfl

@[simp] theorem State.setStoker_cur (s : State) (k : Nat) (x : Stoker) : (s.setStoker k x).cur = s.cur := rfl
@[simp] theorem State.setStoker_agenda (s : State) (k : Nat) (x : Stoker) : (s.setStoker k x).agenda = s.agenda := rfl
@[simp] theorem State.setStoker_fc (s : State) (k : Nat) (x : Stoker) : (s.setStoker k x).fc = s.fc := rfl
@[simp] theorem State.setStoker_ordn (s : State) (k : Nat) (x : Stoker) : (s.setStoker k x).ordn = s.ordn := rfl
@[simp] theorem State.setStoker_freeN (s : State) (k : Nat) (x : Stoker) : (s.setStoker k x).freeN = s.freeN := rfl
@[simp] theorem State.setStoker_ctxs (s : State) (k : Nat) (x : Stoker) : (s.setStoker k x).ctxs = s.ctxs := rfl
@[simp] theorem State.setStoker_tiles (s : State) (k : Nat) (x : Stoker) : (s.setStoker k x).tiles = s.tiles := rfl
@[simp] theorem State.setStoker_flues (s : State) (k : Nat) (x : Stoker) : (s.setStoker k x).flues = s.flues := rfl
@[simp] theorem State.setStoker_leases (s : State) (k : Nat) (x : Stoker) : (s.setStoker k x).leases = s.leases := rfl
@[simp] theorem State.setStoker_loads (s : State) (k : Nat) (x : Stoker) : (s.setStoker k x).loads = s.loads := rfl
@[simp] theorem State.setStoker_copies (s : State) (k : Nat) (x : Stoker) : (s.setStoker k x).copies = s.copies := rfl
@[simp] theorem State.setStoker_reqs (s : State) (k : Nat) (x : Stoker) : (s.setStoker k x).reqs = s.reqs := rfl
@[simp] theorem State.setStoker_mem (s : State) (k : Nat) (x : Stoker) : (s.setStoker k x).mem = s.mem := rfl
@[simp] theorem State.setStoker_tags (s : State) (k : Nat) (x : Stoker) : (s.setStoker k x).tags = s.tags := rfl
@[simp] theorem State.setStoker_lines (s : State) (k : Nat) (x : Stoker) : (s.setStoker k x).lines = s.lines := rfl
@[simp] theorem State.setStoker_relT (s : State) (k : Nat) (x : Stoker) : (s.setStoker k x).relT = s.relT := rfl
@[simp] theorem State.setStoker_pubs (s : State) (k : Nat) (x : Stoker) : (s.setStoker k x).pubs = s.pubs := rfl
@[simp] theorem State.setStoker_dirty (s : State) (k : Nat) (x : Stoker) : (s.setStoker k x).dirty = s.dirty := rfl
@[simp] theorem State.setStoker_dues (s : State) (k : Nat) (x : Stoker) : (s.setStoker k x).dues = s.dues := rfl
@[simp] theorem State.setStoker_migrs (s : State) (k : Nat) (x : Stoker) : (s.setStoker k x).migrs = s.migrs := rfl
@[simp] theorem State.setStoker_parts (s : State) (k : Nat) (x : Stoker) : (s.setStoker k x).parts = s.parts := rfl
@[simp] theorem State.setStoker_host (s : State) (k : Nat) (x : Stoker) : (s.setStoker k x).host = s.host := rfl
@[simp] theorem State.setStoker_procs (s : State) (k : Nat) (x : Stoker) : (s.setStoker k x).procs = s.procs := rfl
@[simp] theorem State.setStoker_waitL (s : State) (k : Nat) (x : Stoker) : (s.setStoker k x).waitL = s.waitL := rfl
@[simp] theorem State.setStoker_plans (s : State) (k : Nat) (x : Stoker) : (s.setStoker k x).plans = s.plans := rfl
@[simp] theorem State.setStoker_pkg (s : State) (k : Nat) (x : Stoker) : (s.setStoker k x).pkg = s.pkg := rfl
@[simp] theorem State.setStoker_fab (s : State) (k : Nat) (x : Stoker) : (s.setStoker k x).fab = s.fab := rfl
@[simp] theorem State.setStoker_mesh (s : State) (k : Nat) (x : Stoker) : (s.setStoker k x).mesh = s.mesh := rfl
@[simp] theorem State.setStoker_hits (s : State) (k : Nat) (x : Stoker) : (s.setStoker k x).hits = s.hits := rfl
@[simp] theorem State.setStoker_stoker_self (s : State) (k : Nat) (x : Stoker) : (s.setStoker k x).stoker k = x := Tbl.get_set_self ..
theorem State.setStoker_stoker_ne (s : State) {j : Nat} (k : Nat) (x : Stoker) (n : j ≠ k) : (s.setStoker k x).stoker j = s.stoker j :=
  Tbl.get_set_ne _ _ _ n
@[simp] theorem State.setStoker_ctx (s : State) (k : Nat) (x : Stoker) (j : Nat) : (s.setStoker k x).ctx j = s.ctx j := rfl
@[simp] theorem State.setStoker_tile (s : State) (k : Nat) (x : Stoker) (j : Nat) : (s.setStoker k x).tile j = s.tile j := rfl
@[simp] theorem State.setStoker_flue (s : State) (k : Nat) (x : Stoker) (j : Nat) : (s.setStoker k x).flue j = s.flue j := rfl
@[simp] theorem State.setStoker_lease (s : State) (k : Nat) (x : Stoker) (j : Nat) : (s.setStoker k x).lease j = s.lease j := rfl
@[simp] theorem State.setStoker_part (s : State) (k : Nat) (x : Stoker) (j : Nat) : (s.setStoker k x).part j = s.part j := rfl

@[simp] theorem State.setTile_cur (s : State) (k : Nat) (x : Tile) : (s.setTile k x).cur = s.cur := rfl
@[simp] theorem State.setTile_agenda (s : State) (k : Nat) (x : Tile) : (s.setTile k x).agenda = s.agenda := rfl
@[simp] theorem State.setTile_fc (s : State) (k : Nat) (x : Tile) : (s.setTile k x).fc = s.fc := rfl
@[simp] theorem State.setTile_ordn (s : State) (k : Nat) (x : Tile) : (s.setTile k x).ordn = s.ordn := rfl
@[simp] theorem State.setTile_freeN (s : State) (k : Nat) (x : Tile) : (s.setTile k x).freeN = s.freeN := rfl
@[simp] theorem State.setTile_ctxs (s : State) (k : Nat) (x : Tile) : (s.setTile k x).ctxs = s.ctxs := rfl
@[simp] theorem State.setTile_stokers (s : State) (k : Nat) (x : Tile) : (s.setTile k x).stokers = s.stokers := rfl
@[simp] theorem State.setTile_flues (s : State) (k : Nat) (x : Tile) : (s.setTile k x).flues = s.flues := rfl
@[simp] theorem State.setTile_leases (s : State) (k : Nat) (x : Tile) : (s.setTile k x).leases = s.leases := rfl
@[simp] theorem State.setTile_loads (s : State) (k : Nat) (x : Tile) : (s.setTile k x).loads = s.loads := rfl
@[simp] theorem State.setTile_copies (s : State) (k : Nat) (x : Tile) : (s.setTile k x).copies = s.copies := rfl
@[simp] theorem State.setTile_reqs (s : State) (k : Nat) (x : Tile) : (s.setTile k x).reqs = s.reqs := rfl
@[simp] theorem State.setTile_mem (s : State) (k : Nat) (x : Tile) : (s.setTile k x).mem = s.mem := rfl
@[simp] theorem State.setTile_tags (s : State) (k : Nat) (x : Tile) : (s.setTile k x).tags = s.tags := rfl
@[simp] theorem State.setTile_lines (s : State) (k : Nat) (x : Tile) : (s.setTile k x).lines = s.lines := rfl
@[simp] theorem State.setTile_relT (s : State) (k : Nat) (x : Tile) : (s.setTile k x).relT = s.relT := rfl
@[simp] theorem State.setTile_pubs (s : State) (k : Nat) (x : Tile) : (s.setTile k x).pubs = s.pubs := rfl
@[simp] theorem State.setTile_dirty (s : State) (k : Nat) (x : Tile) : (s.setTile k x).dirty = s.dirty := rfl
@[simp] theorem State.setTile_dues (s : State) (k : Nat) (x : Tile) : (s.setTile k x).dues = s.dues := rfl
@[simp] theorem State.setTile_migrs (s : State) (k : Nat) (x : Tile) : (s.setTile k x).migrs = s.migrs := rfl
@[simp] theorem State.setTile_parts (s : State) (k : Nat) (x : Tile) : (s.setTile k x).parts = s.parts := rfl
@[simp] theorem State.setTile_host (s : State) (k : Nat) (x : Tile) : (s.setTile k x).host = s.host := rfl
@[simp] theorem State.setTile_procs (s : State) (k : Nat) (x : Tile) : (s.setTile k x).procs = s.procs := rfl
@[simp] theorem State.setTile_waitL (s : State) (k : Nat) (x : Tile) : (s.setTile k x).waitL = s.waitL := rfl
@[simp] theorem State.setTile_plans (s : State) (k : Nat) (x : Tile) : (s.setTile k x).plans = s.plans := rfl
@[simp] theorem State.setTile_pkg (s : State) (k : Nat) (x : Tile) : (s.setTile k x).pkg = s.pkg := rfl
@[simp] theorem State.setTile_fab (s : State) (k : Nat) (x : Tile) : (s.setTile k x).fab = s.fab := rfl
@[simp] theorem State.setTile_mesh (s : State) (k : Nat) (x : Tile) : (s.setTile k x).mesh = s.mesh := rfl
@[simp] theorem State.setTile_hits (s : State) (k : Nat) (x : Tile) : (s.setTile k x).hits = s.hits := rfl
@[simp] theorem State.setTile_tile_self (s : State) (k : Nat) (x : Tile) : (s.setTile k x).tile k = x := Tbl.get_set_self ..
theorem State.setTile_tile_ne (s : State) {j : Nat} (k : Nat) (x : Tile) (n : j ≠ k) : (s.setTile k x).tile j = s.tile j :=
  Tbl.get_set_ne _ _ _ n
@[simp] theorem State.setTile_ctx (s : State) (k : Nat) (x : Tile) (j : Nat) : (s.setTile k x).ctx j = s.ctx j := rfl
@[simp] theorem State.setTile_stoker (s : State) (k : Nat) (x : Tile) (j : Nat) : (s.setTile k x).stoker j = s.stoker j := rfl
@[simp] theorem State.setTile_flue (s : State) (k : Nat) (x : Tile) (j : Nat) : (s.setTile k x).flue j = s.flue j := rfl
@[simp] theorem State.setTile_lease (s : State) (k : Nat) (x : Tile) (j : Nat) : (s.setTile k x).lease j = s.lease j := rfl
@[simp] theorem State.setTile_part (s : State) (k : Nat) (x : Tile) (j : Nat) : (s.setTile k x).part j = s.part j := rfl

@[simp] theorem State.setFlue_cur (s : State) (k : Nat) (x : Flue) : (s.setFlue k x).cur = s.cur := rfl
@[simp] theorem State.setFlue_agenda (s : State) (k : Nat) (x : Flue) : (s.setFlue k x).agenda = s.agenda := rfl
@[simp] theorem State.setFlue_fc (s : State) (k : Nat) (x : Flue) : (s.setFlue k x).fc = s.fc := rfl
@[simp] theorem State.setFlue_ordn (s : State) (k : Nat) (x : Flue) : (s.setFlue k x).ordn = s.ordn := rfl
@[simp] theorem State.setFlue_freeN (s : State) (k : Nat) (x : Flue) : (s.setFlue k x).freeN = s.freeN := rfl
@[simp] theorem State.setFlue_ctxs (s : State) (k : Nat) (x : Flue) : (s.setFlue k x).ctxs = s.ctxs := rfl
@[simp] theorem State.setFlue_stokers (s : State) (k : Nat) (x : Flue) : (s.setFlue k x).stokers = s.stokers := rfl
@[simp] theorem State.setFlue_tiles (s : State) (k : Nat) (x : Flue) : (s.setFlue k x).tiles = s.tiles := rfl
@[simp] theorem State.setFlue_leases (s : State) (k : Nat) (x : Flue) : (s.setFlue k x).leases = s.leases := rfl
@[simp] theorem State.setFlue_loads (s : State) (k : Nat) (x : Flue) : (s.setFlue k x).loads = s.loads := rfl
@[simp] theorem State.setFlue_copies (s : State) (k : Nat) (x : Flue) : (s.setFlue k x).copies = s.copies := rfl
@[simp] theorem State.setFlue_reqs (s : State) (k : Nat) (x : Flue) : (s.setFlue k x).reqs = s.reqs := rfl
@[simp] theorem State.setFlue_mem (s : State) (k : Nat) (x : Flue) : (s.setFlue k x).mem = s.mem := rfl
@[simp] theorem State.setFlue_tags (s : State) (k : Nat) (x : Flue) : (s.setFlue k x).tags = s.tags := rfl
@[simp] theorem State.setFlue_lines (s : State) (k : Nat) (x : Flue) : (s.setFlue k x).lines = s.lines := rfl
@[simp] theorem State.setFlue_relT (s : State) (k : Nat) (x : Flue) : (s.setFlue k x).relT = s.relT := rfl
@[simp] theorem State.setFlue_pubs (s : State) (k : Nat) (x : Flue) : (s.setFlue k x).pubs = s.pubs := rfl
@[simp] theorem State.setFlue_dirty (s : State) (k : Nat) (x : Flue) : (s.setFlue k x).dirty = s.dirty := rfl
@[simp] theorem State.setFlue_dues (s : State) (k : Nat) (x : Flue) : (s.setFlue k x).dues = s.dues := rfl
@[simp] theorem State.setFlue_migrs (s : State) (k : Nat) (x : Flue) : (s.setFlue k x).migrs = s.migrs := rfl
@[simp] theorem State.setFlue_parts (s : State) (k : Nat) (x : Flue) : (s.setFlue k x).parts = s.parts := rfl
@[simp] theorem State.setFlue_host (s : State) (k : Nat) (x : Flue) : (s.setFlue k x).host = s.host := rfl
@[simp] theorem State.setFlue_procs (s : State) (k : Nat) (x : Flue) : (s.setFlue k x).procs = s.procs := rfl
@[simp] theorem State.setFlue_waitL (s : State) (k : Nat) (x : Flue) : (s.setFlue k x).waitL = s.waitL := rfl
@[simp] theorem State.setFlue_plans (s : State) (k : Nat) (x : Flue) : (s.setFlue k x).plans = s.plans := rfl
@[simp] theorem State.setFlue_pkg (s : State) (k : Nat) (x : Flue) : (s.setFlue k x).pkg = s.pkg := rfl
@[simp] theorem State.setFlue_fab (s : State) (k : Nat) (x : Flue) : (s.setFlue k x).fab = s.fab := rfl
@[simp] theorem State.setFlue_mesh (s : State) (k : Nat) (x : Flue) : (s.setFlue k x).mesh = s.mesh := rfl
@[simp] theorem State.setFlue_hits (s : State) (k : Nat) (x : Flue) : (s.setFlue k x).hits = s.hits := rfl
@[simp] theorem State.setFlue_flue_self (s : State) (k : Nat) (x : Flue) : (s.setFlue k x).flue k = x := Tbl.get_set_self ..
theorem State.setFlue_flue_ne (s : State) {j : Nat} (k : Nat) (x : Flue) (n : j ≠ k) : (s.setFlue k x).flue j = s.flue j :=
  Tbl.get_set_ne _ _ _ n
@[simp] theorem State.setFlue_ctx (s : State) (k : Nat) (x : Flue) (j : Nat) : (s.setFlue k x).ctx j = s.ctx j := rfl
@[simp] theorem State.setFlue_stoker (s : State) (k : Nat) (x : Flue) (j : Nat) : (s.setFlue k x).stoker j = s.stoker j := rfl
@[simp] theorem State.setFlue_tile (s : State) (k : Nat) (x : Flue) (j : Nat) : (s.setFlue k x).tile j = s.tile j := rfl
@[simp] theorem State.setFlue_lease (s : State) (k : Nat) (x : Flue) (j : Nat) : (s.setFlue k x).lease j = s.lease j := rfl
@[simp] theorem State.setFlue_part (s : State) (k : Nat) (x : Flue) (j : Nat) : (s.setFlue k x).part j = s.part j := rfl

@[simp] theorem State.setLease_cur (s : State) (k : Nat) (x : Lease) : (s.setLease k x).cur = s.cur := rfl
@[simp] theorem State.setLease_agenda (s : State) (k : Nat) (x : Lease) : (s.setLease k x).agenda = s.agenda := rfl
@[simp] theorem State.setLease_fc (s : State) (k : Nat) (x : Lease) : (s.setLease k x).fc = s.fc := rfl
@[simp] theorem State.setLease_ordn (s : State) (k : Nat) (x : Lease) : (s.setLease k x).ordn = s.ordn := rfl
@[simp] theorem State.setLease_freeN (s : State) (k : Nat) (x : Lease) : (s.setLease k x).freeN = s.freeN := rfl
@[simp] theorem State.setLease_ctxs (s : State) (k : Nat) (x : Lease) : (s.setLease k x).ctxs = s.ctxs := rfl
@[simp] theorem State.setLease_stokers (s : State) (k : Nat) (x : Lease) : (s.setLease k x).stokers = s.stokers := rfl
@[simp] theorem State.setLease_tiles (s : State) (k : Nat) (x : Lease) : (s.setLease k x).tiles = s.tiles := rfl
@[simp] theorem State.setLease_flues (s : State) (k : Nat) (x : Lease) : (s.setLease k x).flues = s.flues := rfl
@[simp] theorem State.setLease_loads (s : State) (k : Nat) (x : Lease) : (s.setLease k x).loads = s.loads := rfl
@[simp] theorem State.setLease_copies (s : State) (k : Nat) (x : Lease) : (s.setLease k x).copies = s.copies := rfl
@[simp] theorem State.setLease_reqs (s : State) (k : Nat) (x : Lease) : (s.setLease k x).reqs = s.reqs := rfl
@[simp] theorem State.setLease_mem (s : State) (k : Nat) (x : Lease) : (s.setLease k x).mem = s.mem := rfl
@[simp] theorem State.setLease_tags (s : State) (k : Nat) (x : Lease) : (s.setLease k x).tags = s.tags := rfl
@[simp] theorem State.setLease_lines (s : State) (k : Nat) (x : Lease) : (s.setLease k x).lines = s.lines := rfl
@[simp] theorem State.setLease_relT (s : State) (k : Nat) (x : Lease) : (s.setLease k x).relT = s.relT := rfl
@[simp] theorem State.setLease_pubs (s : State) (k : Nat) (x : Lease) : (s.setLease k x).pubs = s.pubs := rfl
@[simp] theorem State.setLease_dirty (s : State) (k : Nat) (x : Lease) : (s.setLease k x).dirty = s.dirty := rfl
@[simp] theorem State.setLease_dues (s : State) (k : Nat) (x : Lease) : (s.setLease k x).dues = s.dues := rfl
@[simp] theorem State.setLease_migrs (s : State) (k : Nat) (x : Lease) : (s.setLease k x).migrs = s.migrs := rfl
@[simp] theorem State.setLease_parts (s : State) (k : Nat) (x : Lease) : (s.setLease k x).parts = s.parts := rfl
@[simp] theorem State.setLease_host (s : State) (k : Nat) (x : Lease) : (s.setLease k x).host = s.host := rfl
@[simp] theorem State.setLease_procs (s : State) (k : Nat) (x : Lease) : (s.setLease k x).procs = s.procs := rfl
@[simp] theorem State.setLease_waitL (s : State) (k : Nat) (x : Lease) : (s.setLease k x).waitL = s.waitL := rfl
@[simp] theorem State.setLease_plans (s : State) (k : Nat) (x : Lease) : (s.setLease k x).plans = s.plans := rfl
@[simp] theorem State.setLease_pkg (s : State) (k : Nat) (x : Lease) : (s.setLease k x).pkg = s.pkg := rfl
@[simp] theorem State.setLease_fab (s : State) (k : Nat) (x : Lease) : (s.setLease k x).fab = s.fab := rfl
@[simp] theorem State.setLease_mesh (s : State) (k : Nat) (x : Lease) : (s.setLease k x).mesh = s.mesh := rfl
@[simp] theorem State.setLease_hits (s : State) (k : Nat) (x : Lease) : (s.setLease k x).hits = s.hits := rfl
@[simp] theorem State.setLease_lease_self (s : State) (k : Nat) (x : Lease) : (s.setLease k x).lease k = x := Tbl.get_set_self ..
theorem State.setLease_lease_ne (s : State) {j : Nat} (k : Nat) (x : Lease) (n : j ≠ k) : (s.setLease k x).lease j = s.lease j :=
  Tbl.get_set_ne _ _ _ n
@[simp] theorem State.setLease_ctx (s : State) (k : Nat) (x : Lease) (j : Nat) : (s.setLease k x).ctx j = s.ctx j := rfl
@[simp] theorem State.setLease_stoker (s : State) (k : Nat) (x : Lease) (j : Nat) : (s.setLease k x).stoker j = s.stoker j := rfl
@[simp] theorem State.setLease_tile (s : State) (k : Nat) (x : Lease) (j : Nat) : (s.setLease k x).tile j = s.tile j := rfl
@[simp] theorem State.setLease_flue (s : State) (k : Nat) (x : Lease) (j : Nat) : (s.setLease k x).flue j = s.flue j := rfl
@[simp] theorem State.setLease_part (s : State) (k : Nat) (x : Lease) (j : Nat) : (s.setLease k x).part j = s.part j := rfl

@[simp] theorem State.setPart_cur (s : State) (k : Nat) (x : Part) : (s.setPart k x).cur = s.cur := rfl
@[simp] theorem State.setPart_agenda (s : State) (k : Nat) (x : Part) : (s.setPart k x).agenda = s.agenda := rfl
@[simp] theorem State.setPart_fc (s : State) (k : Nat) (x : Part) : (s.setPart k x).fc = s.fc := rfl
@[simp] theorem State.setPart_ordn (s : State) (k : Nat) (x : Part) : (s.setPart k x).ordn = s.ordn := rfl
@[simp] theorem State.setPart_freeN (s : State) (k : Nat) (x : Part) : (s.setPart k x).freeN = s.freeN := rfl
@[simp] theorem State.setPart_ctxs (s : State) (k : Nat) (x : Part) : (s.setPart k x).ctxs = s.ctxs := rfl
@[simp] theorem State.setPart_stokers (s : State) (k : Nat) (x : Part) : (s.setPart k x).stokers = s.stokers := rfl
@[simp] theorem State.setPart_tiles (s : State) (k : Nat) (x : Part) : (s.setPart k x).tiles = s.tiles := rfl
@[simp] theorem State.setPart_flues (s : State) (k : Nat) (x : Part) : (s.setPart k x).flues = s.flues := rfl
@[simp] theorem State.setPart_leases (s : State) (k : Nat) (x : Part) : (s.setPart k x).leases = s.leases := rfl
@[simp] theorem State.setPart_loads (s : State) (k : Nat) (x : Part) : (s.setPart k x).loads = s.loads := rfl
@[simp] theorem State.setPart_copies (s : State) (k : Nat) (x : Part) : (s.setPart k x).copies = s.copies := rfl
@[simp] theorem State.setPart_reqs (s : State) (k : Nat) (x : Part) : (s.setPart k x).reqs = s.reqs := rfl
@[simp] theorem State.setPart_mem (s : State) (k : Nat) (x : Part) : (s.setPart k x).mem = s.mem := rfl
@[simp] theorem State.setPart_tags (s : State) (k : Nat) (x : Part) : (s.setPart k x).tags = s.tags := rfl
@[simp] theorem State.setPart_lines (s : State) (k : Nat) (x : Part) : (s.setPart k x).lines = s.lines := rfl
@[simp] theorem State.setPart_relT (s : State) (k : Nat) (x : Part) : (s.setPart k x).relT = s.relT := rfl
@[simp] theorem State.setPart_pubs (s : State) (k : Nat) (x : Part) : (s.setPart k x).pubs = s.pubs := rfl
@[simp] theorem State.setPart_dirty (s : State) (k : Nat) (x : Part) : (s.setPart k x).dirty = s.dirty := rfl
@[simp] theorem State.setPart_dues (s : State) (k : Nat) (x : Part) : (s.setPart k x).dues = s.dues := rfl
@[simp] theorem State.setPart_migrs (s : State) (k : Nat) (x : Part) : (s.setPart k x).migrs = s.migrs := rfl
@[simp] theorem State.setPart_host (s : State) (k : Nat) (x : Part) : (s.setPart k x).host = s.host := rfl
@[simp] theorem State.setPart_procs (s : State) (k : Nat) (x : Part) : (s.setPart k x).procs = s.procs := rfl
@[simp] theorem State.setPart_waitL (s : State) (k : Nat) (x : Part) : (s.setPart k x).waitL = s.waitL := rfl
@[simp] theorem State.setPart_plans (s : State) (k : Nat) (x : Part) : (s.setPart k x).plans = s.plans := rfl
@[simp] theorem State.setPart_pkg (s : State) (k : Nat) (x : Part) : (s.setPart k x).pkg = s.pkg := rfl
@[simp] theorem State.setPart_fab (s : State) (k : Nat) (x : Part) : (s.setPart k x).fab = s.fab := rfl
@[simp] theorem State.setPart_mesh (s : State) (k : Nat) (x : Part) : (s.setPart k x).mesh = s.mesh := rfl
@[simp] theorem State.setPart_hits (s : State) (k : Nat) (x : Part) : (s.setPart k x).hits = s.hits := rfl
@[simp] theorem State.setPart_part_self (s : State) (k : Nat) (x : Part) : (s.setPart k x).part k = x := Tbl.get_set_self ..
theorem State.setPart_part_ne (s : State) {j : Nat} (k : Nat) (x : Part) (n : j ≠ k) : (s.setPart k x).part j = s.part j :=
  Tbl.get_set_ne _ _ _ n
@[simp] theorem State.setPart_ctx (s : State) (k : Nat) (x : Part) (j : Nat) : (s.setPart k x).ctx j = s.ctx j := rfl
@[simp] theorem State.setPart_stoker (s : State) (k : Nat) (x : Part) (j : Nat) : (s.setPart k x).stoker j = s.stoker j := rfl
@[simp] theorem State.setPart_tile (s : State) (k : Nat) (x : Part) (j : Nat) : (s.setPart k x).tile j = s.tile j := rfl
@[simp] theorem State.setPart_flue (s : State) (k : Nat) (x : Part) (j : Nat) : (s.setPart k x).flue j = s.flue j := rfl
@[simp] theorem State.setPart_lease (s : State) (k : Nat) (x : Part) (j : Nat) : (s.setPart k x).lease j = s.lease j := rfl

/-! ### Registers -/

@[simp] theorem Ctx.rg_zero (c : Ctx) : c.rg 0 = 0 := rfl

/-- A general register reads back what was written, but g0 (R23). -/
theorem Ctx.rg_wg_self (c : Ctx) (x : BitVec 5) (v : Word) : (c.wg x v).rg x = if x = 0 then 0 else v := by
  unfold Ctx.wg Ctx.rg
  split
  · rfl
  · exact Vector.getElem_set_self ..

theorem Ctx.rg_wg_ne (c : Ctx) {x y : BitVec 5} (v : Word) (n : y ≠ x) : (c.wg x v).rg y = c.rg y := by
  unfold Ctx.wg Ctx.rg
  split
  · rfl
  · split
    · rfl
    · exact Vector.getElem_set_ne x.isLt y.isLt (fun h => n (BitVec.eq_of_toNat_eq h.symm))

/-- A write of a general register changes the general registers alone. -/
theorem Ctx.wg_frame (c : Ctx) (x : BitVec 5) (v : Word) : c.wg x v = { c with g := (c.wg x v).g } := by
  unfold Ctx.wg
  split <;> rfl

@[simp] theorem Ctx.rf_wf_self (c : Ctx) (x : BitVec 5) (v : Word) : (c.wf x v).rf x = v := Vector.getElem_set_self ..

theorem Ctx.rf_wf_ne (c : Ctx) {x y : BitVec 5} (v : Word) (n : y ≠ x) : (c.wf x v).rf y = c.rf y :=
  Vector.getElem_set_ne x.isLt y.isLt (fun h => n (BitVec.eq_of_toNat_eq h.symm))

@[simp] theorem Ctx.ra_wa_self (c : Ctx) (x : BitVec 3) (v : Addr) : (c.wa x v).ra x = v := Vector.getElem_set_self ..

theorem Ctx.ra_wa_ne (c : Ctx) {x y : BitVec 3} (v : Addr) (n : y ≠ x) : (c.wa x v).ra y = c.ra y :=
  Vector.getElem_set_ne x.isLt y.isLt (fun h => n (BitVec.eq_of_toNat_eq h.symm))

@[simp] theorem Ctx.wg_st (c : Ctx) (x : BitVec 5) (v : Word) : (c.wg x v).st = c.st := by unfold Ctx.wg; split <;> rfl
@[simp] theorem Ctx.wg_lease (c : Ctx) (x : BitVec 5) (v : Word) : (c.wg x v).lease = c.lease := by unfold Ctx.wg; split <;> rfl
@[simp] theorem Ctx.wg_pc (c : Ctx) (x : BitVec 5) (v : Word) : (c.wg x v).pc = c.pc := by unfold Ctx.wg; split <;> rfl
@[simp] theorem Ctx.wg_f (c : Ctx) (x : BitVec 5) (v : Word) : (c.wg x v).f = c.f := by unfold Ctx.wg; split <;> rfl
@[simp] theorem Ctx.wg_a (c : Ctx) (x : BitVec 5) (v : Word) : (c.wg x v).a = c.a := by unfold Ctx.wg; split <;> rfl
@[simp] theorem Ctx.wg_status (c : Ctx) (x : BitVec 5) (v : Word) : (c.wg x v).status = c.status := by unfold Ctx.wg; split <;> rfl
@[simp] theorem Ctx.wg_fcr (c : Ctx) (x : BitVec 5) (v : Word) : (c.wg x v).fcr = c.fcr := by unfold Ctx.wg; split <;> rfl
@[simp] theorem Ctx.wg_repstate (c : Ctx) (x : BitVec 5) (v : Word) : (c.wg x v).repstate = c.repstate := by unfold Ctx.wg; split <;> rfl
@[simp] theorem Ctx.wg_repOn (c : Ctx) (x : BitVec 5) (v : Word) : (c.wg x v).repOn = c.repOn := by unfold Ctx.wg; split <;> rfl
@[simp] theorem Ctx.wg_fbuf (c : Ctx) (x : BitVec 5) (v : Word) : (c.wg x v).fbuf = c.fbuf := by unfold Ctx.wg; split <;> rfl
@[simp] theorem Ctx.wg_busy (c : Ctx) (x : BitVec 5) (v : Word) : (c.wg x v).busy = c.busy := by unfold Ctx.wg; split <;> rfl
@[simp] theorem Ctx.wg_wait (c : Ctx) (x : BitVec 5) (v : Word) : (c.wg x v).wait = c.wait := by unfold Ctx.wg; split <;> rfl
@[simp] theorem Ctx.wg_evq (c : Ctx) (x : BitVec 5) (v : Word) : (c.wg x v).evq = c.evq := by unfold Ctx.wg; split <;> rfl
@[simp] theorem Ctx.wg_loadTk (c : Ctx) (x : BitVec 5) (v : Word) : (c.wg x v).loadTk = c.loadTk := by unfold Ctx.wg; split <;> rfl
@[simp] theorem Ctx.wg_cpyTk (c : Ctx) (x : BitVec 5) (v : Word) : (c.wg x v).cpyTk = c.cpyTk := by unfold Ctx.wg; split <;> rfl
@[simp] theorem Ctx.wf_st (c : Ctx) (x : BitVec 5) (v : Word) : (c.wf x v).st = c.st := rfl
@[simp] theorem Ctx.wf_lease (c : Ctx) (x : BitVec 5) (v : Word) : (c.wf x v).lease = c.lease := rfl
@[simp] theorem Ctx.wf_pc (c : Ctx) (x : BitVec 5) (v : Word) : (c.wf x v).pc = c.pc := rfl
@[simp] theorem Ctx.wf_g (c : Ctx) (x : BitVec 5) (v : Word) : (c.wf x v).g = c.g := rfl
@[simp] theorem Ctx.wf_a (c : Ctx) (x : BitVec 5) (v : Word) : (c.wf x v).a = c.a := rfl
@[simp] theorem Ctx.wf_status (c : Ctx) (x : BitVec 5) (v : Word) : (c.wf x v).status = c.status := rfl
@[simp] theorem Ctx.wf_fcr (c : Ctx) (x : BitVec 5) (v : Word) : (c.wf x v).fcr = c.fcr := rfl
@[simp] theorem Ctx.wf_repOn (c : Ctx) (x : BitVec 5) (v : Word) : (c.wf x v).repOn = c.repOn := rfl
@[simp] theorem Ctx.wf_busy (c : Ctx) (x : BitVec 5) (v : Word) : (c.wf x v).busy = c.busy := rfl
@[simp] theorem Ctx.wf_wait (c : Ctx) (x : BitVec 5) (v : Word) : (c.wf x v).wait = c.wait := rfl
@[simp] theorem Ctx.wa_st (c : Ctx) (x : BitVec 3) (v : Addr) : (c.wa x v).st = c.st := rfl
@[simp] theorem Ctx.wa_lease (c : Ctx) (x : BitVec 3) (v : Addr) : (c.wa x v).lease = c.lease := rfl
@[simp] theorem Ctx.wa_pc (c : Ctx) (x : BitVec 3) (v : Addr) : (c.wa x v).pc = c.pc := rfl
@[simp] theorem Ctx.wa_g (c : Ctx) (x : BitVec 3) (v : Addr) : (c.wa x v).g = c.g := rfl
@[simp] theorem Ctx.wa_f (c : Ctx) (x : BitVec 3) (v : Addr) : (c.wa x v).f = c.f := rfl
@[simp] theorem Ctx.wa_status (c : Ctx) (x : BitVec 3) (v : Addr) : (c.wa x v).status = c.status := rfl
@[simp] theorem Ctx.wa_fcr (c : Ctx) (x : BitVec 3) (v : Addr) : (c.wa x v).fcr = c.fcr := rfl
@[simp] theorem Ctx.wa_repOn (c : Ctx) (x : BitVec 3) (v : Addr) : (c.wa x v).repOn = c.repOn := rfl
@[simp] theorem Ctx.wa_busy (c : Ctx) (x : BitVec 3) (v : Addr) : (c.wa x v).busy = c.busy := rfl
@[simp] theorem Ctx.wa_wait (c : Ctx) (x : BitVec 3) (v : Addr) : (c.wa x v).wait = c.wait := rfl

/-! ### Reset -/

theorem State.reset_mem_wf : State.reset.mem.wf = true := rfl
theorem State.reset_host_wf : State.reset.host.wf = true := rfl

end Sys2Proof.Machine
end

