-- ==== Sys2Proof/Laws/Complete.lean ====
section
/-! SUPPORT. What the completion of an instruction does (R48, R163), once for all the instructions that end in it. -/

namespace Sys2Proof

open Sys2Proof.Machine

theorem step_bit_clear {w : Word} (h : w.extractLsb' 3 1 = 0#1) : w.fld 3 1 = 0 := by
  have := congrArg BitVec.toNat h
  simpa [BitVec.fld, Machine.bits, BitVec.extractLsb', Nat.shiftRight_eq_div_pow] using this

theorem stepStop_clear {s : State} {k : Nat} (h : (s.ctx k).status.fld 3 1 = 0) : stepStop s k = s := by
  simp [stepStop, h]

theorem Ctx.idle_of_ready {c : Ctx} (hb : c.busy = none) (hw : c.wait = none) (hs : c.st = .ready) : c.idle = c := by
  cases c
  simp_all [Ctx.idle]

/-- A completion without a step stop changes the running context by f, and its lease's progress count. -/
theorem complete_only {s : State} {f : Ctx → Ctx} (hs : (f s.cc).status.extractLsb' 3 1 = 0#1)
    (hb : (f s.cc).busy = none) (hw : (f s.cc).wait = none) (hr : (f s.cc).st = .ready) :
    OnlyContext s (complete s s.cur.ctx f) ∧ (complete s s.cur.ctx f).cc = f s.cc := by
  have hid : (f s.cc).idle = f s.cc := Ctx.idle_of_ready hb hw hr
  have hc : complete s s.cur.ctx f = progress (s.modCtx s.cur.ctx (fun c => (f c).idle)) s.cc.lease := by
    refine stepStop_clear ?_
    have : ((progress (s.modCtx s.cur.ctx (fun c => (f c).idle)) s.cc.lease).ctx s.cur.ctx) = f s.cc := by
      simpa [progress, State.modLease, State.modCtx, State.cc] using hid
    exact this ▸ step_bit_clear hs
  rw [hc]
  refine ⟨⟨rfl, fun k hk => ?_, fun l => ?_, fun _ => rfl, fun _ => rfl⟩, ?_⟩
  · simpa [progress, State.modLease, State.modCtx] using State.setCtx_ctx_ne _ _ _ hk
  · by_cases h : l = s.cc.lease
    · subst h; simp [progress, State.modLease, State.modCtx]
    · simp [progress, State.modLease, State.modCtx, h, State.setLease_lease_ne _ _ _ h]
  · simpa [progress, State.modLease, State.modCtx, State.cc] using hid

/-- Outside a repeat, an instruction that falls through after writing registers by f. -/
theorem retire_only {s : State} {f : Ctx → Ctx} (hi : (f s.cc).repOn = false) (hs : (f s.cc).status.extractLsb' 3 1 = 0#1)
    (hb : (f s.cc).busy = none) (hw : (f s.cc).wait = none) (hr : (f s.cc).st = .ready) :
    OnlyContext s (retire s f) ∧ (retire s f).cc = { f s.cc with pc := (f s.cc).pc + 4 } := by
  have hp : (f s.cc).past = { f s.cc with pc := (f s.cc).pc + 4 } := by simp [Ctx.past, hi]
  have := complete_only (s := s) (f := fun c => (f c).past) (by simpa [hp] using hs) (by simpa [hp] using hb)
    (by simpa [hp] using hw) (by simpa [hp] using hr)
  exact hp ▸ this

theorem tookG_wg (c : Ctx) (d : BitVec 5) (v p : Word) : TookG d v p c { c.wg d v with pc := p } := by
  refine ⟨by rw [Ctx.wg_frame], ?_, fun x hx => ?_⟩
  · rfl
  · show (c.wg d v).rg x = _
    split
    · next h => subst h; rw [Ctx.rg_wg_self, if_neg hx]
    · next h => exact Ctx.rg_wg_ne c v h

/-- A write of one general register. -/
theorem retireG_only {s : State} (hi : Issues s) (d : BitVec 5) (v : Word) :
    OnlyContext s (retireG s d v) ∧ TookG d v (s.cc.pc + 4) s.cc (retireG s d v).cc := by
  obtain ⟨h1, h2, h3, h4, h5⟩ := hi
  have := retire_only (s := s) (f := fun c => c.wg d v) (by simpa using h4) (by simpa using h5)
    (by simpa using h2) (by simpa using h3) (by simpa using h1)
  refine ⟨this.1, ?_⟩
  show TookG d v (s.cc.pc + 4) s.cc (retire s (fun c => c.wg d v)).cc
  rw [this.2, Ctx.wg_pc]
  exact tookG_wg ..

/-- An instruction whose meaning writes one general register. -/
theorem resultG_of_retireG {i : Instr} {s : State} {d : BitVec 5} {v : Word} (hi : Issues s)
    (h : exec i s = .next (retireG s d v)) : ResultG i s d v :=
  ⟨_, h, retireG_only hi d v⟩

/-- A write of one address register. -/
theorem resultA_of_retireA {i : Instr} {s : State} {d : BitVec 3} {v : Addr} (hi : Issues s)
    (h : exec i s = .next (retire s (fun c => c.wa d v))) : ResultA i s d v := by
  obtain ⟨h1, h2, h3, h4, h5⟩ := hi
  have r := retire_only (s := s) (f := fun c => c.wa d v) h4 h5 h2 h3 h1
  refine ⟨_, h, r.1, ?_⟩
  rw [r.2]
  refine ⟨rfl, fun x => ?_⟩
  split
  · next e => subst e; exact Ctx.ra_wa_self ..
  · next e => exact Ctx.ra_wa_ne s.cc v e

/-- A write of one float register with its flags. -/
theorem resultF_of_retireF {i : Instr} {s : State} {d : BitVec 5} {v : Word} {fl : FFlags} (hi : Issues s)
    (h : exec i s = .next (retire s (fun c => (c.wf d v).orFlags fl))) : ResultF i s d v fl.bits := by
  obtain ⟨h1, h2, h3, h4, h5⟩ := hi
  have r := retire_only (s := s) (f := fun c => (c.wf d v).orFlags fl) h4 h5 h2 h3 h1
  refine ⟨_, h, r.1, ?_⟩
  rw [r.2]
  refine ⟨rfl, fun x => ?_⟩
  show (s.cc.wf d v).rf x = _
  split
  · next e => subst e; exact Ctx.rf_wf_self ..
  · next e => exact Ctx.rf_wf_ne s.cc v e

/-! ### Taking a trap -/

theorem field_clear {w : Word} {lo : Nat} (h : w.extractLsb' lo 1 = 0#1) : w.fld lo 1 ≠ 1 := by
  have := congrArg BitVec.toNat h
  have e : w.fld lo 1 = 0 := by
    simpa [BitVec.fld, Machine.bits, BitVec.extractLsb', Nat.shiftRight_eq_div_pow] using this
  omega

/-- A synchronous fault of the customer's level enters the handler of a context that has one and is not in it (R152). -/
theorem raise_own {s : State} {code : Nat} (v h : Word) (hc : codeLevel code = 2) (ht : CanTrap s) :
    raise s code v h = s.setCtx s.cur.ctx (s.cc.enter code 2 false v h) := by
  have h1 : ¬ (s.ctx s.cur.ctx).status.fld 2 1 = 1 := field_clear ht.1
  have h2 : ¬ (s.ctx s.cur.ctx).tvec = 0 := ht.2
  simp only [raise, fault, if_pos hc, trapSync, if_neg h1, if_neg h2]
  rfl

end Sys2Proof
end

