-- ==== Sys2Proof/Laws/Memory.lean ====
section
/-! SUPPORT. The operations over memory that stand outside Machine/Ops.lean keep the canonical form and leave other bytes alone. -/

namespace Sys2Proof.Machine

theorem Tbl.sorted_filter {α : Type} (p : Nat × α → Bool) (t : Tbl α) (h : Tbl.sorted t = true) : Tbl.sorted (t.filter p) = true := by
  induction t with
  | nil => rfl
  | cons e r ih =>
    simp only [Tbl.sorted, Bool.and_eq_true, List.all_eq_true] at h
    by_cases hp : p e = true
    · rw [List.filter_cons_of_pos hp]
      simp only [Tbl.sorted, Bool.and_eq_true, List.all_eq_true]
      exact ⟨fun x hx => h.1 x (List.mem_filter.1 hx).1, ih h.2⟩
    · rw [List.filter_cons_of_neg hp]; exact ih h.2

/-- A part of a canonical memory is canonical. -/
theorem Memory.wf_filter (p : Nat × Byte → Bool) (m : Memory) (h : m.wf = true) : Memory.wf (m.filter p) = true := by
  simp only [Memory.wf, Tbl.wf, Bool.and_eq_true, List.all_eq_true] at h ⊢
  exact ⟨Tbl.sorted_filter p m h.1, fun x hx => h.2 x (List.mem_filter.1 hx).1⟩

theorem Memory.wf_clear (m : Memory) (a n : Nat) (h : m.wf = true) : (m.clear a n).wf = true := Memory.wf_filter _ m h

theorem Memory.wf_mergeN (m : Memory) (a n mask v : Nat) (h : m.wf = true) : (m.mergeN a n mask v).wf = true := Memory.wf_writeN n m a _ h

/-- A masked write leaves the bytes outside it. -/
theorem Memory.read_mergeN_out (m : Memory) (a n mask v c : Nat) (h : c < a ∨ a + n ≤ c) : (m.mergeN a n mask v).read c = m.read c :=
  Memory.read_writeN_out n m a _ c h

/-- R224: a barrier's fields are written in canonical form. -/
theorem barWrite_wf (m : Memory) (pa : Nat) (b : Bar) (h : m.wf = true) : (barWrite m pa b).wf = true :=
  Memory.wf_setWord _ _ _ (Memory.wf_setWord _ _ _ (Memory.wf_setWord _ _ _ h))

/-- R224: a barrier's write leaves the bytes outside its first 24. -/
theorem barWrite_out (m : Memory) (pa : Nat) (b : Bar) (c : Nat) (h : c < pa ∨ pa + 24 ≤ c) : (barWrite m pa b).read c = m.read c := by
  simp only [barWrite, Memory.setWord]
  rw [Memory.read_writeN_out _ _ _ _ _ (by omega), Memory.read_writeN_out _ _ _ _ _ (by omega), Memory.read_writeN_out _ _ _ _ _ (by omega)]

/-- R190: the bank of a stop of a ring that is being defined. -/
theorem definedBank_wf (rr : RingRec) (cap : Nat) (es : List Word) (m : Memory) (h : m.wf = true) : (definedBank rr cap es m).wf = true :=
  Memory.wf_setWords _ _ _ (Memory.wf_clear _ _ _ (Memory.wf_clear _ _ _ h))

theorem foldl_wf {α : Type} (f : Memory → α → Memory) (hf : ∀ m a, m.wf = true → (f m a).wf = true) :
    ∀ (l : List α) (m : Memory), m.wf = true → (l.foldl f m).wf = true
  | [], _, h => h
  | a :: l, m, h => foldl_wf f hf l (f m a) (hf m a h)

/-- R343: the leaves that a frame migration rewrites. -/
theorem repoint_wf (src dst : Nat) : ∀ (n table : Nat) (m : Memory), m.wf = true → (repoint src dst table m n).wf = true := by
  intro n
  induction n with
  | zero => intro _ _ h; exact h
  | succ n ih =>
    intro table m h
    unfold repoint
    refine foldl_wf _ (fun m i hm => ?_) _ m h
    dsimp only
    split
    · exact hm
    · split
      · split
        · exact Memory.wf_writeN _ _ _ _ hm
        · exact hm
      · exact ih _ _ hm

end Sys2Proof.Machine
end

