-- ==== Sys2Proof/Laws/Units.lean ====
section
/-! SUPPORT. What the named updates of queues, mailboxes, seam modules, ports and the damper leave: what was written reads back, and the
other units and the other fields of the state stay. -/

namespace Sys2Proof.Machine

/-! ### Command queues and mailboxes -/

@[simp] theorem cq_setCq_self (s : State) (p q : Nat) (x : Queue) : cq (setCq s p q x) p q = x := by
  simp [cq, setCq, State.modPart]

theorem cq_setCq_ne (s : State) {p q p' q' : Nat} (x : Queue) (n : p' ≠ p ∨ q' ≠ q) : cq (setCq s p q x) p' q' = cq s p' q' := by
  by_cases h : p' = p
  · subst h
    simp [cq, setCq, State.modPart, Tbl.get_set_ne _ _ _ (n.resolve_left (fun c => c rfl))]
  · simp [cq, setCq, State.modPart, State.setPart_part_ne _ _ _ h]

@[simp] theorem setCq_mem (s : State) (p q : Nat) (x : Queue) : (setCq s p q x).mem = s.mem := rfl
@[simp] theorem setCq_host (s : State) (p q : Nat) (x : Queue) : (setCq s p q x).host = s.host := rfl
@[simp] theorem setCq_leases (s : State) (p q : Nat) (x : Queue) : (setCq s p q x).leases = s.leases := rfl
@[simp] theorem setCq_fab (s : State) (p q : Nat) (x : Queue) : (setCq s p q x).fab = s.fab := rfl

@[simp] theorem mailbox_setMailbox (s : State) (b : Option Nat) (m : Mailbox) : mailbox (setMailbox s b m) b = m := by
  cases b <;> simp [mailbox, setMailbox, State.modPart]

/-! ### Seam modules and ports -/

@[simp] theorem SeamMod.dir_setDir (m : SeamMod) (d : Nat) (x : LinkDir) : (m.setDir d x).dir d = x := by
  unfold SeamMod.setDir SeamMod.dir; split <;> rfl

theorem SeamMod.dir_setDir_other (m : SeamMod) {d : Nat} (x : LinkDir) (h : d < 2) : (m.setDir d x).dir (1 - d) = m.dir (1 - d) := by
  obtain rfl | rfl : d = 0 ∨ d = 1 := by omega
  · rfl
  · rfl

@[simp] theorem SeamMod.setDir_mstat (m : SeamMod) (d : Nat) (x : LinkDir) : (m.setDir d x).mstat = m.mstat := by
  unfold SeamMod.setDir; split <;> rfl

@[simp] theorem GPort.dir_setDir (g : GPort) (d : Nat) (x : LinkDir) : (g.setDir d x).dir d = x := by
  unfold GPort.setDir GPort.dir; split <;> rfl

theorem GPort.dir_setDir_other (g : GPort) {d : Nat} (x : LinkDir) (h : d < 2) : (g.setDir d x).dir (1 - d) = g.dir (1 - d) := by
  obtain rfl | rfl : d = 0 ∨ d = 1 := by omega
  · rfl
  · rfl

@[simp] theorem GPort.setDir_gstat (g : GPort) (d : Nat) (x : LinkDir) : (g.setDir d x).gstat = g.gstat := by
  unfold GPort.setDir; split <;> rfl

@[simp] theorem seamMod_setSeamMod_self (s : State) (k : Nat) (m : SeamMod) : seamMod (setSeamMod s k m) k = m := Tbl.get_set_self ..
theorem seamMod_setSeamMod_ne (s : State) {j : Nat} (k : Nat) (m : SeamMod) (n : j ≠ k) : seamMod (setSeamMod s k m) j = seamMod s j :=
  Tbl.get_set_ne _ _ _ n
@[simp] theorem gport_setSeamMod (s : State) (k i : Nat) (m : SeamMod) : gport (setSeamMod s k m) i = gport s i := rfl
@[simp] theorem dieDamp_setSeamMod (s : State) (k d : Nat) (m : SeamMod) : dieDamp (setSeamMod s k m) d = dieDamp s d := rfl
@[simp] theorem setSeamMod_mem (s : State) (k : Nat) (m : SeamMod) : (setSeamMod s k m).mem = s.mem := rfl
@[simp] theorem setSeamMod_fc (s : State) (k : Nat) (m : SeamMod) : (setSeamMod s k m).fc = s.fc := rfl
@[simp] theorem setSeamMod_reqs (s : State) (k : Nat) (m : SeamMod) : (setSeamMod s k m).reqs = s.reqs := rfl
@[simp] theorem setSeamMod_tiles (s : State) (k : Nat) (m : SeamMod) : (setSeamMod s k m).tiles = s.tiles := rfl

@[simp] theorem gport_setGport_self (s : State) (i : Nat) (g : GPort) : gport (setGport s i g) i = g := Tbl.get_set_self ..
theorem gport_setGport_ne (s : State) {j : Nat} (i : Nat) (g : GPort) (n : j ≠ i) : gport (setGport s i g) j = gport s j :=
  Tbl.get_set_ne _ _ _ n
@[simp] theorem seamMod_setGport (s : State) (i k : Nat) (g : GPort) : seamMod (setGport s i g) k = seamMod s k := rfl
@[simp] theorem setGport_mem (s : State) (i : Nat) (g : GPort) : (setGport s i g).mem = s.mem := rfl
@[simp] theorem setGport_greqs (s : State) (i : Nat) (g : GPort) : (setGport s i g).fab.greqs = s.fab.greqs := rfl

/-! ### Channels of packets on the mesh -/

@[simp] theorem meshChan_setMesh_self (s : State) (key : Nat) (ps : List NPkt) : meshChan (setMesh s key ps) key = ps := Tbl.get_set_self ..
theorem meshChan_setMesh_ne (s : State) {j : Nat} (key : Nat) (ps : List NPkt) (n : j ≠ key) :
    meshChan (setMesh s key ps) j = meshChan s j := Tbl.get_set_ne _ _ _ n
@[simp] theorem setMesh_mem (s : State) (key : Nat) (ps : List NPkt) : (setMesh s key ps).mem = s.mem := rfl
@[simp] theorem setMesh_tiles (s : State) (key : Nat) (ps : List NPkt) : (setMesh s key ps).tiles = s.tiles := rfl

/-! ### The damper -/

@[simp] theorem dieDamp_setDieDamp_self (s : State) (d : Nat) (x : DieDamp) : dieDamp (setDieDamp s d x) d = x := Tbl.get_set_self ..
theorem dieDamp_setDieDamp_ne (s : State) {e : Nat} (d : Nat) (x : DieDamp) (n : e ≠ d) : dieDamp (setDieDamp s d x) e = dieDamp s e :=
  Tbl.get_set_ne _ _ _ n
@[simp] theorem setDieDamp_mem (s : State) (d : Nat) (x : DieDamp) : (setDieDamp s d x).mem = s.mem := rfl
@[simp] theorem seamMod_setDieDamp (s : State) (d k : Nat) (x : DieDamp) : seamMod (setDieDamp s d x) k = seamMod s k := rfl

end Sys2Proof.Machine
end

