-- ==== Sys2Proof/Tests/Slice0.lean ====
section
/-! SUPPORT. Tests of the model: ill-formed instructions are refused, words written out from the spec's encodings decode to the
instructions they stand for, worked examples of the spec, and states that meet the hypotheses of the obligations together. -/

set_option Elab.async false

namespace Sys2Proof.Tests

open Sys2Proof Sys2Proof.Machine

/-! ### Ill-formed instructions -/

/-- R74: 00010 is no mode. -/
theorem test_wf_mode : (Instr.fsqrt 1 2 2 0).wf = false := by decide
/-- R149: a conversion to its own format, and the format code 11. -/
theorem test_wf_format : (Instr.fcvt 1 2 0 1 1).wf = false ∧ (Instr.fcvti 1 2 0 0 3).wf = false ∧ (Instr.icvtf 1 2 0 3 0).wf = false := by decide
/-- R115: scope 7 where 0 to 6 stand, scopes 0 and 5 where 1 to 4 stand, an order of none on a FENCE, a scope without an order. -/
theorem test_wf_scope : (Instr.phase 7).wf = false ∧ (Instr.fence 7 1 0).wf = false ∧ (Instr.fence 1 0 0).wf = false
    ∧ (Instr.pref 1 2 0).wf = false ∧ (Instr.discard 1 2 5).wf = false ∧ (Instr.barInit 1 2 7).wf = false
    ∧ (Instr.snapOpen 1 2 3 7).wf = false := by decide
/-- R208: the scope of a form with an order is 0 to 6 with it, and zero without it. -/
theorem test_wf_order : (Instr.cbPush 1 2 3 2 0).wf = false ∧ (Instr.cbPop 1 2 3 7 1).wf = false ∧ (Instr.prsIssue 1 2 3 2 0 0).wf = false
    ∧ (Instr.prsIssue 1 2 3 2 0 1).wf = true := by decide
/-- R60: a field that does not step has stride code 00. -/
theorem test_wf_stride : (Instr.rep 3 0 1 0 1 0 0).wf = false ∧ (Instr.rep 3 1 0 0 1 1 0).wf = false
    ∧ (Instr.rep 3 1 1 0 2 1 3).wf = false := by decide
/-- R118: a float type on an integer opcode, a PAIR16 on a conversion, an integer on a float opcode. -/
theorem test_wf_type : (Instr.elemAdd 2 3 2 5 0 0 0).wf = false ∧ (Instr.elemCvti 2 2 9 0 0 0 0).wf = false
    ∧ (Instr.elemFadd 2 3 2 2 0 0 0 0).wf = false ∧ (Instr.elemIter 1 1 2 5 0 0).wf = false := by decide
/-- R61, R119: a rounding mode on an integer, SAT on a float compare of an integer type, a second source of a form of one. -/
theorem test_wf_fields : (Instr.elemPass 2 2 2 1 0 0).wf = false ∧ (Instr.elemCmplt 2 3 2 2 0 1 0 0).wf = false
    ∧ (Instr.elemShl 2 3 2 5 0 0 0).wf = false := by decide
/-- R254: the chain as an operand of a form that also takes the chain. -/
theorem test_wf_chain : (Instr.elemMac 0 3 2 2 0 0 0).wf = false := by decide
/-- R64: an immediate beside a lane register. -/
theorem test_wf_param : (Instr.elemAdd 6 1 2 2 0 0 0).wf = false := by decide
/-- R252: join code 11. -/
theorem test_wf_join : (Instr.elemAdd 2 3 2 2 0 0 0xC0).wf = false ∧ (Instr.elemMerge 2 3 2 2 0 0 0x40).wf = false := by decide
/-- R264 to R273: sources and destinations of single opcodes. -/
theorem test_wf_opcode : (Instr.elemConst 2 2 2 0 0 0).wf = false ∧ (Instr.elemDup 2 2 2 0 0 0).wf = false
    ∧ (Instr.elemHdrPut 2 1 0 0).wf = false ∧ (Instr.elemCvth 0 2 5 0 0 0 0).wf = false ∧ (Instr.elemCvts 2 1 6 0 0 0 0).wf = false
    ∧ (Instr.elemLmac 2 3 1 0 0x20).wf = false ∧ (Instr.elemSink 2 2 0 0 0x80).wf = false := by decide
/-- R66, R276: a node's sequence 0x3FF, a first node with a predecessor, a last one with a successor, a bank node in a wave. -/
theorem test_wf_node : (Instr.mld 2 0 2 2 0 0x3FF 0x3FF 0x3FF 0 0).wf = false ∧ (Instr.mld 2 0 2 2 0 1 0 0x3FF 1 0).wf = false
    ∧ (Instr.mld 2 0 2 2 0 1 0 2 0 1).wf = false ∧ (Instr.bld 2 0 2 2 0 1 0 2 0 0).wf = false
    ∧ (Instr.mld 2 3 2 2 0 1 0 2 0 0).wf = false := by decide
/-- R66: an immediate of a node beside a lane register, and bits of off that a register leaves no room for. -/
theorem test_wf_node_param : (Instr.mst 6 1 2 2 0 1 0 2 0 0).wf = false ∧ (Instr.mst 2 1 2 2 0x100 1 0 2 0 0).wf = false
    ∧ (Instr.matFadd 2 3 2 2 0 1 0 2 0 0).wf = false := by decide

/-! ### Words of the spec's encodings -/

/-- R125, R126 (worked examples), and the ADD of the listing of 02. -/
theorem test_decode_alu : decodeControl 0x04642814#32 = .ok (.div 3 4 5) ∧ decodeControl 0x04E110E2#32 = .ok (.muladd 7 1 2 3)
    ∧ decodeControl 0x04A53000#32 = .ok (.add 5 5 6) := ⟨rfl, rfl, rfl⟩
/-- R128 to R130, R136: worked examples. -/
theorem test_decode_immediate : decodeControl 0x20430085#32 = .ok (.srai 2 3 5) ∧ decodeControl 0x24C01234#32 = .ok (.lui 6 0x1234)
    ∧ decodeControl 0x28C3DEF0#32 = .ok (.insh 6 3 0xDEF0) ∧ decodeControl 0x90420008#32 = .ok (.aaddi 2 2 8) := ⟨rfl, rfl, rfl, rfl⟩
/-- The branch of the listing of 02 and the return of R134. -/
theorem test_decode_branch : decodeControl 0x3420FFFC#32 = .ok (.bne 1 0 0xFFFC) ∧ decodeControl 0x4C010000#32 = .ok (.jalr 0 1 0) := ⟨rfl, rfl⟩
/-- R135 (worked example). -/
theorem test_decode_address : decodeControl 0x8C263802#32 = .ok (.aset 1 6 7) ∧ decodeControl 0x8C411005#32 = .ok (.acmp 2 1 2) := ⟨rfl, rfl⟩
/-- R139 (worked example), the LDD of R163 and that of the listing of 02. -/
theorem test_decode_load : decodeControl 0x612FFFFC#32 = .ok (.ldw 9 3 0x3FFFC) ∧ decodeControl 0x69000000#32 = .ok (.ldd 8 0 0)
    ∧ decodeControl 0x68C80000#32 = .ok (.ldd 6 2 0) := ⟨rfl, rfl, rfl⟩
/-- R151 (listing). -/
theorem test_decode_float : decodeControl 0x94611000#32 = .ok (.fadd 3 1 2 0) ∧ decodeControl 0x98800402#32 = .ok (.csrr 4 0x010)
    ∧ decodeControl 0x98E00403#32 = .ok (.csrw 7 0x010) := ⟨rfl, rfl, rfl⟩
/-- R155, R156, R159, R160, and TRAP 5, its code at [15:6]. -/
theorem test_decode_system : decodeControl 0x98000001#32 = .ok .eret ∧ decodeControl 0x98000006#32 = .ok .wfe
    ∧ decodeControl 0x98000007#32 = .ok .halt ∧ decodeControl 0x98000008#32 = .ok .brk ∧ decodeControl 0x98000140#32 = .ok (.trap 5) :=
  ⟨rfl, rfl, rfl, rfl, rfl⟩
/-- R60 (worked example). -/
theorem test_decode_rep : decodeControl 0xF83C0000#32 = .ok (.rep 3 1 1 0 0 0 0) := rfl
/-- The OPW of the worked example of R176, and CFG.LOAD g1, a2, g3 by the table of 06. -/
theorem test_decode_fabric : decodeControl 0x9C053002#32 = .ok (.opw 5 6) ∧ decodeControl 0x9C221800#32 = .ok (.cfgLoad 1 2 3) := ⟨rfl, rfl⟩
/-- RING.GO g1, g2, RC.MASK g2 and EV.POP g1 by the table of 06. -/
theorem test_decode_rings : decodeControl 0xA0220004#32 = .ok (.ringGo 1 2) ∧ decodeControl 0xA4020001#32 = .ok (.rcMask 2)
    ∧ decodeControl 0xA8200000#32 = .ok (.evPop 1) := ⟨rfl, rfl, rfl⟩
/-- R207 (worked example): the same word without its order is refused. -/
theorem test_decode_press : decodeControl 0xC8221A40#32 = .ok (.prsIssue 1 2 3 2 0 1)
    ∧ decodeControl 0xC8221A00#32 = .error .badScope := ⟨rfl, rfl⟩
/-- Worked examples of 07: AT.CAS.D.DIE.AR, SNAP.OPEN.BLOCK and CPY.LIN.DIE. -/
theorem test_decode_memory : decodeControl 0xB0822DEA#32 = .ok (.atCas 4 2 5 5 1 1 1) ∧ decodeControl 0xB8441A00#32 = .ok (.snapOpen 2 4 3 2)
    ∧ decodeControl 0xC0853500#32 = .ok (.cpyLin 4 5 6 5 0 0) := ⟨rfl, rfl, rfl⟩
/-- Worked examples of 08 and 06: ADD.I16.PAD q0, q1 -> o0, ADD.I16.SAT q0, k3 -> o1, and LMAC.L6 q0, q1 -> drop. -/
theorem test_decode_element : decodeElement 0x029A1040#32 = .ok (.elemAdd 2 3 2 1 0 0 0x40)
    ∧ decodeElement 0x028B1203#32 = .ok (.elemAdd 2 1 3 1 1 0 0x03) ∧ decodeElement 0x809F8000#32 = .ok (.elemLmac 2 3 7 0 0) := ⟨rfl, rfl, rfl⟩
/-- R66, R276 (worked example): the two words of an MLD. -/
theorem test_decode_node : decodeNode 0x94832004#32 0x00C02010#32 =
    .ok { opc := 0x4A, asrc := 2, dsrc := 0, dst := 3, typ := 2, off := 4, seq := 3, pred := 2, succ := 4, first := 0, last := 0 } := rfl
/-- R58, R110, R128, R129: a field that the form does not use, and a function that the map leaves unassigned. -/
theorem test_decode_refuses : decodeControl 0x24C11234#32 = .error .unusedField ∧ decodeControl 0x204300C5#32 = .error .unassignedFn :=
  ⟨rfl, rfl⟩


/-! ### Small states -/

/-- The state that an answer leaves. -/
def left (o : Out) : State :=
  match o with
  | .next t => t
  | _ => State.reset

/-- Context 0 of lease 1 is about to issue at VA 0, in a page of 64 KiB of frame 0. -/
def base : State := State.reset.withControl 0

/-- As base, the running context changed. -/
def withC (f : Ctx → Ctx) : State := base.modCtx 0 f

/-- As base, general registers 1 to 3 and address register 1 set. -/
def regs (x y z : Word) (a : Addr) : State := withC (fun c => (((c.wg 1 x).wg 2 y).wg 3 z).wa 1 a)

/-- As base, with a trap handler at 0x1000. -/
def trapper : State := withC (fun c => { c with tvec := 0x1000 })

/-- As base, its page memory-side. -/
def msBase (f : Ctx → Ctx) : State :=
  (withC f).setStoker 0 { base.stoker 0 with tlb := (base.stoker 0).tlb.map (fun e => { e with attr := { e.attr with ms := true } }) }

/-- As base, the lease changed. -/
def withL (f : Lease → Lease) (g : Ctx → Ctx) : State := (withC g).modLease 1 f

/-- An image of one rectangle of 2 × 2 tiles with a port and a ring of two stops. -/
def img : Image :=
  { rects := [{ rows := 2, cols := 2 }], ports := [{ name := 3, edge := 3 }], rings := [{ stops := [(0, 0), (0, 1)], laps := 2, off := 0x100 }] }

/-- As base, with that image. -/
def rig (g : Ctx → Ctx) : State := withL (fun l => { l with image := img }) g

/-- A firing of actor 0 at the lane of a step, in tile 0. -/
def fires (g : Tile → Tile) : State := (base.modTile 0 (fun t => { t with firing := some {}, actors := [(0, 0x8000000000000000)] })).modTile 0 g

def isOk {α β : Type} (x : Except α β) : Bool :=
  match x with
  | .ok _ => true
  | .error _ => false

theorem ok_of {α β : Type} {x : Except α β} (h : isOk x = true) : ∃ v, x = .ok v := by
  cases x with
  | ok v => exact ⟨v, rfl⟩
  | error _ => cases h

/-- Whether an access passes its checks and is performed at once. -/
def reachB (s : State) (va w : Nat) (need : Need) : Bool :=
  va % w == 0 && (match translateCtx s s.cur.ctx va with
    | .ok (s1, e) => (match pageCheck s1 (meWho s) va e need with
      | .ok pa => !e.attr.sysw && !s.cur.transit && !frameHeld s1 pa && !hbmSpent (s.lease s.cc.lease) && s1.reqs.isEmpty
        && (trunkWay s1 (ctxDie s.cur.ctx) (homeDie pa) 1 pa).isEmpty
      | .error _ => false)
    | .error _ => false)

theorem reaches_of {s : State} {va w : Nat} {need : Need} (h : reachB s va w need = true) : ∃ s1 e pa, Reaches s va w need s1 e pa := by
  unfold reachB at h
  split at h
  · next s1 e h1 =>
    split at h
    · next pa h2 =>
      simp only [Bool.and_eq_true, beq_iff_eq, Bool.not_eq_true'] at h
      refine ⟨s1, e, pa, h.1, h1, h2, h.2.1.1.1.1.1, h.2.1.1.1.1.2, h.2.1.1.1.2, h.2.1.1.2, ?_⟩
      have hr := List.isEmpty_iff.mp h.2.1.2
      have hw := List.isEmpty_iff.mp h.2.2
      intro op va a
      simp [Req.setOut, oldPath, heldBehind, Req.launch, Req.ends, Req.cls, hr, hw]
    · simp at h
  · simp at h

/-! ### Worked examples and small cases, one step each -/

/-- R126: −7 / 2 = −3 with remainder −1; division by 0; the most negative number by −1. -/
theorem test_div : (left (exec (.div 3 1 2) (regs (-7) 2 0 0))).cc.rg 3 = -3 ∧ (left (exec (.rem 3 1 2) (regs (-7) 2 0 0))).cc.rg 3 = -1
    ∧ (left (exec (.div 3 1 2) (regs 5 0 0 0))).cc.rg 3 = -1 ∧ (left (exec (.div 3 1 2) (regs 0x8000000000000000 (-1) 0 0))).cc.rg 3 = 0x8000000000000000 := by
  decide +kernel
/-- R129, R130 (worked example): the third of four words. -/
theorem test_insh : (left (exec (.insh 1 2 0x9ABC) (regs 0x12345678 0 0 0))).cc.rg 1 = 0x00009ABC12345678 := by decide +kernel
/-- R129: LUI sign-extends. -/
theorem test_lui : (left (exec (.lui 1 0x8000) base)).cc.rg 1 = 0xFFFFFFFF80000000 := by decide +kernel
/-- R134: the target is formed before the link is written. -/
theorem test_jalr : (left (exec (.jalr 1 1 0) (regs 0x100 0 0 0))).cc.pc = 0x100 ∧ (left (exec (.jalr 1 1 0) (regs 0x100 0 0 0))).cc.rg 1 = 4 := by
  decide +kernel
/-- R135, R136 (worked example): the carry into bit 64. -/
theorem test_aset : (left (exec (.aset 1 1 2) (regs 0xFFFFFFFFFFFFFFF8 3 0 0))).cc.ra 1 = 0x3FFFFFFFFFFFFFFF8
    ∧ (left (exec (.aaddi 1 1 16) (regs 0 0 0 0x3FFFFFFFFFFFFFFF8))).cc.ra 1 = 0x40000000000000008 := by decide +kernel
/-- R23: a write to g0 is discarded. -/
theorem test_g0 : (left (exec (.addi 0 1 5) (regs 7 0 0 0))).cc.rg 0 = 0 := by decide +kernel
/-- R144, R151 (listing): 1.0 + 2^-24 ties to even with nx; under RUP it goes up. -/
theorem test_fadd : let s := withC (fun c => (c.wf 1 0xFFFFFFFF3F800000).wf 2 0xFFFFFFFF33800000)
    (left (exec (.fadd 3 1 2 0) s)).cc.rf 3 = 0xFFFFFFFF3F800000 ∧ (left (exec (.fadd 3 1 2 0) s)).cc.fcr.getLsbD 3 = true
    ∧ (left (exec (.fadd 3 1 2 0) (s.modCtx 0 (fun c => { c with fcr := 2 })))).cc.rf 3 = 0xFFFFFFFF3F800001
    ∧ (left (exec (.fadd 3 1 2 0) (s.modCtx 0 (fun c => { c with fcr := 2 })))).cc.fcr = 0xA := by decide +kernel
/-- R152, R155: TRAP 5 in a context with a handler. -/
theorem test_trap : (left (exec (.trap 5) trapper)).cc.cause = 0x218 ∧ (left (exec (.trap 5) trapper)).cc.tval = 5
    ∧ (left (exec (.trap 5) trapper)).cc.pc = 0x1000 ∧ (left (exec (.trap 5) trapper)).cc.status = 4 := by decide +kernel
/-- R153: with no handler the context and its region freeze. -/
theorem test_freeze : (left (exec (.trap 5) base)).cc.st = .frozen ∧ ((left (exec (.trap 5) base)).lease 1).st = .frozen := by decide +kernel
/-- R137: a store, then a load of half of it at the last bytes of the page. -/
theorem test_store_load : let s := left (exec (.std 1 1 0) (msBase (fun c => (c.wg 1 0x1122334455667788).wa 1 0xFFF8)))
    s.mem.readN 0xFFF8 8 = 0x1122334455667788 ∧ (left (exec (.ldh 2 1 2) s)).cc.rg 2 = 0x5566 := by decide +kernel
/-- R221: AT.ADD of 4 bytes wraps and returns the old value. -/
theorem test_atomic : let s := msBase (fun c => (c.wg 1 2).wa 1 0x40)
    let t := left (exec (.atAdd 3 1 1 0 0 0 0) { s with mem := s.mem.writeN 0x40 4 0xFFFFFFFF })
    t.cc.rg 3 = 0xFFFFFFFF ∧ t.mem.readN 0x40 4 = 1 := by decide +kernel
/-- R224 (worked example): BAR.INIT with 3, then ARRIVE. -/
theorem test_barrier : let s := left (exec (.barInit 1 1 5) (msBase (fun c => (c.wg 1 3).wa 1 0x40)))
    s.mem.readN 0x40 8 = 0x3000000000 ∧ s.mem.readN 0x48 8 = 0x50003
    ∧ (left (exec (.barArrive 3 1 0 0) s)).mem.readN 0x40 8 = 0x2000000000 := by decide +kernel
/-- R259: an I8 sum that saturates, and one that wraps. -/
theorem test_element : let s := fires (fun t => { t with kreg := [(0, 0x7F), (1, 1)], actors := [(0, 0x8000000000000000)] })
    ((left (exec (.elemAdd 1 1 2 0 1 0 0) s)).tile 0).oq 0 = [{ kind := 0, pay := 0x7F }]
    ∧ ((left (exec (.elemAdd 1 1 2 0 0 0 0) s)).tile 0).oq 0 = [{ kind := 0, pay := 0xFFFFFFFE }] := by decide +kernel
/-- R22, R48: the placed word of State.withFetchWord runs as the first instruction: ADDI g1, g0, 5. -/
theorem test_step : (left (step (State.reset.withFetchWord 32 0x08200005))).cc.rg 1 = 5 := by decide +kernel

/-! ### States that meet the hypotheses of the obligations -/

/-- As base, with shadow lines of the partition on die 0. -/
def pooled (g : Ctx → Ctx) : State := (withC g).setPart 33 { base.part 33 with poolseg := [(0, 0x100000100)] }

/-- As base, its page in the stack of die 5. -/
def far (ms : Bool) : State := { base.setStoker 0 { base.stoker 0 with tlb := (base.stoker 0).tlb.map (fun e => { e with pa := 5 * 2 ^ 36, attr := { e.attr with ms } }) } with
  tags := [(5 * 2 ^ 20, 0x840)] }

/-- As base, its page a system window of package 7. -/
def afar : State := { base.setStoker 0 { base.stoker 0 with tlb := (base.stoker 0).tlb.map (fun e => { e with attr := { e.attr with sysw := true } }) } with
  fab := { base.fab with win := [(0, 0x8000030000000007)] } }

/-- Whether an access passes its checks and goes on its way, to another die or to another package. -/
def goesB (s : State) (va w : Nat) (need : Need) : Bool :=
  va % w == 0 && (match translateCtx s s.cur.ctx va with
    | .ok (s1, e) => (match pageCheck s1 (meWho s) va e need with
      | .ok pa => if e.attr.sysw then (windowOf s1 pa).isSome else
          let r := Req.setOut s1 { ctx := s.cur.ctx, op := .store 8 5, va, pa, attr := e.attr }
          r.held || !r.way.isEmpty
      | .error _ => false)
    | .error _ => false)

/-- LoadsRead, StoresWrite, AtomicsReturnOldAndWrite, BarriersAndBuffers: accesses that go to another die and to another package. -/
theorem witness_GoesOut : goesB (far false) 0xFFFF 1 { r := true } = true ∧ goesB (far false) 0xFFF8 8 { w := true } = true ∧ goesB (far true) 0xFFFC 4 inPlace = true
    ∧ goesB (far true) 0xFFE0 32 inPlace = true ∧ goesB afar 0xFFF8 8 { r := true } = true ∧ goesB afar 0xFFFF 1 { w := true } = true
    ∧ goesB afar 0xFFF8 8 { inPlace with noSys := false } = true ∧ Issues (far true) ∧ Issues afar := by decide +kernel
/-- RoundTripAll: a well-formed control word, operation word and node. -/
theorem witness_RoundTripAll : (Instr.rep 63 1 1 1 3 3 3).wf = true ∧ (Instr.elemAdd 7 6 5 10 1 1 0x3F).wf = true
    ∧ (Instr.mld 7 0 7 10 0xFFF 0x3FE 0x3FF 0x3FF 1 1).wf = true := by decide
/-- IntegerResults, DivisionResults, CountsAndReversals, ImmediateResults, AddressRegisterResults, FloatArithmetic, FloatCompares,
FloatConversions, FloatLayoutSignsAndMoves, CsrReads, CsrWrites, OrderForms: a context that issues. -/
theorem witness_Issues : Issues base ∧ Issues (regs 1 2 3 4) := by decide +kernel
/-- FloatArithmetic and its like: both formats; a free choice of operands. -/
theorem witness_FloatArithmetic : Issues base ∧ (Fmt.fp32 = if (0 : BitVec 1) = 1#1 then Fmt.fp64 else Fmt.fp32) := by decide +kernel
/-- BranchesGoOrFall: operands that take a branch and that do not. -/
theorem witness_BranchesGoOrFall : Issues (regs (-1) 1 0 0) ∧ (regs (-1) 1 0 0).cc.rg 1 = -1 ∧ (regs (-1) 1 0 0).cc.rg 2 = 1
    ∧ ((-1 : Word).toInt < (1 : Word).toInt) ∧ ¬ ((-1 : Word).toNat < (1 : Word).toNat) := by decide +kernel
/-- JumpsLinkAndGo: an aligned target, and a misaligned one in a context that can trap. -/
theorem witness_JumpsLinkAndGo : Issues trapper ∧ CanTrap trapper ∧ (trapper.cc.rg 1 + (4 : BitVec 16).signExtend 64).extractLsb' 0 2 = 0#2
    ∧ (trapper.cc.rg 1 + (2 : BitVec 16).signExtend 64).extractLsb' 0 2 ≠ 0#2 := by decide +kernel
/-- RepeatAdvances: a repeat before the last one, and the last one. -/
theorem witness_RepeatAdvances : let s (r : Word) := withC (fun c => { c with repOn := true, status := 0x10, repstate := r })
    (s 0x80000041).cc.repOn = true ∧ (s 0x80000041).cc.st = .ready ∧ (s 0x80000041).cc.status.extractLsb' 3 1 = 0#1
    ∧ ¬ ((s 0x80000041).cc.repstate.extractLsb' 0 6).toNat < ((s 0x80000041).cc.repstate.extractLsb' 6 6).toNat
    ∧ ((s 0x80000040).cc.repstate.extractLsb' 0 6).toNat < ((s 0x80000040).cc.repstate.extractLsb' 6 6).toNat
    ∧ reachB (s 0x80000041) 0xFFF8 8 { r := true } = true ∧ reachB (s 0x80000040) 0 8 { w := true } = true ∧ (Fmt.fp64 = if (1 : BitVec 1) = 1#1 then Fmt.fp64 else Fmt.fp32)
    ∧ isOk (storeAt ((s 0x80000040).setPart 33 { base.part 33 with poolseg := [(0, 0x100000100)] }) (meWho base) 0 0 { r := true, w := true, x := true } 8 (2 ^ 64 - 1) 0) = true := by decide +kernel
/-- SingleStepStops: level 1 attached and no level above it, outside a repeat and inside one; no level attached, with a handler. -/
theorem witness_SingleStepStops : let s (r : Bool) (l : List Nat) := withL (fun x => { x with dbg := l }) (fun c => { c with status := if r then 0x18 else 8, repOn := r, repstate := 0x80000040, tvec := 0x1000 })
    let good (s : State) : Prop := s.cc.st = .ready ∧ s.cc.busy = none ∧ s.cc.wait = none ∧ s.cc.status.extractLsb' 3 1 = 1#1 ∧ s.cc.dbgHalt = false
    good (s false [1]) ∧ good (s true [1]) ∧ good (s false []) ∧ (s false []).cc.repOn = false ∧ (s true [1]).cc.repOn = true ∧ CanTrap (s false [])
    ∧ ((s true [1]).lease (s true [1]).cc.lease).dbg.contains 1 = true ∧ ((s true [1]).lease (s true [1]).cc.lease).dbg.contains 2 = false
    ∧ ((s false []).lease 1).dbg.contains 0 = false ∧ reachB (s false [1]) 0xFFF8 8 { r := true } = true ∧ reachB (s false [1]) 0xFFF8 8 { w := true } = true
    ∧ ((s false [1]).cc.rg 0 + (4 : BitVec 16).signExtend 64).extractLsb' 0 2 = 0#2
    ∧ isOk (storeAt ((s false [1]).setPart 33 { base.part 33 with poolseg := [(0, 0x100000100)] }) (meWho base) 0xFFF8 0xFFF8 { r := true, w := true, x := true } 8 (2 ^ 64 - 1) 0) = true := by
  decide +kernel
/-- LoadsRead: each width at the last bytes of the page. -/
theorem witness_LoadsRead : (∃ s1 e pa, Reaches base 0xFFFF 1 { r := true } s1 e pa) ∧ (∃ s1 e pa, Reaches base 0xFFFE 2 { r := true } s1 e pa)
    ∧ (∃ s1 e pa, Reaches base 0xFFFC 4 { r := true } s1 e pa) ∧ (∃ s1 e pa, Reaches base 0xFFF8 8 { r := true } s1 e pa) :=
  ⟨reaches_of (by decide +kernel), reaches_of (by decide +kernel), reaches_of (by decide +kernel), reaches_of (by decide +kernel)⟩
/-- StoresWrite: a store in a memory-side page, and one that makes a version. -/
theorem witness_StoresWrite : (∃ s1 e pa, Reaches (msBase id) 0xFFF8 8 { w := true } s1 e pa)
    ∧ (∃ t, storeAt (msBase id) (meWho base) 0xFFF8 0xFFF8 { r := true, w := true, x := true, ms := true } 8 (2 ^ 64 - 1) 5 = .ok t)
    ∧ (∃ t, storeAt (pooled id) (meWho base) 0xFFFF 0xFFFF { r := true, w := true, x := true } 1 (2 ^ 8 - 1) 5 = .ok t) :=
  ⟨reaches_of (by decide +kernel), ok_of (by decide +kernel), ok_of (by decide +kernel)⟩
/-- AccessChecksTrap: a misaligned address, one that no page maps, and a write to a page without w; a store that needs a shadow line of a partition
that has none; tables whose reseller's stage maps nothing. -/
theorem witness_AccessChecksTrap : let s := (trapper.setStoker 0 { trapper.stoker 0 with
      tlb := [{ lease := 1, va := 0, size := 65536, pa := 0, attr := { r := true } }] })
    Issues s ∧ CanTrap s ∧ 0xFFF9 % 2 ≠ 0 ∧ 0xFFF8 % 8 = 0 ∧ codeLevel 4 = 2
    ∧ (match translateCtx s s.cur.ctx 0x10000 with | .error c => c | .ok _ => 0) = 4
    ∧ (match translateCtx s s.cur.ctx 0xFFF8 with
      | .ok (s1, e) => (match pageCheck s1 (meWho s) 0xFFF8 e { w := true } with | .error c => codeLevel c | .ok _ => 9)
      | .error _ => 9) = 2
    ∧ (reachB trapper 0xFFF8 8 { w := true } = true ∧ isPhased trapper (meWho trapper) 0xFFF8 { r := true, w := true, x := true } = true ∧ (lineRec trapper (0xFFF8 / 128)).cur = none
      ∧ poolLimit (trapper.part 33) (lineHome (0xFFF8 / 128)) ≤ Tbl.get 0 (trapper.part 33).inUse (lineHome (0xFFF8 / 128)))
    ∧ (let u := trapper.setPart 33 { trapper.part 33 with croot := 0x100020000 }
      (match translateCtx u u.cur.ctx 0x10000 with | .error c => c | .ok _ => 0) = 5 ∧ (u.lease u.cc.lease).st = .running ∧ (u.lease u.cc.lease).work = none) := by decide +kernel
/-- OwnStoreIsReadBack: the first store to a line. -/
theorem witness_OwnStoreIsReadBack : (∃ t, storeAt (pooled id) (meWho base) 0x78 0x78 { r := true, w := true } 8 (2 ^ 64 - 1) 5 = .ok t)
    ∧ (lineRec (pooled id) 0).cur = none ∧ (meWho base).proc = none :=
  ⟨ok_of (by decide +kernel), by decide +kernel, by decide +kernel⟩
/-- ExactValuesEncodeToThemselves: the largest finite code of E4M3 and the largest subnormal one of FP32. -/
theorem witness_ExactValues : 0x7E < 2 ^ Fmt.e4m3.width ∧ 0x7E % Fmt.e4m3.signW ≤ Fmt.e4m3.maxFin ∧ 0x7FFFFF % Fmt.fp32.signW ≤ Fmt.fp32.maxFin
    ∧ Fmt.e4m3.isSub 0x7E = false := by decide +kernel
/-- TrapsEnterOrFreeze: a context with a handler, one in its handler, and one without. -/
theorem witness_Traps : (trapper.cc.st = .ready ∧ trapper.cc.busy = none ∧ trapper.cc.wait = none ∧ CanTrap trapper)
    ∧ (withC (fun c => { c with status := 4, tvec := 0x1000 })).cc.status.extractLsb' 2 1 = 1#1 ∧ base.cc.tvec = 0
    ∧ (base.lease base.cc.lease).st = .running := by decide +kernel
/-- EretRestores: a context in its handler, and one that traps and returns. -/
theorem witness_Eret : let s := withC (fun c => { c with status := 6, tvec := 0x1000 })
    Issues s ∧ s.cc.status.extractLsb' 2 1 = 1#1 ∧ s.cc.repstate.getLsbD 31 = false
    ∧ Issues trapper ∧ CanTrap trapper ∧ trapper.cc.status.getLsbD 4 = false := by decide +kernel
/-- CsrReads and CsrWrites: what may be written, and what traps. -/
theorem witness_Csr : let s := withC (fun c => { c.wg 1 3 with tvec := 0x1000 })
    Issues s ∧ CanTrap s ∧ (s.cc.rg 1).extractLsb' 0 2 ≠ 0#2 ∧ (s.cc.rg 1).extractLsb' 8 56 = 0#56
    ∧ (s.cc.rg 1).extractLsb' 2 62 = s.cc.status.extractLsb' 2 62 ∧ (s.cc.rg 0).extractLsb' 0 2 = 0#2
    ∧ (0x0BF : BitVec 12).toNat ∉ [0, 1, 2, 3, 4, 5, 0x10, 0x11, 0x20, 0x21, 0x30, 0x31, 0x40, 0x41, 0x50] := by decide +kernel
/-- WaitsHaltsAndBreaks: with an event and without, with a level attached and without. -/
theorem witness_Waits : let s := withL (fun l => { l with dbg := [0, 2] }) (fun c => { c with evq := [1] })
    Issues s ∧ s.cc.evq ≠ [] ∧ base.cc.evq = [] ∧ (s.lease s.cc.lease).dbg.contains 2 = true ∧ Issues trapper ∧ CanTrap trapper
    ∧ (trapper.lease trapper.cc.lease).dbg.contains 2 = false := by decide +kernel
/-- RepStarts: an LDD behind the prefix, which may follow it, and a BRK, which may not. -/
theorem witness_RepStarts : let s (w : Nat) := { trapper with mem := trapper.mem.writeN 4 4 w }
    Issues (s 0) ∧ CanTrap (s 0) ∧ (match fetchWord (s 0x69000000) 0 4 with | .ok x => x.2 | .error _ => 0) = 0x69000000
    ∧ repOk 0x69000000 6 = true ∧ repOk 0x69000000 1 = false ∧ repOk 0x98000008 0 = false := by decide +kernel
/-- ConfigLoadStarts: the whole image, and 63; with three loads outstanding, and with four. -/
theorem witness_ConfigLoadStarts : let s (n : Nat) := { regs 0x7F 63 0 0 with loads := (List.range n).map (fun i => { ticket := i + 1, lease := 1 }) }
    let mine (s : State) := s.loads.filter (fun x => x.ctx == s.cur.ctx && x.ticket != 0 && (x.st == .reading || x.st == .running))
    Issues (s 3) ∧ ((s 3).cc.rg 1).extractLsb' 9 55 = 0#55 ∧ ((s 3).cc.rg 1).extractLsb' 0 7 = 0x7F#7
    ∧ (((s 3).cc.rg 2).extractLsb' 0 7).toNat < 64 ∧ (mine (s 3)).length < 4 ∧ 4 ≤ (mine (s 4)).length := by decide +kernel
/-- ConfigWaitReports: an unknown ticket, one outstanding, completed or refused, and all tickets. -/
theorem witness_ConfigWaitReports : let s (st : LoadSt) := { (trapper.modCtx 0 (fun c => c.wg 1 7)) with loads := [{ ticket := 7, lease := 1, st, fin := 1 }] }
    Issues (s .running) ∧ (s .running).cc.rg 1 ≠ 0 ∧ (∀ y ∈ trapper.loads, y.ctx = trapper.cur.ctx → y.ticket ≠ 7)
    ∧ ({ ticket := 7, lease := 1, st := .done, fin := 1 } : Load).recent (s .done) = true
    ∧ ({ ticket := 7, lease := 1, st := .refused 8, fin := 1 } : Load).recent (s (.refused 8)) = true ∧ CanTrap (s (.refused 8))
    ∧ ((7 : Nat) = ((s .done).cc.rg 1).toNat) ∧ (s .done).cc.rg 0 = 0 ∧ (∀ y ∈ (s .done).loads, y.ctx ≠ (s .done).cur.ctx ∨ y.st = .done) := by
  decide +kernel
/-- TileWordsAreWritten: the first step and lane and the last, of tile 0; a switch word that no check refuses. -/
theorem witness_TileWords : let s := rig (fun c => c.wg 1 0x7F80000)
    Issues s ∧ Selects s (0x7F80000 &&& 0) 0 ∧ Selects s 0x7F80000 0 ∧ TreeOpen s 0
    ∧ opwBad (overTheTree s 0) 0 255 false 0 = false ∧ opwBad (overTheTree s 0) 0 0 false 0 = false
    ∧ switchBad s (s.lease 1).image 1 0 (((s.tile 0).sw.filter (fun e => e.1 != 0)).map (fun e => e.2)) 0x2C40 = false ∧ swSanc 0x2C40 = false
    ∧ (s.tile 0).inPassage (swIn 0x2C40) (swCls 0x2C40) = false := by decide +kernel
/-- PortsBindAndUnbind: a declared port, one that the image does not declare, and each state of its engine. -/
theorem witness_Ports : let s (e : Engine) (st : LeaseSt) := withL (fun l => { l with image := img, engines := [(3, e)], st }) (fun c => c.wg 1 3)
    Issues (s {} .running) ∧ (portRec (s {} .running) 1 3).isSome = true ∧ portRec (s {} .running) 1 31 = none
    ∧ (eng (s { bound := true, st := .running } .running) 1 3).bound = true ∧ ((s {} .frozen).lease 1).st ≠ .running
    ∧ (eng (s { bound := true, st := .running, dir := true } .running) 1 3).inbuf = []
    ∧ isOk (readVaWords (s {} .running) 0 8 0 9) = true
    ∧ descBad ((List.replicate 9 0).map (BitVec.ofNat 64)) = false ∧ descBad (([0, 0xFFFF000000000000] ++ List.replicate 7 0).map (BitVec.ofNat 64)) = true := by
  decide +kernel
/-- TokensInAndOut: the first queue and the last, empty, full and in the middle of a packet; a token of kind 5 and one of kind 6; a take of the
router's earlier in the fc. -/
theorem witness_Tokens : let s (q : List Token) := (rig (fun c => (c.wg 1 0x3000000).wg 2 0x500000001)).modTile 0 (fun t => { t with inq := [(3, q)], outq := [(3, q)] })
    let mid := (s []).modTile 0 (fun t => { t with hold := [(holdKey 6 3, 1)] })
    let v : Word := 0x3000000
    Issues (s []) ∧ Selects (s []) v 0 ∧ Selects (s []) 0 0 ∧ v.extractLsb' 19 5 = 0#5 ∧ v.getLsbD 27 = false ∧ (v.extractLsb' 24 3).toNat = 3
    ∧ ((0x500000001 : Word).extractLsb' 32 4).toNat < 6 ∧ 5 < ((0x600000001 : Word).extractLsb' 32 4).toNat
    ∧ (((s []).tile 0).iq 3).length < 16 ∧ 16 ≤ (((s (List.replicate 16 {})).tile 0).iq 3).length ∧ injSpent ((s []).lease 1) = false ∧ blocksMeet (s []) ((s []).cur.ctx / 8) (tileStoker 0) = true
    ∧ ((s [{}]).tile 0).oq 3 = [{}] ∧ ((s []).tile 0).oq 3 = [] ∧ TreeOpen (s []) 0 ∧ ((s []).tile 0).qRoom 3 = true ∧ ((s []).tile 0).held 6 3 = 0
    ∧ (mid.tile 0).held 6 3 ≠ 0 ∧ Issues mid ∧ (mid.lease 1).st = .running ∧ lateFor (s []) (.outq 0 3) 0 = false
    ∧ lateFor { s [] with dues := [.served (.outq 0 3) 1] } (.outq 0 3) 0 = true ∧ ((s []).tile 0).otaken = [] := by decide +kernel
/-- SweepListsStalledJoins: no join, and a list of none to store. -/
theorem witness_Sweep : Issues base ∧ (base.cc.rg 1).extractLsb' 16 48 = 0#48 ∧ sweepTiles base 1 Tile.stalledJoin = []
    ∧ isOk (storeWords base 0 0 []) = true := by decide +kernel
/-- LeaseFormsStart: lease 2 of the same partition, running, draining, busy and saved, with a place at tile 8; the issuing lease itself, and contexts
halted by an instruction and by a debugger; a level without rights. -/
theorem witness_LeaseForms : let s (st : LeaseSt) (w : Option Work) := (((rig (fun c => c.wg 1 2)).setLease 2 { st, part := 33, image := img, row := 0, col := 8, work := w }).setPart 33
      { base.part 33 with rights := 1, dietab := 8, allot := (List.range 32).map (fun i => (i, 0xFFFFFFFFFFFFFFFF)) }).setPart 32 { dietab := 8, pcfg := 1 }
    Issues (s .running none) ∧ ((s .running none).cc.rg 1).toNat = 2 ∧ ((s .running none).lease 2).st ≠ .none
    ∧ ((s .running none).lease 2).part = ((s .running none).lease (s .running none).cc.lease).part
    ∧ ((s .running none).part 33).rights.getLsbD 0 = true ∧ loadsOpen (s .running none) 2 = false ∧ ((s .running (some {})).lease 2).work.isSome = true
    ∧ (firstFit (s .saved none) 33 img (takenNow (s .saved none) [] none) (leaseHomes (s .saved none) 2)).isSome = true
    ∧ physDie (s .running none) 33 0 = some 0 ∧ mayMove (s .running none) 2 (tileKey 0 8 8) = true ∧ loadsOpen (s .running none) 2 = false
    ∧ ((s .running none).part 33).rights.getLsbD 4 = false ∧ (s .running none).cc.lease ≠ 2
    ∧ (let o := rig (fun c => { (c.wg 1 1).wg 2 1 with tvec := 0x1000 })
      Issues o ∧ (o.cc.rg 1).toNat = 1 ∧ o.cc.lease = 1 ∧ o.cc.rg 2 = 1 ∧ (o.lease 1).st = .running ∧ (o.lease 1).work = none ∧ (o.lease 1).starting = false ∧ CanTrap o
      ∧ (o.part 33).rights.getLsbD 0 = false ∧ (o.lease 1).engines = [] ∧ Tbl.sorted o.ctxs = true
      ∧ ((o.modCtx 1 (fun c => { c with lease := 1, st := .halted, dbgHalt := true })).ctx 1).dbgHalt = true) := by decide +kernel
/-- RingTablesAreWritten: a ring that the image does not declare; an undefined ring's descriptor, and a defined ring's first stop with an empty slot and with
a full one, and its last entry and the first past it. -/
theorem witness_RingTables : let s (g : Ring) := withL (fun l => { l with image := img, rings := [(0, g)] }) (fun c => c.wg 1 0x10)
    let d : Ring := { st := .defined, cap := 4, stops := [{}, {}] }
    Issues (s {}) ∧ ((s {}).lease 1).image.rings[0]? = some { stops := [(0, 0), (0, 1)], laps := 2, off := 0x100 } ∧ ringWaiter (s {}) 1 0 = none
    ∧ (ringOf (s {}) 1 0).st = .undefined ∧ isOk (readVaWords (s {}) 0 8 0 5) = true
    ∧ (ringOf (s d) 1 0).st = .defined ∧ stopTile (s d) 1 { stops := [(0, 0), (0, 1)], laps := 2, off := 0x100 } 1 = some 1
    ∧ TreeOpen (s d) 1 ∧ ((ringOf (s d) 1 0).stop 1).slot 0 = none ∧ ((s d).cc.rg 1).toNat = 0 + 1 * 2 ^ 4
    ∧ isOk (readVaWords (s d) 0 8 0 2) = true ∧ (0xC10 : Nat) = 0 + 1 * 2 ^ 4 + 3 * 2 ^ 10 ∧ 3 < (ringOf (s d) 1 0).cap
    ∧ TreesOpen (s d) (stopTiles (s d) 1 { stops := [(0, 0), (0, 1)], laps := 2, off := 0x100 })
    ∧ ((s d).lease 1).image.rings[15]? = none ∧ (0x101F : Nat) = 15 + 1 * 2 ^ 4 + 4 * 2 ^ 10 ∧ (ringOf (s d) 1 0).cap ≤ 4
    ∧ (((ringOf (s { d with stops := [{ cw := some 0 }, {}] }) 1 0).stop 0).slot 0).isSome = true
    ∧ isOk (readVaWords (s d) 0 8 (0 + 16) ((bits 0 32 9 + 1) / 2)) = true
    ∧ (s d).cc.rg 0 = 0 ∧ (ringDefine (s {}) 1 0 { stops := [(0, 0), (0, 1)], laps := 2, off := 0x100 } [0x100, 0, 0, 0, 0]).isSome = true
    ∧ ringDefine (s {}) 1 0 { stops := [(0, 0), (0, 1)], laps := 2, off := 0x100 } [0x200000, 0, 0, 0, 0] = none := by decide +kernel
/-- RingsRunAndStop: a ring that the image does not declare, and each state of one that it does. -/
theorem witness_Rings : let s (g : Ring) := withL (fun l => { l with image := img, rings := [(0, g)] }) (fun c => c.wg 1 15)
    Issues (s {}) ∧ (s {}).cc.rg 1 = BitVec.ofNat 64 15 ∧ ((s {}).lease 1).image.rings[15]? = none ∧ (s {}).cc.rg 0 = BitVec.ofNat 64 0
    ∧ (ringOf (s { st := .stopped, beat := 3 }) 1 0).st = .stopped ∧ (ringOf (s { st := .running }) 1 0).ending ≠ some 3
    ∧ (ringOf (s { st := .running, ending := some 3 }) 1 0).ending = some 3 ∧ ringWaiter (s { st := .running }) 1 0 = none
    ∧ (ringOf (s { st := .done, stops := [{}, { kq := [{}] }] }) 1 0).stops = [{}, { kq := [{}] }]
    ∧ (((s { st := .defined }).modLease 1 (fun l => { l with st := .draining })).lease 1).st ≠ .running := by decide +kernel
/-- RouteClassAndEventForms: a packet of class 31 and of 256 words, the masks of one tile and of all, and events. -/
theorem witness_RouteClass : let s (v : Word) (q : List Word) := rig (fun c => { c.wg 1 v with evq := q })
    Issues (s 0x1FFF []) ∧ Selects (s 0x1FFF []) (((0x1FFF : Word).extractLsb' 32 32).setWidth 64) 0 ∧ (0x1FFF : Word).extractLsb' 51 9 = 0#9
    ∧ ((0x1FFF : Word).extractLsb' 0 5).toNat = 31 ∧ (s 0 []).cc.sendBuf = [] ∧ isOk (readVaWords (s 0x1F []) 0 4 0 1) = true
    ∧ Selects (s 0 []) ((0x8F80000 : Word) &&& ~~~(0xFF80000#64)) 0 ∧ (0x8F80000 : Word).extractLsb' 24 3 = 0#3
    ∧ ((0x8F80000 : Word).extractLsb' 19 5).toNat = 31 ∧ (0x8F80000 : Word).getLsbD 27 = true ∧ Tbl.sorted (s 0 []).tiles = true
    ∧ TreeOpen (s 0 []) 0 ∧ (s 0 [5]).cc.evq = 5 :: [] ∧ (s 0 []).cc.evheld = []
    ∧ ({ s 0 [] with dues := [.mask 0 31 true] } : State).dues = [.mask 0 31 true] ∧ evDue (s 0 []) 0 = 0 ∧ ((s 0 []).tile 0).iq 3 = [] := by decide +kernel
/-- EV.POST to the issuing context itself. -/
theorem witness_EvPost : let s : State := (((rig id).setPart 33 { base.part 33 with dietab := 8 }).setPart 32 { dietab := 8 })
    physDie s 33 ((0 : Word).extractLsb' 0 3).toNat = some 0 ∧ (leaseCtxs s 1).find? (fun j => j / 8 == (0 * 8 + 0) * 8 + 0) = some 0
    ∧ (s.ctx 0).evq.length + evDue s 0 < 255 ∧ (s.ctx 0).evheld = [] ∧ (s.ctx 0).st ≠ .free ∧ blocksMeet s (s.cur.ctx / 8) (0 / 8) = true
    ∧ (s.cur.ctx = 0) ∧ ({ s with dues := [.event 0 7] } : State).dues = [.event 0 7] := by decide +kernel
/-- OrderForms: a range of 2^48 − 1 bytes, and one of 2^48 in a context that can trap. -/
theorem witness_OrderForms : let s := trapper.modCtx 0 (fun c => (c.wg 1 0xFFFFFFFFFFFF).wg 2 0x1000000000000)
    Issues s ∧ CanTrap s ∧ (s.cc.rg 1).toNat < 2 ^ 48 ∧ 2 ^ 48 ≤ (s.cc.rg 2).toNat := by decide +kernel
/-- AtomicsReturnOldAndWrite, BarriersAndBuffers: an object at the last bytes of a memory-side page. -/
theorem witness_InPlace : (∃ s1 e pa, Reaches (msBase id) 0xFFFC 4 inPlace s1 e pa) ∧ (∃ s1 e pa, Reaches (msBase id) 0xFFF8 8 inPlace s1 e pa)
    ∧ (∃ s1 e pa, Reaches (msBase id) 0xFFE0 32 inPlace s1 e pa) ∧ Issues (msBase id) :=
  ⟨reaches_of (by decide +kernel), reaches_of (by decide +kernel), reaches_of (by decide +kernel), by decide +kernel⟩
/-- BarriersAndBuffers: counts at the ends of their ranges, a barrier's parity met and not met, and blocks that CB.INIT takes and refuses. -/
theorem witness_Barriers : let s (w : Nat) := { msBase (fun c => { c.wg 1 65535 with tvec := 0x1000 }) with mem := ({} : State).mem.writeN 0 32 w }
    let block : Nat := 4 * 2 ^ 81 + 2 * 2 ^ 128
    Issues (s 0) ∧ CanTrap (s 0) ∧ 1 ≤ ((s 0).cc.rg 1).toNat ∧ ((s 0).cc.rg 1).toNat ≤ 65535 ∧ (barRead (s 0).mem 0).par = 0
    ∧ (barRead (s (2 ^ 36)).mem 0).left ≠ 0 ∧ (cbRead (s 0).mem 0).ok (s 0) 1 = false ∧ (cbRead (s block).mem 0).ok (s block) 1 = true
    ∧ (cbRead (s block).mem 0).count = 2 ∧ (cbRead (s block).mem 0).room = 2 ∧ (s block).cc.lease = 1
    ∧ (s 0).dues = [] ∧ ({ s 0 with dues := [.served (.bar 0) 1] } : State).dues = [.served (.bar 0) 1]
    ∧ (left (exec (.barWait 1 0 0) (s 0))).cc.wait = some (.bar false 0 0 false none) := by decide +kernel
/-- ProofLevels: no level open, two of them, and four; a level of 16 ranges and one of 15. -/
theorem witness_ProofLevels : let s (ls : List (List (Nat × Nat))) := withL (fun l => { l with image := img, snaps := [{ unit := agentUnit (.ctx 0) 6, levels := ls }] }) (fun c => { ((c.wg 1 128).wg 2 0xFF).wa 1 0xFF80 with tvec := 0x1000 })
    Issues (s []) ∧ CanTrap (s []) ∧ ((s []).cc.ra 1).toNat % 128 = 0 ∧ ((s []).cc.rg 1).toNat % 128 = 0 ∧ 1 ≤ ((s []).cc.rg 1).toNat
    ∧ otherHolds (s []) 1 (agentUnit (.ctx 0) 6) 0xFF80 128 = false ∧ (snapLevels (s []) 1 (agentUnit (.ctx 0) 6)).length = 0
    ∧ (snapLevels (s [[(0, 128)], []]) 1 (agentUnit (.ctx 0) 6)).length = 2 ∧ 4 ≤ (snapLevels (s [[], [], [], []]) 1 (agentUnit (.ctx 0) 6)).length
    ∧ Tbl.sorted (s []).lines = true
    ∧ (let many (n : Nat) := [(List.range n).map (fun i => (2 ^ 20 + i * 128, 128))]
      (snapLevels (s (many 16)) 1 (agentUnit (.ctx 0) 6)) = many 16 ∧ 16 ≤ ((many 16).headD []).length ∧ ((many 15).headD []).length < 16
      ∧ otherHolds (s (many 16)) 1 (agentUnit (.ctx 0) 6) 0xFF80 128 = false ∧ (6 + 8 * 1 : Nat) = 14) := by decide +kernel
/-- TagTables: the first slot and the last; updates of one slot by two contexts. -/
theorem witness_TagTables : let s := rig (fun c => c.wg 2 0xFF)
    Issues s ∧ Selects s 0 0 ∧ s.cc.rg 1 = 0 ∧ s.cc.rg 2 = BitVec.ofNat 64 255 ∧ s.cc.rg 0 = BitVec.ofNat 64 0 ∧ Tbl.sorted (s.tile 0).tags = true
    ∧ (∀ e ∈ (s.tile 0).tags, e.1 < 256) ∧ ({ s with dues := [.tag 1 0 none 0] } : State).dues = [.tag 1 0 none 0]
    ∧ ({ s with dues := [.tag 1 0 (some 9) 5, .tag 0 0 (some 9) 6] } : State).dues = [.tag 1 0 (some 9) 5, .tag 0 0 (some 9) 6] := by decide +kernel
/-- CopiesStartAndReport: a well-formed fill, a malformed descriptor, and tickets unknown, in flight and ended. -/
theorem witness_Copies : let s (n : Nat) (e : List EndedCopy) := { withC (fun c => { c.wg 1 5 with tvec := 0x1000, cpyTk := 65535, cpyEnded := e }) with
      copies := (List.range n).map (fun i => { ticket := i + 5, lease := 1 }) }
    Issues (s 0 []) ∧ CanTrap (s 0 []) ∧ isOk (readVaWords (s 0 []) 0 8 0 8) = true ∧ ((s 0 []).cc.rg 0).extractLsb' 2 62 = 0#62
    ∧ ({ form := 4, desc := List.replicate 8 0xFFFFFFFFFFFFFFFF } : Copy).bad (s 0 []) = true
    ∧ ((s 1 []).copies.find? (fun x => x.ticket == 5)).isSome = true ∧ ((s 0 []).cc.rg 1).toNat = 5
    ∧ (s 0 [{ ticket := 5 }]).cc.cpyEnded.getLast? = some { ticket := 5 } ∧ 16 ≤ (s 16 []).copies.length ∧ (s 0 []).cc.rg 0 = 0
    ∧ (let shared (t : State) := ((List.range 8).map (fun i => (t.copies.filter (fun c => c.ctx == 0 / 8 * 8 + i)).length - 2)).sum
      let crowd (n m : Nat) : State := { s 0 [] with copies := (s n []).copies ++ (List.range m).map (fun i => { ctx := 1 + i / 16, ticket := i + 1, lease := 1 }) }
      shared (crowd 15 18) < 32 ∧ 32 ≤ shared (crowd 2 38) ∧ ((crowd 15 18).copies.filter (fun c => c.ctx == 0)).length < 16
      ∧ 2 ≤ ((crowd 2 38).copies.filter (fun c => c.ctx == 0)).length)
    ∧ ({ form := 4, desc := [0, 0, 0, 0x10000, 65536, 0, 0, 0], lease := 1 } : Copy).bad ((s 0 []).modLease 1 (fun l => { l with image := img })) = false := by decide +kernel
/-- PressAndFlueForms: a press tile named with its lease running, frozen, and with a full queue; a tile that is no press tile. -/
theorem witness_PressForms : let s (st : LeaseSt) (u : List PTok) := (withL (fun l => { l with st, image := { img with tiles := [{ press := true }] } })
      (fun c => { (c.wg 1 0x40).wg 2 0x3FFF with tvec := 0x1000 })).modTile 0 (fun t => { t with press := { t.press with ctl := u } })
    let full : List PTok := List.replicate 16 {}
    Issues (s .running []) ∧ Selects (s .running []) 0 0 ∧ isPressTile (s .running []) 0 = true ∧ Selects (s .frozen []) 0 0 ∧ isPressTile (s .frozen []) 0 = true
    ∧ ((s .frozen []).lease (s .frozen []).cc.lease).st ≠ .running ∧ TreeOpen (s .running []) 0 ∧ 16 ≤ ((s .running full).tile 0).press.ctl.length
    ∧ (Token.mk 0 0).pay.extractLsb' 0 32 = 0#32 ∧ ((0x3FFF : Word).extractLsb' 14 50 = 0#50) ∧ CanTrap (s .running [])
    ∧ ((s .running []).setTile 32 { lease := some 1 }).cc.rg 1 = 0x40 ∧ Selects ((s .running []).setTile 32 { lease := some 1 }) 0x40 32
    ∧ isPressTile ((s .running []).setTile 32 { lease := some 1 }) 32 = false ∧ injSpent ((s .running []).lease 1) = false
    ∧ lateFor (s .running []) (.ctl 0) 1 = false ∧ lateFor { s .running [] with dues := [.served (.ctl 0) 9] } (.ctl 0) 1 = true
    ∧ nextReq (s .running []) (ctxFlue 0) = none ∧ flueHeld (s .running []) (ctxFlue 0) < 256
    ∧ 256 ≤ flueHeld ((s .running []).modTile 0 (fun t => { t with freply := [List.replicate 256 {}] })) (ctxFlue 0) := by decide +kernel
/-- OperandsJoinAndResultsGo: an open and a closed queue that an actor gates on, and a lane that is not its last. -/
theorem witness_Operands : let s := fires (fun t => { t with inq := [(3, [{ kind := 2 }, {}])], actors := [(0, 0xFFFFFFFFFFFFFFFF)], astate := [(0, { closed := [0] })] })
    let f : Firing := {}
    s.ct.firing = some f ∧ (3 : Nat) ∉ (s.ct.act f.actor).closed ∧ s.ct.iq 3 = { kind := 2 } :: [{}] ∧ (0 : Nat) ∈ (s.ct.act f.actor).closed
    ∧ f.lane + 1 < dLane0 (s.ct.desc f.actor) + dLanes (s.ct.desc f.actor) ∧ (Opd.val { kind := 0, pay := 0 } none).isVal = true
    ∧ (8 : Nat) ∈ [8, 16, 32] ∧ (32 : Nat) ∈ [8, 16, 32] ∧ (∃ e, Opd.err e ∈ [Opd.bub, .err 5]) ∧ (∀ e, Opd.err e ∉ [Opd.bub, .eos])
    ∧ ¬ (Opd.eos = Opd.eos ∧ Opd.val { kind := 0, pay := 0 } none = .eos ∧ Opd.eos = .eos) :=
  ⟨by decide +kernel, by decide +kernel, by decide +kernel, by decide +kernel, by decide +kernel, by decide +kernel, by decide +kernel, by decide +kernel, ⟨5, by decide⟩,
    by intro e; simp, by decide⟩
/-- ElementArithmetic: values of a type at the ends of its range. -/
theorem witness_ElementArithmetic : let s := fires (fun t => { t with kreg := [(0, 0x7FFFFFFF), (1, 0x80000000)] })
    s.ct.firing.isSome = true ∧ src s 1 0 = (s, .val { kind := 0, pay := 0x7FFFFFFF } none) ∧ src s 1 1 = (s, .val { kind := 0, pay := 0x80000000 } none)
    ∧ joinOps 0 0 [Opd.val { kind := 0, pay := 0 } none, Opd.val { kind := 0, pay := 1 } none]
        = .vals (.val { kind := 0, pay := 0 } none) (.val { kind := 0, pay := 1 } none) .bub
    ∧ tyFmt (6 : BitVec 4).toNat = some .e4m3 ∧ tyFmt (7 : BitVec 4).toNat = some .e5m2 ∧ tyFmt (5 : BitVec 4).toNat = some .fp32 ∧ tyInt (10 : BitVec 4).toNat = some (8, false) := by decide +kernel
/-- R260 (listing of 08): the halves of PAIR16 add by themselves; E4M3 compares under the scale of a header. -/
theorem test_pair16 : let s := fires (fun t => { t with kreg := [(0, 0x7FFF0001)], inq := [(0, [{ kind := 0, pay := 0x0001FFFF }])] })
    ((left (exec (.elemAdd 1 2 2 9 0 0 0) s)).tile 0).oq 0 = [{ kind := 0, pay := 0x80000000 }]
    ∧ ((left (exec (.elemCmplt 2 1 2 9 0 0 0 0) s)).tile 0).oq 0 = [{ kind := 0, pay := 0x00010001 }] := by decide +kernel
/-- R254: minima of a pair whose first operand has ended, in each join mode. -/
theorem test_join : joinOps 0 5 [Opd.val { kind := 0, pay := 7 } none, .eos] = .fault 7 1
    ∧ joinOps 1 5 [Opd.val { kind := 0, pay := 7 } none, .eos] = .vals (.val { kind := 0, pay := 7 } none) (.val { kind := 0, pay := 5 } none) .bub
    ∧ joinOps 2 5 [Opd.val { kind := 0, pay := 7 } none, .eos] = .res none := by decide +kernel
/-- ElementTransportAndControl: sources of a value, of EOS, of an error and of a bubble; a MERGE's select; a PHASEN, an RC.SEND and a CVTS of a
block of one kind and of more. -/
theorem witness_Transport : let s := fires (fun t => { t with inq := [(0, [{}]), (1, [{ kind := 2 }]), (2, [{ kind := 3, pay := 0x80000001 }]), (3, [{ kind := 0, pay := 7 }])], kreg := [(4, 0x00010000)], firing := some { chain := none } })
    let s1 := fires (fun t => { t with firing := some { chain := some { kind := 0, pay := 1 } }, inq := [(0, [{}, {}])], hdr := [(0, some 0x7FFF1000)] })
    let v := Opd.val { kind := 0, pay := 0 } none
    s.ct.firing = some { chain := none } ∧ (src s 2 0).2 = Opd.of {} none ∧ (src s 3 0).2 = .eos ∧ (src s 4 0).2 = .err 0x80000001 ∧ (src s 0 0).2 = .bub
    ∧ (popQ s (dSelq (s.ct.desc 0))).2 = v ∧ (src s 5 0).2 = .val { kind := 0, pay := 7 } none ∧ (7 : Code).extractLsb' 0 3 = 7#3
    ∧ (s.ct.chan injKey).length ≤ 2 ∧ Tbl.get 0 s.ct.rcOpen 0 = 0 ∧ (({} : Firing).wait = none)
    ∧ (firingOf s1).chain = some { kind := 0, pay := 1 } ∧ s1.ct.conv = {} ∧ (src (s1.modT (fun t => { t with conv := {} })) 2 0).2.isVal = true
    ∧ Tbl.get none s1.ct.hdr 0 = some 0x7FFF1000 ∧ 1 < ((0x7FFF1000 : Code).extractLsb' 16 8).toNat + 1
    ∧ (lmacStep 0 0 0x3F 0 127 127).isSome = true
    ∧ (let last (q : List Token) := fires (fun t => { t with firing := some { chain := none }, inq := [(0, q)], hdr := [(0, some 0x10800)]
                                                             conv := { vals := [{ kind := 0, pay := 0x40000000 }], hdr := some 0x10800 } })
      let off (t : State) := t.modT (fun t => { t with conv := {} })
      (last [{}]).ct.conv = { vals := [{ kind := 0, pay := 0x40000000 }], hdr := some 0x10800 } ∧ ((0x10800 : Code).extractLsb' 16 8).toNat = 1
      ∧ (src (last [{}]) 2 0).2.isVal = true ∧ (src (last [{}]) 2 0).1.ct.conv = (last [{}]).ct.conv
      ∧ (src (off (off (last [{ kind := 2 }]))) 2 0).2 = .eos ∧ (off (last [{ kind := 2 }])).ct.conv = {}
      ∧ (src (off (off (last [{ kind := 2 }]))) 2 0).1.ct.conv = {}
      ∧ (popQ (last [{ kind := 2 }]) (dSelq ((last []).ct.desc 0))).2 = .eos ∧ (popQ (last [{ kind := 3, pay := 9 }]) (dSelq ((last []).ct.desc 0))).2 = .err 9
      ∧ Opd.ofLane (some eosTok) = .eos) := by decide +kernel
/-- MemoryNodes: the bank's last byte and the first one past it, operands with values, an access that makes none and is due, one misaligned, one of a
port that no engine serves, a load, a store and an atomic that their page admits, and a return. -/
theorem witness_Nodes : let q : NodeReq := { seq := 3, first := true, last := true, dst := 2, pos := .edge }
    let s (q : NodeReq) := (fires (fun t => { t with kreg := [(0, 65535), (1, 65536)] })).modLease 1 (fun l => { l with nodes := [q] })
    let en (a : Option Nat) : NodeReq := { q with addr := a, typ := 2, opc := 0x4C }
    let b (a : Option Nat) (ms : Bool) : State := (s (en a)).modLease 1 (fun l => { l with engines := [(0, { bound := true, st := .running, base := 2, exts := (base.stoker 0).tlb.map (fun e => { e with attr := { e.attr with ms } }) })] })
    let may (t : State) (va : Nat) (need : Need) : Bool := match translateEng t 1 0 va with
      | .ok (s1, x) => (match pageCheck s1 { lease := 1, agent := .tile 0 } va x need with
        | .ok pa => pa % 4 == 0 && !x.attr.sysw && !agentWaits s1 { lease := 1, agent := .tile 0 } pa x.attr
        | .error _ => false)
      | .error _ => false
    (s q).ct.firing.isSome = true ∧ (readSrc (s q) 1 0 0).2 = .val { kind := 0, pay := 65535 } none ∧ 65535 + 1 ≤ 65536
    ∧ (readSrc (s q) 1 1 0).2 = .val { kind := 0, pay := 65536 } none ∧ ((s q).lease 1).nodes[0]? = some q ∧ q.st = .waiting
    ∧ leaseLive (s q) 1 = true ∧ nodeDue (s q) 1 q = true ∧ q.addr = none ∧ nodeDue (b (some 5) true) 1 (en (some 5)) = true
    ∧ (2 + 5 * 4) % 2 ^ 80 % 4 ≠ 0 ∧ (Tbl.get {} ((s (en (some 5))).lease 1).engines 0).bound = false ∧ ((s (en (some 5))).lease 1).st = .running
    ∧ may (b (some 5) false) 0xFFFC { r := true, noSys := true } = true ∧ may (b (some 5) false) 0xFFFC { w := true, noSys := true } = true
    ∧ may (b (some 5) true) 0xFFFC { r := true, w := true, ms := true, noProof := true, noSys := true } = true
    ∧ (let back : NodeReq := { q with st := .performed (some { kind := 0, pay := 9 }), pos := .home, opc := 0x4A }
      ((s back).lease 1).nodes[0]? = some back ∧ back.gone = false ∧ back.dst ≠ 6 ∧ ((s back).lease 1).nodes.take 0 = [])
    ∧ hasPort (s q) 1 0 = false
    ∧ ({ base with dues := [.stored 0 255] } : State).dues = [.stored 0 255] := by decide +kernel
/-- FabricEvents: a token that a word sends east, to a tile of the lease and to one of none; a ready actor; a step of one lane at step 30. -/
theorem witness_Hop : let s (g : Tile → Tile) (m : Option Nat) := ((withL (fun l => { l with image := img }) id).modTile 0 g).setTile 1 { lease := m }
    let hop : Tile → Tile := fun t => { t with chans := [(chanKey 3 0 0, [{ lease := 1 }])], sw := [(0, 0x2C00)] }
    let one : Tile → Tile := fun t => { t with actors := [(0, 0x8000000000000000)], firing := some { step := 30 } }
    ((s hop none).tile 0).lease = some 1 ∧ leaseLive (s hop none) 1 = true ∧ ((s hop none).lease 1).st = .running
    ∧ ((s hop none).tile 0).chan (chanKey 3 0 0) = [{ lease := 1 }] ∧ (s hop none).loads = [] ∧ ((s hop none).tile 0).ckpt = []
    ∧ ((s hop none).tile 0).routes 3 0 0 0 = [(1, 0x2C00)] ∧ sidePort (s hop none) 1 0 1 = none ∧ stepOut 0 1 = some 1 ∧ tileDie 1 = tileDie 0
    ∧ ((s hop none).tile 0).held 1 0 = 0 ∧ isTurn (noteLocal (s hop none) 0) 0 1 (tripleId 3 0 0) = true ∧ isTurn (noteLocal (s hop (some 1)) 0) 0 1 (tripleId 3 0 0) = true
    ∧ ((s hop (some 1)).tile 1).lease = some 1 ∧ (((s hop (some 1)).tile 1).chan (chanKey (farPort 1) 0 0)).length < 4
    ∧ ((s hop none).tile 1).lease ≠ some 1 ∧ swSanc 0x2C00 = false ∧ ((s hop none).lease 1).work = none ∧ Tbl.sorted (s hop none).tiles = true
    ∧ ((s (fun t => { t with readyQ := [3], actors := [(3, 0x8000000000000000)] }) none).tile 0).note.readyQ.head? = some 3
    ∧ dLanes (((s one none).tile 0).desc 0) = 1 ∧ dLane0 (((s one none).tile 0).desc 0) = 0 ∧ laneMay (s one none) 0 = true
    ∧ ((s one none).tile 0).atWord1 { step := 30 } = false ∧ ((s one none).tile 0).op 30 0 = 0 := by decide +kernel
/-- FabricEvents: a load with a wave to send, with none, and one that its image stops; a tile with a wave; a thread that leaves, and the choice of
the block scheduler. -/
theorem witness_Loads : let s (x : Load) (w : List Wave) := ({ base with loads := [x] }).modTile 0 (fun t => { t with waves := w })
    let c : ConfRec := { idx := 5, cap := 1 }
    let th : Thread := { tok := { kind := 4, pay := 0x14000000 } }
    let u (conf : Nat) (es : Tbl (List Thread)) (o : List Token) := ((withL (fun l => { l with image := { img with confs := [c] }, conf, entryq := es }) id).modTile 0
      (fun t => { t with outq := [(3, o)] }))
    let r : Load := { ctx := 0, ticket := 7, lease := 1, st := .running, send := [(0, {})], left := [0] }
    findLoad (s r []) 0 7 = some r ∧ blocksMeet (s r []) (0 / 8) (tileStoker 0) = true ∧ r.send.find? (fun e => e.1 == 0) = some (0, {}) ∧ mayReconfigure (s {} [{ ctx := 9 }]) 0 = true ∧ Tbl.sorted ({ ctx := 9 } : Wave).cfg.tile.sw = true
    ∧ ((s {} [{ ctx := 9 }]).lease 1).nodes = [] ∧ ((s {} [{ ctx := 9 }]).tile 0).waves = [{ ctx := 9 }] ∧ r.notify = false ∧ ({ r with send := [], left := [] } : Load).st = .running
    ∧ findLoad (s {} [{ ctx := 9 }]) 9 0 = none ∧ findLoad (s { r with send := [], left := [] } []) 0 7 = some { r with send := [], left := [] }
    ∧ isOk (resolveLoad (s { r with st := .reading } []) { r with st := .reading }) = false
    ∧ takeThread (((u 127 [] [th.tok]).tile 0).oq 3) = some ([th.tok], []) ∧ ((u 127 [] [th.tok]).tile 0).routes 6 0 3 0 = []
    ∧ confRec (u 127 [] []) 1 (th.tok.pay.extractLsb' 26 6).toNat = some c ∧ ((u 127 [] []).lease 1).conf ≠ (th.tok.pay.extractLsb' 26 6).toNat
    ∧ (entryQ (u 127 [] []) 1 5).length < c.cap ∧ schedCtx (u 127 [(5, [th])] []) 1 = some 0 ∧ ((u 127 [(5, [th])] []).ctx 0).st = .ready
    ∧ ((u 127 [(5, [th])] []).lease 1).dbgHalt = false ∧ ((u 127 [(5, [th])] []).lease 1).starting = false ∧ ((u 127 [(5, [th])] []).ctx 0).status.extractLsb' 2 1 = 0#1
    ∧ entryQ (u 127 [(5, [th])] []) 1 ((u 127 [(5, [th])] []).lease 1).conf = [] ∧ confLoading (u 127 [(5, [th])] []) 1 = false ∧ entryQ (u 127 [(5, [th])] []) 1 127 = [] ∧ confIdle (u 127 [(5, [th])] []) 1 127 = true
    ∧ threadEntry (u 127 [(5, [th])] []) 1 127 = none ∧ Tbl.get [] ((u 127 [] []).tile 0).threadIn 0 = []
    ∧ nextConf (u 127 [(5, [th])] []) 1 = some 5 := by decide +kernel
/-- EngineAndRingEvents: engines with an EOS to send, with an element to read and with one to commit, a wide one with a beat; rings at beat 0 and at
beat 3, and a kindle entry. -/
theorem witness_Engines : let s (e : Engine) (r : Ring) := ((withL (fun l => { l with image := img, engines := [(0, e)], rings := [(0, r)], endpoints := [{ bytes := 8, write := true }] }) id).modTile 0
      (fun t => { t with press := { t.press with wout := [{ slots := [1] }] } }))
    let e : Engine := { bound := true, st := .running, ext := [2, 1, 1, 1, 1], fmt := 2, host := some 0 }
    let g (b : Nat) : Ring := { st := .running, beat := b, stops := [{ cw := some 0, kq := [{}] }, {}] }
    (s e {}).lease 1 = { (s e {}).lease 1 with st := .running, dbgHalt := false } ∧ injSpent ((s e {}).lease 1) = false ∧ hbmSpent ((s e {}).lease 1) = false
    ∧ (eng (s { e with eosDue := true } {}) 1 0).eosDue = true ∧ (((s e {}).tile 0).chan (chanKey 0 0 0)).length ≤ 2 ∧ e.committed < e.total
    ∧ ((s e {}).tile 0).configured = true ∧ isOk (readElem (s e {}) 1 0 0) = true
    ∧ (match readElem (s e {}) 1 0 0 with | .ok x => isOk (elemTokens x.st 1 0 x) | .error _ => false) = true ∧ 0 + 1 ≠ e.total
    ∧ 0 + 1 < e.total ∧ isOk (writeElem (s { e with dir := true, inbuf := [{}] } {}) 1 0 0 {}) = true
    ∧ (eng (s { e with dir := true, side := 8 } {}) 1 0).inbuf = [] ∧ ((s e {}).tile 0).press.wout = [{ slots := [1] }]
    ∧ ringRec (s e (g 0)) 1 0 = some { stops := [(0, 0), (0, 1)], laps := 2, off := 0x100 } ∧ (ringOf (s e (g 3)) 1 0).ending = none
    ∧ [0, 3].all (fun b => let rr : RingRec := { stops := [(0, 0), (0, 1)], laps := 2, off := 0x100 }
        let u := (stopTiles (s e (g b)) 1 rr).foldl (fun s k => serve s (.bank k) bankRing) (s e (g b))
        (beatRetired u 1 rr (ringOf (s e (g b)) 1 0)).isSome && (ringWaiter (ringBeat u 1 0 rr (ringOf (s e (g b)) 1 0)) 1 0).isNone
          && (stopTiles (s e (g b)) 1 rr).all (fun k => !lateFor (s e (g b)) (.bank k) bankRing)) = true
    ∧ ((ringOf (s e (g 0)) 1 0).stop 0).kq = [{}] ∧ stopTile (s e (g 0)) 1 { stops := [(0, 0), (0, 1)], laps := 2, off := 0x100 } 0 = some 0
    ∧ ((s e (g 0)).tile 0).iq 0 = [] ∧ lateFor (s e (g 0)) (.bank 0) bankRing = false ∧ Tbl.get [] ((s e (g 0)).tile 0).threadIn 0 = [] := by decide +kernel
/-- PressAndFlueEvents: a token of each operation at the head of a press's queue; a beat for a running MMA and LOADW; a DRAIN in progress; requests of a
function and malformed ones at a flue, and a reply. -/
theorem witness_Press : let s (p : Press) (f : List Token) (r : List (List Token)) := ((withL (fun l => { l with image := { img with tiles := [{ press := true }] } })
      (fun c => { c with busy := some (.prsRead 4) })).modTile 0 (fun t => { t with press := p, fstream := f, freply := r, sw := [(0, 0xDE00)] }))
    let x (op : Nat) : PTok := { word := BitVec.ofNat 32 (op * 2 ^ 28) }
    isPressTile (s {} [] []) 0 = true ∧ ((s {} [] []).tile 0).halted = false ∧ ((s {} [] []).tile 0).lease = some 1 ∧ leaseLive (s {} [] []) 1 = true
    ∧ (List.range 6).map (fun i => pOp (x i).word) = [0, 1, 2, 3, 4, 5] ∧ mmaBad (x 1).word (4 <<< 32) = false
    ∧ drainOk ((x 3).word ||| 0x800#32) = true ∧ (x 4).word.extractLsb' 0 26 = 0#26 ∧ loadwOk (x 5).word = true ∧ (x 2).word.extractLsb' 0 14 = 0#14
    ∧ ((s {} [] []).ctx 0).busy = some (.prsRead 4) ∧ ((s {} [] []).ctx 0).status.extractLsb' 3 1 = 0#1 ∧ widePort (s {} [] []) 1 0 false = none
    ∧ pairOk 4 (wFmt (4 <<< 32)) = true ∧ ({ fmt := 4 } : Beat).fmt ≠ 8
    ∧ (nextReq (s {} [{ kind := 5, pay := 0x84000000 }, {}] []) 0).map (fun q => (q.tile, q.ctl, q.who == none, fluFn q.ctl)) = some (0, 0x84000000, true, 8)
    ∧ flueBad 0x84000000 = false ∧ flueHeld (s {} [] []) 0 + fluCnt 0x84000000 ≤ 256
    ∧ (nextReq (s {} [{ kind := 5, pay := 0x94000000 }, {}] []) 0).map (fun q => q.tile) = some 0 ∧ flueBad 0x94000000 = true
    ∧ strayTile (s {} [{ kind := 5, pay := 0x94000000 }, {}] []) 0 = none
    ∧ ((List.range 32).map (flueTile 0)).findSome? (fun j => (replyDue (s {} [] [[{}]]) j).map (fun r => (j, r))) = some (0, {}, .land false)
    ∧ lateFor (s {} [] []) (.bank 0) bankPress = false := by decide +kernel
/-- ContextEvents, its load from die 0 of the stack of die 5: over two seams, of the last module, and over the last of two circuits. -/
theorem witness_SeamLoad : let s := { base.setStoker 0 { base.stoker 0 with tlb := (base.stoker 0).tlb.map (fun e => { e with pa := 5 * 2 ^ 36 }) } with
      tags := [(5 * 2 ^ 20, 0x840)] }
    let up (w : Word) : Word := (((w.put 61 2 2).put 63 1 1).put 35 3 5).put 49 1 1
    let c := { s with fab := { s.fab with conn := [(3, up 0), (9, up 0)] } }
    let finds (s : State) (f : State → Nat → PageAttr → Bool) : Bool := match translateCtx s 0 0x780 with
      | .ok (s1, e) => !e.attr.sysw && (match pageCheck s1 (meWho s) 0x780 e { r := true } with
        | .ok pa => homeDie pa == 5 && f s1 pa e.attr && s1.fab == s.fab
        | .error _ => false)
      | .error _ => false
    let free (s : State) (pa : Nat) (a : PageAttr) : Bool :=
      let r : Req := { ctx := 0, op := .load (.g 3) 8 false, va := 0x780, pa, attr := a }
      !oldPath s r && !heldBehind s r
    finds s (fun s1 pa a => free s1 pa a && (serving s1 0 5 1).isEmpty && crossings (bits pa 7 4) 5 0 4 == [2 * 15, 2 * (16 * 7 + 15)]
      && (let x : FTok := { tile := 0, link := 2, cls := 1 }
        Tbl.get 0 ((seamMod s1 15).dir 0).used x.channel == 0 && !((seamMod s1 15).dir 0).undelivered.contains x)) = true
    ∧ finds c (fun s1 pa a => free s1 pa a && serving s1 0 5 1 == [3, 9] && (serving s1 0 5 1)[bits pa 7 4 % 2]? == some (329 - 320)) = true
    ∧ s.cur.ctx = 0 := by decide +kernel
/-- ContextEvents: a fill of 65,536 bytes of a bank at its last unit but one; accesses in flight; a boundary of one member at each end of the scopes; waits
and events; a sweeper's line. -/
theorem witness_ContextEvents : let fill (u : Nat) : Copy := { ticket := 5, lease := 1, form := 4, desc := [0, 0, 0, 0x10000, 65536], units := u }
    let s (f : Ctx → Ctx) (rs : List Req) := { withL (fun l => { l with image := img, arr := [{ unit := agentUnit (.ctx 0) 0 }, { unit := agentUnit (.ctx 0) 6 }] }) f with
      copies := [fill 65520], reqs := rs, parts := [(33, { base.part 33 with poolseg := [(0, 1)], await := [(7, 1)] })] }
    let ld : Req := { op := .load (.g 3) 8 false, res := some (.val 9) }
    let st (ms : Bool) : Req := { op := .store 8 7, va := 0x40, pa := 0x40, attr := { r := true, w := true, ms } }
    let u (c : CtxSt) (w : Option Wait) (b : Option Busy) := s (fun c' => { c' with st := c, wait := w, busy := b, evq := [5] }) []
    (s id []).copies.find? (fun y => y.ctx == 0 && y.ticket == 5) = some (fill 65520) ∧ leaseLive (s id []) 1 = true
    ∧ (match moveBytes (s id []) { fill 65520 with acqDone := true } with | .ok _ n _ _ => n == 8 | .fault _ _ _ => false) = true
    ∧ blocksMeet (s id []) ((fill 65520).ctx / 8) (tileStoker 0) = true ∧ (st true).came = none
    ∧ (fill 65520).units + 8 < (fill 65520).total ∧ (fill 65520).dst = .bank 0 0 ∧ selTile (s id []) 1 0 = some 0 ∧ 0 + (fill 0).total ≤ 65536
    ∧ findReq (fun y => y.ctx == 0) (s (fun c => { c with busy := some .access }) [ld]).reqs = some (0, ld)
    ∧ findReq (fun y => y.attr.ms && y.pa / 2 ^ 36 == 0 && reqFree (s id [st true]) y) (s id [st true]).reqs = some (0, st true)
    ∧ findReq (fun y => !y.attr.ms && y.op.isStore && y.pa / 2 ^ 36 == 0 && reqFree (s id [st false]) y) (s id [st false]).reqs = some (0, st false)
    ∧ isOk (storeAt (s id [st false]) (ctxWho (s id []) 0) 0x40 0x40 (st false).attr 8 (fullMask 8) 7) = true
    ∧ 0 < Tbl.get 0 ((s id []).part 33).await 7
    ∧ boundaryDue (s id []) 1 (namedUnit 0 8192) = true ∧ namedUnit 0 8192 = agentUnit (.ctx 0) 0 ∧ boundaryDue (s id []) 1 (namedUnit 6 8192) = true
    ∧ (u .waiting (some .wfe) none).cc.evq ≠ [] ∧ (u .waiting (some .wfe) none).cc.asyncDue = false
    ∧ copyWaitVal (u .waiting (some (.cpy 3 [4])) none) 0 [4] = some 0 ∧ copyWaitVal (u .waiting (some (.cpy 3 [5])) none) 0 [5] = none
    ∧ (u .ready none none).cc.evq ≠ [] := by decide +kernel
/-- ContextEvents: an event that a context with interrupts enabled takes. -/
theorem witness_AsyncEvent : let s := trapper.modCtx 0 (fun c => { c with status := 1, evq := [5] })
    s.cc.status.getLsbD 0 = true ∧ s.cc.tvec ≠ 0 ∧ s.cc.st = .ready ∧ s.cc.busy = none ∧ s.cc.evq ≠ [] ∧ leaseLive s s.cc.lease = true := by decide +kernel
/-- LeaseEvents: 2^24 cycles without progress with an open sink and without; a drained lease, one 105,000 cycles in work, one frozen, one copying, one
resuming, one that first fit can place, and one whose contexts have halted. -/
theorem witness_LeaseEvents : let s (st : LeaseSt) (c : Ctx → Ctx) := withL (fun l => { l with st, image := img, prog := 2 ^ 24, work := some {}, saved := some {} }) c
    let b : Part := { base.part 33 with dietab := 8, allot := [(0, 1)] }
    let p : State := ((((s .saved (fun c => { c with st := .free, lease := 0 })).modLease 1 (fun l => { l with waiting := true, part := 33 })).setPart 33 b).setPart 32 { dietab := 8 }).setTile 0 {}
    (s .running id).lease 1 = { (s .running id).lease 1 with st := .running, dbgHalt := false } ∧ throttled ((s .running id).lease 1) = false
    ∧ 2 ^ 24 ≤ ((s .running id).lease 1).prog ∧ stoppedPeers (s .running id) 1 = [] ∧ dbgStopped (s .running id) 1 = false ∧ sinkOpen (s .running (fun c => { c with busy := some (.phase 0) })) 1 = true
    ∧ sinkOpen (s .running id) 1 = false ∧ saveFaults (s .draining id) 1 (imageBytes (s .draining id) 1) = false
    ∧ saveFaults ((s .draining id).modLease 1 (fun l => { l with saveBytes := 1 })) 1 1 = true ∧ imageBytes ((s .draining id).modLease 1 (fun l => { l with saveBytes := 1 })) 1 = 1
    ∧ engineHolds (s .draining id) 1 = false ∧ splitsGroup (s .copying id) 1 0 = false ∧ ((s .copying id).part ((s .copying id).lease 1).part).quar.extractLsb' 0 1 = 0#1 ∧ drained (s .draining id) 1 = true ∧ Tbl.sorted (s .draining id).tiles = true
    ∧ (let cut := ((s .draining id).modLease 1 (fun l => { l with work := some { reloc := true, dest := 3 }, snaps := [{ unit := agentUnit (.tile 0) 2, levels := [[(0, 128)]] }] })).setTile
        1 { base.tile 0 with lease := some 1 }
      (cut.lease 1).work.any (fun w => w.reloc && splitsGroup cut 1 w.dest) = true ∧ drained cut 1 = true)
    ∧ owedWaits (s .freezing id) 1 = false ∧ owing (s .copying id) 1 = []
    ∧ (0 : Nat) + 105000 ≤ { s .draining id with fc := 105000 }.fc ∧ sentDone (s .freezing id) 1 = true ∧ ((s .copying id).lease 1).regionFault = false
    ∧ p.plans = [] ∧ (p.part 33).resize = [] ∧ (p.part 33).quar.extractLsb' 0 1 = 0#1 ∧ waitingSet p 33 = [65]
    ∧ firstFit p 33 (p.lease 1).image (takenNow p [] none) (leaseHomes p 1) = some 0
    ∧ ((s .running (fun c => { c with st := .halted })).lease 1).starting = false ∧ quiescent (s .running (fun c => { c with st := .halted })) 1 false = true
    ∧ Tbl.sorted (s .running id).ctxs = true ∧ (s .running (fun c => { c with st := .halted })).ctxs.all (fun e => e.2.st == .halted) = true := by decide +kernel

def pgMem : Memory :=
  [(0x100010000, 1), (0x100010008, 16), (0x10001000A, 16), (0x100010010, 31), (0x10001001A, 1), (0x100020000, 1), (0x100020008, 32), (0x10002000A, 16),
   (0x100020010, 63), (0x10002001A, 1), (0x100040000, 65), (0x100040001, 75), (0x100040002, 77), (0x100040003, 73), (0x100040004, 2), (0x100040006, 1), (0x10004000B, 255),
   (0x10004000C, 1), (0x100040040, 1), (0x100040042, 16), (0x10004004C, 1), (0x10004004E, 1)]
def pgTags : Tbl (BitVec 16) := [(0, BitVec.ofNat 16 (mkTag 33 0)), (65537, BitVec.ofNat 16 (mkTag 32 63)), (65538, BitVec.ofNat 16 (mkTag 33 63)), (65540, BitVec.ofNat 16 (mkTag 33 63))]
/-- As base, with a command queue of customer 33 whose packet is ws. One table of the owner and the reseller and one of the customer leave VAs from 2^32 on
as they are; behind them stands the image of a lease of one tile. -/
def queued (x : Queue) (ws : List Word) : State :=
  let y : Queue := { x with pkt := ws, top := if ws.isEmpty then none else some (3, 1, false), qstat := 1, proc := some 0 }
  let b : Part := { base.part 33 with dietab := 8, allot := [(0, 1)], rights := 0x3FFF, oroot := 0x100010000, rroot := 0x100010000, croot := 0x100020000, hlimit := 0x10000, queues := [(2, y)] }
  { (base.setPart 33 b).setPart 32 { dietab := 8 } with
    mem := pgMem, tags := pgTags }

section

variable {x : Queue} {ws : List Word}

def pgE0 : Nat := 1 + 0x100010 * 2 ^ 64
def pgE1 : Nat := 0x1F + 65536 * 2 ^ 64
def pgC0 : Nat := 1 + 0x100020 * 2 ^ 64
def pgC1 : Nat := 0x3F + 65536 * 2 ^ 64

theorem pg_idx (y : Nat) (h : y < 2 ^ 32) : bits (4294967296 + y) 72 8 = 0 ∧ bits (4294967296 + y) 64 8 = 0 ∧ bits (4294967296 + y) 56 8 = 0
   ∧ bits (4294967296 + y) 48 8 = 0 ∧ bits (4294967296 + y) 40 8 = 0 ∧ bits (4294967296 + y) 32 8 = 1 := by
  unfold bits; omega

theorem pg_entry (tag a v : Nat) (h : (!decide (paTop ≤ a) && admits (Tbl.get (0xFFFF : BitVec 16) pgTags (a / 65536)).toNat tag && pgMem.readN a 16 == v) = true) :
    tableEntry (queued x ws) tag a = .ok v := by
  have e : readAs (queued x ws) none a 16 = pgMem.readN a 16 := readAs_plain rfl none a 16
  have f : frameTag (queued x ws) a = (Tbl.get (0xFFFF : BitVec 16) pgTags (a / 65536)).toNat := rfl
  simp only [Bool.and_eq_true, Bool.not_eq_true', decide_eq_false_iff_not, beq_iff_eq] at h
  obtain ⟨⟨h1, h2⟩, h3⟩ := h
  simp only [tableEntry, e, f, h2, h3]
  rw [if_neg h1]; rfl
theorem pg_t0 : tableEntry (queued x ws) 0 0x100010000 = .ok pgE0 := pg_entry _ _ _ (by decide +kernel)
theorem pg_t1 : tableEntry (queued x ws) 0 0x100010010 = .ok pgE1 := pg_entry _ _ _ (by decide +kernel)
theorem pg_r0 : tableEntry (queued x ws) (mkTag (partR 33 * 32) 63) 0x100010000 = .ok pgE0 := pg_entry _ _ _ (by decide +kernel)
theorem pg_r1 : tableEntry (queued x ws) (mkTag (partR 33 * 32) 63) 0x100010010 = .ok pgE1 := pg_entry _ _ _ (by decide +kernel)
theorem pg_u0 : tableEntry (queued x ws) (mkTag 33 63) 0x100020000 = .ok pgC0 := pg_entry _ _ _ (by decide +kernel)
theorem pg_u1 : tableEntry (queued x ws) (mkTag 33 63) 0x100020010 = .ok pgC1 := pg_entry _ _ _ (by decide +kernel)

theorem pg_own (y : Nat) (h : y < 2 ^ 32) : ownerWalk (queued x ws) 33 (4294967296 + y) = .ok { e := pgE1, level := 6, out := 4294967296 + y } := by
  obtain ⟨h1, h2, h3, h4, h5, h6⟩ := pg_idx y h
  have hr : ((queued x ws).part 33).oroot.toNat = 0x100010000 := by rfl
  have ht : bits pgE0 0 1 = 1 ∧ bits pgE0 1 1 = 0 ∧ bits pgE0 64 52 = 0x100010 ∧ bits pgE1 0 1 = 1 ∧ bits pgE1 1 1 = 1 ∧ bits pgE1 64 48 = 65536
    ∧ entryBad .own 3 pgE0 = false ∧ entryBad .own 4 pgE0 = false ∧ entryBad .own 5 pgE0 = false ∧ entryBad .own 6 pgE1 = false := by decide +kernel
  obtain ⟨a1, a2, a3, a4, a5, a6, a7, a8, a9, a10⟩ := ht
  have hm : (4294967296 + y) % leafSize 6 = y := by simp only [leafSize, if_true]; omega
  have hf : ((queued x ws).part 33).fwd = [] := by rfl
  simp [ownerWalk, hr, hf, walk, h3, h4, h5, h6, pg_t0, pg_t1, a1, a2, a3, a4, a5, a6, a7, a8, a9, a10, hm, Except.map, Walked.moved]
theorem pg_facts : bits pgE0 0 1 = 1 ∧ bits pgE0 1 1 = 0 ∧ bits pgE0 64 52 = 0x100010 ∧ bits pgE1 0 1 = 1 ∧ bits pgE1 1 1 = 1 ∧ bits pgE1 64 48 = 65536
    ∧ bits pgC0 0 1 = 1 ∧ bits pgC0 1 1 = 0 ∧ bits pgC0 64 52 = 0x100020 ∧ bits pgC1 0 1 = 1 ∧ bits pgC1 1 1 = 1 ∧ bits pgC1 64 48 = 65536
    ∧ (∀ l, l < 6 → entryBad .res l pgE0 = false ∧ entryBad .cust l pgC0 = false) ∧ entryBad .res 6 pgE1 = false ∧ entryBad .cust 6 pgC1 = false := by decide +kernel

theorem pg_res (y : Nat) (h : y < 2 ^ 32) : resellerWalk (queued x ws) 33 (4294967296 + y) = .ok { e := pgE1, level := 6, out := 4294967296 + y } := by
  obtain ⟨h1, h2, h3, h4, h5, h6⟩ := pg_idx y h
  have hr : ((queued x ws).part 33).rroot.toNat = 0x100010000 := by rfl
  obtain ⟨a1, a2, a3, a4, a5, a6, _, _, _, _, _, _, b, a9, _⟩ := pg_facts
  have hm : (4294967296 + y) % leafSize 6 = y := by simp only [leafSize, if_true]; omega
  have o0 : ownerWalk (queued x ws) 33 4295032832 = .ok { e := pgE1, level := 6, out := 4295032832 } := pg_own 65536 (by omega)
  have o1 : ownerWalk (queued x ws) 33 4295032848 = .ok { e := pgE1, level := 6, out := 4295032848 } := pg_own 65552 (by omega)
  simp [resellerWalk, hr, walk, h3, h4, h5, h6, pg_r0, pg_r1, a1, a2, a3, a4, a5, a6, a9, hm, o0, o1, Except.map, (b 3 (by omega)).1, (b 4 (by omega)).1, (b 5 (by omega)).1]

theorem pg_cust (y : Nat) (h : y < 2 ^ 32) : customerWalk (queued x ws) 33 (4294967296 + y) = .ok { e := pgC1, level := 6, out := 4294967296 + y } := by
  obtain ⟨h1, h2, h3, h4, h5, h6⟩ := pg_idx y h
  have hr : ((queued x ws).part 33).croot.toNat = 0x100020000 := by rfl
  obtain ⟨_, _, _, _, _, _, a1, a2, a3, a4, a5, a6, b, _, a9⟩ := pg_facts
  have hm : (4294967296 + y) % leafSize 6 = y := by simp only [leafSize, if_true]; omega
  have o0 : caToPa (queued x ws) 33 4295098368 = .ok 4295098368 := caToPa_ok (pg_res 131072 (by omega)) (pg_own 131072 (by omega))
  have o1 : caToPa (queued x ws) 33 4295098384 = .ok 4295098384 := caToPa_ok (pg_res 131088 (by omega)) (pg_own 131088 (by omega))
  simp [customerWalk, hr, walk, h1, h2, h3, h4, h5, h6, pg_u0, pg_u1, a1, a2, a3, a4, a5, a6, a9, hm, o0, o1, (b 1 (by omega)).2, (b 2 (by omega)).2, (b 3 (by omega)).2, (b 4 (by omega)).2, (b 5 (by omega)).2]

def pgEnt : TlbEnt := { lease := 0, va := 4294967296, size := 4294967296, pa := 4294967296, attr := { r := true, w := true, x := true, ms := true } }

theorem pg_tran (y : Nat) (h : y < 2 ^ 32) : translate (queued x ws) 33 0 (4294967296 + y) = .ok pgEnt := by
  have e : 4294967296 + y - (4294967296 + y) % 4294967296 = 4294967296 := by omega
  simp only [Sys2Proof.Machine.translate, pg_cust y h, pg_res y h, pg_own y h, leafSize, if_true, Nat.min_self, Nat.reducePow, e]
  exact congrArg Except.ok (by decide +kernel)

theorem pg_check (va y : Nat) (n : Need) (hy : y < 65536) (hv : va = 4294967296 + (262144 + y)) : pageCheck (queued x ws) (procWho 33 2) va pgEnt n = .ok va := by
  have e1 : pgEnt.pa + (va - pgEnt.va) = va := by simp only [pgEnt]; omega
  have e2 : va / 65536 = 65540 := by omega
  have h : openHolds (queued x ws) ((procWho 33 2).part (queued x ws)) va = [] := rfl
  have a : admits (frameTag (queued x ws) va) (mkTag ((procWho 33 2).part (queued x ws)) ((procWho 33 2).slot (queued x ws))) = true := by
    have g : mkTag ((procWho 33 2).part (queued x ws)) ((procWho 33 2).slot (queued x ws)) = mkTag 33 63 := rfl
    have f : frameTag (queued x ws) va = (Tbl.get (0xFFFF : BitVec 16) pgTags (va / 65536)).toNat := rfl
    rw [g, f, e2]; decide +kernel
  have t : ¬ paTop ≤ va := by simp only [paTop]; omega
  clear hv e2 hy
  simp [pageCheck, e1, h, a, t]
  simp [pgEnt]

theorem pg_held (va : Nat) : frameHeld (queued x ws) va = false := by
  have : (queued x ws).migrs = [] := rfl
  have hr : (queued x ws).reqs = [] := rfl
  simp [frameHeld, migrates, this, hr]
theorem pg_waits (va : Nat) : agentWaits (queued x ws) (procWho 33 2) va pgEnt.attr = false := by
  have g : hbmSpent ((queued x ws).lease 0) = false := by rw [show (queued x ws).lease 0 = {} from rfl]; decide
  have h : hbmHeld (queued x ws) 0 pgEnt.attr = false := by rw [hbmHeld, g, Bool.false_and]
  simp [agentWaits, pg_held va, h, Who.die, procWho]
theorem pg_phased (va : Nat) : isPhased (queued x ws) (procWho 33 2) va pgEnt.attr = false := by simp [isPhased, pgEnt]
theorem pg_rd (off va : Nat) (h : off < 80) (hv : va = 4294967296 + (262144 + off)) : procRead (queued x ws) 33 2 va = .ok ((queued x ws).mem.word va) := by
  have t := pg_tran (x := x) (ws := ws) (262144 + off) (by omega)
  rw [← hv] at t
  exact procRead_ok t (pg_check va off { r := true, noSys := true } (by omega) hv) rfl (pg_waits va) (pg_phased va)
def pgRd (x : Queue) (ws : List Word) : Rd := fun off => (procRead (queued x ws) 33 2 ((0x100040000 + off) % 2 ^ 80)).toOption
theorem pg_wd (off : Nat) (v : Word) (h : off < 80) (hv : pgMem.word (4294967296 + (262144 + off)) = v) : rdWord (pgRd x ws) off = .ok v := by
  have e : (0x100040000 + off) % 2 ^ 80 = 4294967296 + (262144 + off) := by omega
  simp only [pgRd, rdWord, e, pg_rd off _ h rfl, Except.toOption, show (queued x ws).mem = pgMem from rfl, hv]
theorem pg_image {rd : Rd} {va : Nat} (w0 : rdWord rd 0 = .ok 0x10002494D4B41) (w1 : rdWord rd 8 = .ok 0x1FF000000)
    (w2 : rdWord rd 16 = .ok 0) (w3 : rdWord rd 24 = .ok 0) (w4 : rdWord rd 32 = .ok 0) (w5 : rdWord rd 40 = .ok 0) (w6 : rdWord rd 48 = .ok 0)
    (w7 : rdWord rd 56 = .ok 0) (w8 : rdWord rd 64 = .ok 0x100001) (w9 : rdWord rd 72 = .ok 0x1000100000000) :
    rdImage rd va = .ok { va, rects := [{ off := 64 }] } := by
  have h : rdSome rd 0 8 = ([0x10002494D4B41, 0x1FF000000, 0, 0, 0, 0, 0, 0], none) := by
    simp [rdSome, w0, w1, w2, w3, w4, w5, w6, w7]
  have h9 : rdSome rd 72 1 = ([0x1000100000000], none) := by simp [rdSome, w9]
  simp [rdImage, rdPart, h, rdRecords, rdRecord, rdKinds, headOff, countOff, lowest, offIf, w8, h9, BitVec.fld, bits, sfld, signed, Image.numbered, numberCuts, numberConfs]
theorem witness_Image : launchImage (queued x ws) 33 2 0x100040000 = .ok { va := 0x100040000, rects := [{ off := 64 }] } := by
  have w (off : Nat) (v : Word) (h : off < 80) (hv : pgMem.word (4294967296 + (262144 + off)) = v) : rdWord (pgRd x ws) off = .ok v := pg_wd off v h hv
  have h := pg_image (va := 0x100040000) (w 0 _ (by omega) (by decide +kernel)) (w 8 _ (by omega) (by decide +kernel)) (w 16 _ (by omega) (by decide +kernel)) (w 24 _ (by omega) (by decide +kernel))
    (w 32 _ (by omega) (by decide +kernel)) (w 40 _ (by omega) (by decide +kernel)) (w 48 _ (by omega) (by decide +kernel)) (w 56 _ (by omega) (by decide +kernel))
    (w 64 _ (by omega) (by decide +kernel)) (w 72 _ (by omega) (by decide +kernel))
  exact launchImage_of (p := 33) (q := 2) h
theorem rdImage_magic {rd : Rd} {va : Nat} {v : Word} (h0 : rdWord rd 0 = .ok v) (hv : v.fld 0 32 ≠ 0x494D4B41) : rdImage rd va = .error 0 := by
  simp [rdImage, rdPart, rdSome, h0, hv, lowest]
/-- PacketsRun: an image whose first word is no image's is refused at its first byte. -/
theorem witness_BadImage : launchImage (queued x ws) 33 2 0x100040008 = .error (0x19, 0) := by
  have r (off : Nat) (h : off < 72) : procRead (queued x ws) 33 2 ((0x100040008 + off) % 2 ^ 80) = .ok (pgMem.word (4294967296 + (262144 + (8 + off)))) := by
    rw [show (0x100040008 + off) % 2 ^ 80 = 4294967296 + (262144 + (8 + off)) by omega, pg_rd (8 + off) _ (by omega) rfl,
      show (queued x ws).mem = pgMem from rfl]
  have m : (pgMem.word (4294967296 + (262144 + (8 + 0)))).fld 0 32 ≠ 0x494D4B41 := by decide +kernel
  have w (off : Nat) (h : off < 72) : rdWord (fun o => (procRead (queued x ws) 33 2 ((0x100040008 + o) % 2 ^ 80)).toOption) off
      = .ok (pgMem.word (4294967296 + (262144 + (8 + off)))) := by rw [rdWord, r off h]; simp only [Except.toOption]
  have g : rdImage (fun o => (procRead (queued x ws) 33 2 ((0x100040008 + o) % 2 ^ 80)).toOption) 0x100040008 = .error 0 :=
    rdImage_magic (w 0 (by omega)) m
  exact launchImage_bad g (r (0 / 8 * 8) (by omega))
/-- R314 to R316: the three walks bring a VA to its frame, with the rights that every stage gives. -/
theorem witness_Walk (n : Need) : procWord (queued x ws) 33 2 0x100040000 n = .ok 0x100040000 := by
  have t : translate (queued x ws) 33 0 0x100040000 = .ok pgEnt := by
    rw [show (0x100040000 : Nat) = 4294967296 + 262144 from rfl]
    exact pg_tran 262144 (by omega)
  have c := pg_check (x := x) (ws := ws) 0x100040000 0 { n with ms := true } (by omega) (by omega)
  have h : pgEnt.attr.sysw = false := rfl
  exact procWord_ok t c h (pg_held _)

end

/-- PacketsRun: a launch whose image, endpoints and save area hold and whose place is free, and one whose save area is a byte short; an INDIRECT at either
side of its depth and range; LOOPs in the ring and in a buffer; a PRED, a WAIT and a SIGNAL at a word; a WAIT at its timeout and a cycle before it; a COPY of
its last byte; a packet to finish. -/
theorem witness_Packets : let la (n : Nat) (s : State) (im : Image) : WaitLaunch := { part := 33, queue := 2, image := im, saveVa := 0, saveBytes := n, seq := 3, at_ := timeNs s }
    let w (op : Word) : List Word := [op, 0x100040000, 0, 0, 0, 0x10000, 0, 0]
    let s := queued {} (w 1)
    let im : Image := { va := 0x100040000, rects := [{ off := 64 }] }
    let deep : Queue := { stack := [{ lim := 4 }, { lim := 4 }] }
    let x := cq s 33 2
    (x.pkt = w 1 ∧ w 1 ≠ [] ∧ ((w 1).getD 0 0).toNat % 256 = 1 ∧ x.top.isSome = true ∧ x.st = 1 ∧ x.wait = none ∧ x.launch = false ∧ x.fheld = none)
    ∧ (readEndpoints s 33 0 0).toOption = some [] ∧ (la (saveSize im - 1) s im).saveBytes < saveSize im
    ∧ launchRefused s (la (saveSize im) s im) = false ∧ freeId s = some 2 ∧ (firstFit s 33 im (takenNow s [] none) []).isSome = true ∧ (freeSlot s 33).isSome = true
    ∧ (2 ≤ (deep.stack.filter (fun f => f.size == 0 && !f.loop)).length) ∧ inHost s 33 0xFFF8 8 = true ∧ inHost s 33 0xFFF8 16 = false
    ∧ pva (w 3) 1 = 0x100040000 ∧ x.stack = [] ∧ (cq (queued { stack := [{ lim := 4 }] } (w 4)) 33 2).stack = [{ lim := 4 }]
    ∧ (cq (queued { wait := some 9 } (w 5)) 33 2).wait = some 9
    ∧ (cq (queued { moved := 0xFFFF } (w 7)) 33 2).moved < ((w 7).getD 5 0).toNat ∧ (pktRead s 33 2 { host := true, addr := 0xFFFF } 0 1).2.1 = 1
    ∧ isOk (pktWrite s 33 2 { host := true, addr := 0xFFFF } 0 1 5) = true ∧ s.leases.all (fun e => !e.2.starting) = true ∧ 33 * 64 + 2 ∈ procQueues s 0
    ∧ (cq (queued { qcfg := 0x100 } (w 8)) 33 2).compFull = false ∧ (cq (queued {} (w 8)) 33 2).cheld = [] ∧ (cq (queued {} (w 8)) 33 2).cmsi = false
    ∧ compIn s 33 x = true ∧ (cq (queued {} (w 5)) 33 2).st = 1 ∧ (cq (modCq (queued {} (w 5)) 33 2 (fun y => { y with qstat := 3 })) 33 2).st = 3 := by decide +kernel
/-- As base, with reseller block 32 and customer block 33 present, every right, one die and one quad; `f` changes the customer's block. -/
def tenant (f : Part → Part) : State :=
  (base.setPart 32 { pcfg := 1, rights := 0x3FFF, dietab := 8, hlimit := 0x10000, allot := [(0, 3)] }).setPart 33
    (f { base.part 33 with pcfg := 1, rights := 0x3FFF, dietab := 8, hlimit := 0x10000, allot := [(0, 1)] })

/-- R419, R420: the customer's block in the customer's, the reseller's and the owner's view; a register of another view's level. -/
theorem witness_Spots : spotOf 2 0x1110010 = .block 33 0x10 ∧ spotOf 0 0x1110000 = .block 33 0 ∧ spotOf 0 0x1000000 = .block 32 0 ∧ spotOf 0 8 = .owner 8
    ∧ spotOf 0 0x102000 = .fab 0x2000 ∧ spotOf 2 8 = .none ∧ blockLevel 33 - 1 < 2 ∧ ready base = true := by decide +kernel
/-- PartitionWrites: a view that may make each write and values at the ends of what it accepts; a block that is held and one that is not; invalidations, frames
and a lease at their bounds. -/
theorem witness_Partition : let s := tenant id
    let held (st : EngSt) : State := s.modLease 1 (fun l => { l with engines := [(0, { bound := true, st, exts := (base.stoker 0).tlb })] })
    let v : Word := 0x10000
    mayWrite s 1 33 1 none = true ∧ hostBoundOk s 33 v = true ∧ v.toNat % 4096 = 0 ∧ mayWrite s 2 33 2 (some 2) = true ∧ mayWrite s 1 33 1 (some 2) = true
    ∧ mayWrite s 0 33 0 none = true ∧ (0xFFFFFFFFFF000 : Word).toNat < 2 ^ 52 ∧ mayWrite s 1 33 1 (some 0) = true ∧ (s.part 32).pcfg.getLsbD 0 = true
    ∧ partHeld s 33 = true ∧ partHeld (s.modLease 1 (fun l => { l with st := .none })) 33 = false
    ∧ (0x3FFF : Word).toNat < 2 ^ 14 ∧ (0x3FFF : Word) &&& ~~~((s.part (viewBlock 1 33)).rights) = 0
    ∧ dietabOk s 33 8 = true ∧ mayWrite s 1 33 1 (some 1) = true ∧ arrayIdx 0x180 0x180 8 32 = some 0 ∧ (3 : Word) &&& ~~~(parentAllot s 33 0) = 0
    ∧ Tbl.get (0 : Word) (s.part 33).allot 0 &&& ~~~3 = 0 ∧ childHolds s 32 0 2 = false ∧ childHolds s 32 0 1 = true ∧ (s.part 33).resize = []
    ∧ partLeases (s.modLease 1 (fun l => { l with st := .none })) 33 = [] ∧ arrayIdx 0x138 0x100 8 8 = some 7 ∧ mayWrite s 1 33 1 (some 3) = true
    ∧ (0xFFFFFF000000 : Word).toNat < 2 ^ 48 ∧ Tbl.get 0 (s.part 33).inUse 7 ≤ 0
    ∧ (0xFFFFFF02 : Word).extractLsb' 0 2 ≠ 3#2 ∧ (0xFFFFFF02 : Word).extractLsb' 3 5 = 0#5 ∧ (s.part 33).ivcmd.getLsbD 63 = false
    ∧ ((tenant (fun x => { x with ivcmd := 1 <<< 63 })).part 33).ivcmd.getLsbD 63 = true ∧ s.reqs = [] ∧ (8388607 : Nat) < 2 ^ 23
    ∧ leaseUnder (held .running) 33 1 = true ∧ (eng (held .running) 1 0).exts.any (ivCovers ((held .running).part 33)) = true
    ∧ (eng (held .running) 1 0).st = .running ∧ (eng (held .paused) 1 0).st = .paused
    ∧ (reservePool s (8388607 * 65536 / 2 ^ 36) (frameShadows s 0)).isSome = true
    ∧ ({ s with migrs := [{ part := 33, dst := 5, pool := [33] }] } : State).migrs[0]? = some { part := 33, dst := 5, pool := [33] } ∧ s.mem.wf = true
    ∧ (0xFF001 : Word).toNat < 2 ^ 20 ∧ ((0xFF001 : Word).extractLsb' 0 12).toNat = 1 ∧ (s.lease 1).st ≠ .none ∧ (s.lease 1).part = 33
    ∧ Tbl.sorted s.tiles = true := by decide +kernel
/-- QueueAndHandlerWrites: a queue's configuration at the ends of its sizes, off, on and stopped, idle and with a packet; its tail at its last word and one
past it; replies that match a fault of an engine, of a region and nothing; requests of a debugger for a tile and a context. -/
theorem witness_Queues : let s (x : Queue) := tenant (fun p => { p with queues := [(63, x)] })
    let r (fs : List OFault) (f : Lease → Lease) := (tenant id).modLease 1 (fun l => f { l with st := .frozen, faults := fs })
    let e : OFault := { code := 4, level := 2, what := .engine 0 }
    let g : OFault := { code := 7, level := 2 }
    let d (v : Word) := dbgTarget (tenant id) 2 33 v
    queueSpot 0x3FC8 = some (63, 8) ∧ spotOf 2 0x1113FC8 = .block 33 0x3FC8 ∧ qcfgOk 0x10406 = true ∧ qcfgOk 0x70C10 = true ∧ qcfgOk 0x10D10 = false
    ∧ (s {}).cc.busy = none ∧ (cq (s {}) 33 63).qcfg.getLsbD 16 = false ∧ (cq (s {}) 33 63).st ≠ 3 ∧ (cq (s {}) 33 63).st = 0
    ∧ (cq (s { qcfg := 0x10406, top := some (1, 1, false) }) 33 63).qcfg.getLsbD 16 = true ∧ (cq (s { qstat := 2 }) 33 63).st = 2
    ∧ (63 : Word).toNat < (cq (s { qcfg := 0x10406 }) 33 63).ringSize ∧ (cq (s { qcfg := 0x10406 }) 33 63).ringSize ≤ (64 : Word).toNat
    ∧ (0xF0000 : Word).toNat / 2 ^ 16 < (cq (s { qcfg := 0x10406 }) 33 63).compSize ∧ (cq (s {}) 33 63).cheld = []
    ∧ (0xFFFFF : Word).toNat < 2 ^ 20 ∧ ((tenant id).part 33).hq.held = []
    ∧ replyOk 0x4001 = true ∧ replyPacket (r [e] id) 2 33 0x4001 = none ∧ replyFault (r [] id) 2 33 0x4001 = none
    ∧ replyFault (r [e] id) 2 33 0x4001 = some (0, e) ∧ quarantined (r [e] id) 33 = false
    ∧ (eng (r [e] (fun l => { l with engines := [(0, { st := .faulted })] })) 1 0).st = .faulted
    ∧ replyFault (r [g] id) 2 33 0x7001 = some (0, g) ∧ ((r [g] id).lease 1).work = none ∧ quarantined ((r [g] id).setPart 33 { (tenant id).part 33 with quar := 1 }) 33 = true
    ∧ (0x1002 : Word).extractLsb' 3 9 = 0#9 ∧ ((0x1002 : Word).extractLsb' 12 12).toNat = 1 ∧ viewRight (tenant id) 2 33 4 = true
    ∧ d 0x1000 = some (.tile 0) ∧ d 0x200000001000 = some (.ctx 0) := by decide +kernel
/-- OwnerAndFabricWrites: a spot that is none; an alarm class at and below its least; measurements 8 and 15; a partition to quarantine; a frame command to the last
frame, done at once; a circuit that may be made and one at each state; a module, a circuit and a port of the region's last entry. -/
theorem witness_Owner : let c : Word := 0x8001_0001_0000_0000
    let f (g : Fab) : State := { base with fab := g }
    let e (n : Nat) : State := f { conn := [(5, BitVec.ofNat 64 (n * 2 ^ 61))], connT := [(5, 7)] }
    ready base = true ∧ spotOf 2 8 = .none ∧ arrayIdx 0x78 0x40 8 8 = some 7 ∧ arrayIdx 0x98 0x80 8 4 = some 3
    ∧ alarmClass base 4 ≤ 3 ∧ (alarmClass base 0 = 0 ∨ 0 < alarmClass base 0) ∧ (0x7FFFFF : Word).toNat < 2 ^ 23
    ∧ quarPart 0x421 = some 33 ∧ (0x421 : Word).getLsbD 10 = true ∧ quarPart 0x21 = some 33
    ∧ (0x7FFFFF : Word).extractLsb' 0 23 = 0x7FFFFF#23 ∧ (0x0 : Word).extractLsb' 41 23 = 0#23
    ∧ ({ base with pkg := { base.pkg with ftbusy := true } } : State).pkg.ftbusy = true ∧ base.reqs = []
    ∧ (Tbl.get (0 : Word) (e 1).fab.conn 5).extractLsb' 61 2 = 1#2 ∧ { e 1 with fc := 3156 }.fc < Tbl.get 0 (e 1).fab.connT 5 + 3150
    ∧ Tbl.get 0 (e 1).fab.connT 5 + 3150 ≤ { e 1 with fc := 3157 }.fc ∧ (Tbl.get (0 : Word) (e 2).fab.conn 5).extractLsb' 61 2 = 2#2
    ∧ arrayIdx 0x7FF8 0x4000 8 2048 = some 2047 ∧ arrayIdx 0x14F8 0x1000 8 160 = some 159 ∧ arrayIdx 0x7F8 0 8 256 = some 255
    ∧ arrayIdx 0x3218 0x3100 8 36 = some 35 ∧ c.getLsbD 63 = true ∧ connOk base 255 c = false
    ∧ connOk base 255 0x8002003800000000 = true
    ∧ (0xFFF : Word).toNat < 2 ^ 12 ∧ base.fab.ports.all (fun e => e.2.st != 2) = true ∧ (gport base 35).en = false := by decide +kernel
/-- MailboxesLinksAndAlarms: busy mailboxes of the owner and of a block with requests of 4 bytes, of 3 and of the longest; seam modules and ports with
flits on the lanes that are in order, out of order, with an acknowledgement and with a nak, with lanes idle, retraining and training; requests to a package and
from one, new and answered; a damper in a period that its budget bears. -/
theorem witness_Links : let b (l : List Byte) : Mailbox := { buf := l.mapIdx (fun i x => (i, x)), ctl := 4, sta := 1 }
    let fl : LinkDir := { wire := [{}], replay := [{}] }
    let s (m : SeamMod) (g : GPort) (q : List GReq) : State := { base with fab := { mods := [(159, m)], ports := [(35, g)], greqs := q } }
    let put (l : List Byte) : State := setMailbox (setMailbox base none (b l)) (some 33) (b l)
    let up : GPort := { gstat := 0x280, d1 := fl }
    let q : GReq := { txn := 9, port := 35 }
    spotOf 0 0x700 = .owner 0x700 ∧ spotOf 2 0x1110700 = .block 33 0x700 ∧ (4095 : Word).toNat < 4096
    ∧ (b [0x11, 0x84]).request.getD 1 0 = 0x84 ∧ (b [0x11, 0xE0, 1]).request.getD 2 0 = 1
    ∧ (mailbox (put [0x11, 0x84]) none).sta.extractLsb' 0 2 = 1#2 ∧ (mailbox (put [0x11, 0x84]) (some 33)).sta.extractLsb' 0 2 = 1#2
    ∧ (mailbox (put [0x11, 0x84]) (some 33)).ctl = 4 ∧ ready (put []) = true ∧ ((4 : Word).extractLsb' 0 12).toNat = 4
    ∧ flitsMove (s { d1 := fl } {} []) 159 = true ∧ carrier (s { d1 := fl } {} []) 159 = some 159
    ∧ ((seamMod (s { d1 := fl } {} []) 159).dir 1).wire = [{}] ∧ ((seamMod (s { d1 := fl } {} []) 159).dir 1).e = 0 ∧ ({} : Flit).nak = false ∧ ({} : Flit).ack = none
    ∧ ((seamMod (s { d1 := { fl with nak := true, e := 255 } } {} []) 159).dir 1).e ≠ 0 ∧ (0 : Nat) + 512 ≤ { base with fc := 512 }.fc
    ∧ (let back : LinkDir := { wire := [{ seq := 9, ack := some 3 }], e := 8 }
      let m : SeamMod := { d0 := { replay := [{ seq := 2 }, { seq := 3 }, { seq := 4 }] }, d1 := back }
      (m.dir 1).wire = [{ seq := 9, ack := some ({ seq := 3 } : Flit).seq }] ∧ (m.dir (1 - 1)).replay = [{ seq := 2 }] ++ { seq := 3 } :: [{ seq := 4 }]
      ∧ (∀ h ∈ [({ seq := 2 } : Flit)], h.seq ≠ 3) ∧ flitsMove (s m {} []) 159 = true)
    ∧ (let m : SeamMod := { d0 := { replay := [{}] }, d1 := { wire := [{ seq := 9, nak := true }], e := 8 } }
      (m.dir 1).wire = [{ seq := 9, nak := true }] ∧ (m.dir 0).replay ≠ [] ∧ flitsMove (s m {} []) 159 = true)
    ∧ (let m : SeamMod := { d1 := { out := List.replicate 38 {}, next := 255, e := 255 } }
      (m.dir 1).wire = [] ∧ (m.dir 1).out.length ≤ 38 ∧ (m.dir 1).next = (m.dir 1).e ∧ (m.dir 0).heard = false ∧ (m.dir 0).nakDue = false)
    ∧ (seamMod (s { retrain := some 7, fails := 6, bad := 1 } {} []) 159).retrain = some 7 ∧ (2 : BitVec 64) &&& ~~~1 ≠ 0
    ∧ (gport (s {} up []) 35).st = 2 ∧ (gport (s {} up []) 35).lanes = 2 ∧ ((gport (s {} up []) 35).dir 1).wire = [{}]
    ∧ (gport (s {} { gstat := 0x40 } []) 35).st = 1 ∧ (s {} up [q]).fab.greqs.find? (fun x => x.txn == 9) = some q ∧ (gport (s {} up [q]) 35).d0.undelivered = []
    ∧ ({ up with d1 := { wire := [{ toks := [{ tile := 9, cls := 2 }] }] } } : GPort).d1.wire = [{ toks := [{ tile := 9, cls := 2 }] }]
    ∧ firstReply { base with fab := { greqs := [q], gseen := [(0, [(9, .val 3)])] } } 9 = some (.val 3)
    ∧ q.sent + 2 ^ 21 ≤ { base with fc := 2 ^ 21 }.fc ∧ (gport (s {} up [q]) q.port).st = 2
    ∧ 10 * ((List.range 8).map (fun d => (dieDamp base d).spent)).foldl (· + ·) 0 ≤ 22 * (base.fab.dcfg.extractLsb' 0 12).toNat
    ∧ (dieDamp base 7).tick < 10 ∧ base.fc % 21000 = 0 ∧ base.fc % 2100 = 0 ∧ { base with fc := 210 }.fc % 2100 = 210 * ((dieDamp base 7).tick + 1) % 2100
    ∧ ((seamMod (s { d1 := fl } {} []) 159).bad ||| 1 : BitVec 64) ≠ 0 := by decide +kernel
/-- MailboxesLinksAndAlarms: faulty lanes that leave a module a width, whatever lanes can be repaired. -/
theorem witness_Width : widthOf 1 ≠ 3 := by
  unfold widthOf lanesOf
  split <;> decide
/-- MailboxesLinksAndAlarms: the request of another package, whose tag its frame admits, does not admit, and which has been answered. -/
theorem witness_Asked : let inReq : GIn := { port := 35, src := 5, txn := 7, tag := 0x840, pa := 2 ^ 39 - 8, op := .load (.g 1) 8 false }
    let asked (tag : BitVec 16) (done : Tbl (List (Nat × AccRes))) : State := { base with fab := { ports := [(35, { gstat := 0x280 })], gin := [inReq], gdone := done }, tags := [((2 ^ 39 - 8) / 65536, tag)] }
    let a := asked 0x840 []
    a.fab.gin = [inReq] ∧ ready a = true ∧ migrates a inReq.pa = false ∧ inReq.pa < 2 ^ 39 ∧ keptReply a.fab.gdone 5 7 = none ∧ admits (frameTag a inReq.pa) inReq.tag = true
    ∧ admits (frameTag (asked 0x841 []) inReq.pa) inReq.tag = false ∧ keptReply (asked 0x840 [(5, [(7, .val 3)])]).fab.gdone 5 7 = some (.val 3) := by decide +kernel
/-- StepRunsTheInstruction: a stoker's turn whose word decodes, one whose word does not, one inside a repeat and one that cannot be fetched, a lane's turn, an event, and a command processor's turn. -/
theorem witness_Step : let c (w : Code) := State.reset.withControl w
    let e := State.reset.withElement 0
    let q := { queued {} [6, 0, 0, 0, 0, 0, 0, 0] with agenda := [{ what := .cmd 0 }] }
    let u := (dueAct (c 0x08200005)).2
    let rep := (c 0).modCtx 0 (fun c => { c with repOn := true, repW := some 0x08200005 })
    let far := (c 0).setStoker 0 {}
    (dueAct (c 0x08200005)).1 = .issue 0 false ∧ u.pkg.state ≠ 2 ∧ pickCtx u 0 = some 0 ∧ (u.ctx 0).asyncDue = false ∧ (u.ctx 0).fbuf = []
    ∧ (match fetchWord (u.setStoker 0 { u.stoker 0 with last := 0 }) 0 0 with | .ok (_, w) => w == 0x08200005#32 && isOk (decodeControl w) | .error _ => false) = true
    ∧ isOk (decodeControl 0xFFFFFFFF) = false ∧ isOk (memWord u 0 0) = true
    ∧ (dueAct e).1 = .lane 0 ∧ laneMay (dueAct e).2 0 = true ∧ ((dueAct e).2.tile 0).atWord1 {} = false ∧ isNodeWord 0 = false ∧ isOk (decodeElement 0) = true
    ∧ encode (.sweeperReturn 0 33) = [] ∧ (rep.ctx 0).repOn = true ∧ (rep.ctx 0).repW = some 0x08200005
    ∧ isOk (decodeControl (repWord 0x08200005 (rep.ctx 0).repstate)) = true ∧ (dueAct rep).1 = .issue 0 false ∧ pickCtx (dueAct rep).2 0 = some 0
    ∧ isOk (fetchWord (far.setStoker 0 { far.stoker 0 with last := 0 }) 0 0) = false ∧ (dueAct far).1 = .issue 0 false ∧
     (cmdTurn (dueAct q).2 0).2 = some (33, 2) := by decide +kernel
/-- HaltedStays: a halted package with two acts of which neither is a reset, and one with a reset. -/
theorem witness_Halted : let s (w : What) : State := { base with pkg := { base.pkg with state := 2 }, agenda := [{ dt := 3, what := w }, { what := .lane 7 }] }
    Halted (s (.issue 0 false)) ∧ (dueAct (s (.issue 0 false))).1 ≠ .event .packageReset ∧ 2 ≤ (s (.issue 0 false)).agenda.length
    ∧ (∀ a ∈ (s (.issue 0 false)).agenda.take 2, a.what ≠ .event .packageReset) ∧ readSpot 2 8 ≠ .owner 0
    ∧ Halted (s (.event .packageReset)) ∧ (s (.event .packageReset)).agenda = { dt := 3, what := .event .packageReset } :: [{ what := .lane 7 }] := by
  refine ⟨?_, ?_, ?_, ?_, ?_, ?_, ?_⟩ <;> first | rfl | decide +kernel
/-- R399, R403: with every module of the package down no packet of class 4 passes from block 0 of die 0 to a block of die 6; with a
circuit for class 4 each way, entries 12 and 13 of the table, they do. -/
theorem test_class4_circuit : let w (src dst : Nat) : Word := BitVec.ofNat 64 (2 ^ 63 + 2 ^ 62 + 2 ^ 52 + dst * 2 ^ 35 + src * 2 ^ 32)
    let dead : Tbl SeamMod := (List.range 160).map (fun k => (k, { mstat := 0xC0 }))
    let s (conn : Tbl Word) : State := { base with fab := { base.fab with mods := dead, conn } }
    blocksMeet (s []) 0 390 = false ∧ blocksMeet (s [(12, w 0 6), (13, w 6 0)]) 0 390 = true ∧ blocksMeet base 0 390 = true := by decide +kernel

end Sys2Proof.Tests
end

section
/-! # Number formats: the exact value of a finite code rounds to that code (03 R86, R92, R96)

`Fmt.dec` gives a finite code a value m × 2^e whose unit 2^e is the very unit in which `Fmt.encS` rounds (`Fmt.dec_of_finite`,
`Fmt.log2_significand`); a value that is already a multiple of that unit is encoded without rounding (`Fmt.enc_num_of_unit`). -/

namespace Sys2Proof.Machine

/-- A value given in the unit to be rounded to is kept, and nothing is lost. -/
@[simp] theorem roundShift_zero (rm : Rm) (neg : Bool) (m : Nat) (sticky : Bool) : roundShift rm neg m 0 sticky = (m, sticky) := by
  simp [roundShift]

namespace Fmt

theorem topCode_pos {f : Fmt} (he : 0 < f.ebits) : 0 < f.topCode :=
  Nat.mul_pos (Nat.sub_pos_of_lt (Nat.one_lt_two_pow (Nat.ne_of_gt he))) (Nat.two_pow_pos _)

/-- With infinities, the largest finite code lies below the code of infinity. -/
theorem maxFin_lt_topCode {f : Fmt} (he : 0 < f.ebits) (hinf : f.inf = true) : f.maxFin < f.topCode := by
  have := topCode_pos he
  simp only [maxFin, hinf, if_true]
  omega

/-- R86: a finite code is subnormal or zero, its magnitude counting the smallest unit, or normal, with its hidden bit. -/
theorem dec_of_finite {f : Fmt} {c : Nat} (he : 0 < f.ebits) (hfin : c % f.signW ≤ f.maxFin) :
    f.dec c = if c % f.signW < 2 ^ f.mbits then .num (f.signOf c) (c % f.signW) (1 - f.bias - f.mbits)
      else .num (f.signOf c) (2 ^ f.mbits + c % f.signW % 2 ^ f.mbits) ((c % f.signW / 2 ^ f.mbits : Nat) - f.bias - f.mbits) := by
  have hnan : ¬ f.maxFin < c % f.signW := Nat.not_lt.2 hfin
  have hspecial : f.inf = true → c % f.signW < f.topCode := fun h => Nat.lt_of_le_of_lt hfin (maxFin_lt_topCode he h)
  have htop : ¬ (f.inf = true ∧ f.topCode < c % f.signW) := fun ⟨hi, hlt⟩ => Nat.lt_asymm hlt (hspecial hi)
  have hinf : ¬ (f.inf = true ∧ c % f.signW = f.topCode) := fun ⟨hi, heq⟩ => Nat.ne_of_lt (hspecial hi) heq
  by_cases hsmall : c % f.signW < 2 ^ f.mbits
  · simp [dec, signOf, hnan, htop, hinf, hsmall, Nat.div_eq_of_lt, Nat.mod_eq_of_lt]
  · have hex : c % f.signW / 2 ^ f.mbits ≠ 0 := by simpa [Nat.div_eq_zero_iff] using hsmall
    simp [dec, signOf, hnan, htop, hinf, hsmall, hex]

/-- A code that fits the width is its sign beside its magnitude. -/
theorem withSign_signOf {f : Fmt} {c : Nat} (hc : c < 2 ^ f.width) : f.withSign (f.signOf c) (c % f.signW) = c := by
  have hsplit := Nat.div_add_mod c f.signW
  have hw : 2 ^ f.width = f.signW * 2 := by rw [width, signW, Nat.add_assoc, Nat.add_comm, Nat.pow_succ]
  have hsign : c / f.signW < 2 := Nat.div_lt_of_lt_mul (hw ▸ hc)
  rw [withSign, signOf, Nat.mod_mod, Nat.mod_eq_of_lt hsign]
  obtain h | h := Nat.le_one_iff_eq_zero_or_eq_one.1 (Nat.le_of_lt_succ hsign)
  · simpa [h] using hsplit
  · simpa [h] using hsplit

/-- The significand of a normal code has its leading one at the hidden bit. -/
theorem log2_significand (n : Nat) {fr : Nat} (hfr : fr < 2 ^ n) : Nat.log2 (2 ^ n + fr) = n :=
  (Nat.log2_eq_iff (by have := Nat.two_pow_pos n; omega)).2 ⟨Nat.le_add_right _ _, by rw [Nat.pow_succ]; omega⟩

/-- R92, R96: a value whose unit is already the one the format rounds to, and whose code is finite and not flushed, gets that
code and raises no flag. -/
theorem enc_num_of_unit {f : Fmt} {rm : Rm} {ftz neg : Bool} {m code : Nat} {e : Int} (hm : m ≠ 0)
    (hunit : max ((Nat.log2 m : Int) + e - f.mbits) (1 - f.bias - f.mbits) = e)
    (hcode : (e - (1 - f.bias - f.mbits)).toNat * 2 ^ f.mbits + m = code) (hfin : code ≤ f.maxFin)
    (hftz : ftz = true → 2 ^ f.mbits ≤ code) : f.enc rm ftz (.num neg m e) = (f.withSign neg code, {}) := by
  have hflush : ¬ (code < 2 ^ f.mbits ∧ ftz = true) := fun ⟨hlt, h⟩ => Nat.not_lt.2 (hftz h) hlt
  simp [enc, encS, hm, hunit, hcode, Nat.not_lt.2 hfin, hflush]

/-- A zero keeps its sign. -/
theorem enc_zero (f : Fmt) (rm : Rm) (ftz neg : Bool) (e : Int) : f.enc rm ftz (.num neg 0 e) = (f.withSign neg 0, {}) := by
  simp [enc, encS]

/-- A subnormal value is a multiple of the smallest unit, in which every value below the normal ones is rounded. -/
theorem enc_subnormal {f : Fmt} {rm : Rm} {neg : Bool} {m : Nat} (hm : m ≠ 0) (hsmall : m < 2 ^ f.mbits) (hfin : m ≤ f.maxFin) :
    f.enc rm false (.num neg m (1 - f.bias - f.mbits)) = (f.withSign neg m, {}) := by
  have hlog : Nat.log2 m < f.mbits := (Nat.log2_lt hm).2 hsmall
  exact enc_num_of_unit hm (by omega) (by simp) hfin (by simp)

/-- A normal value is a multiple of the unit that its leading one gives. -/
theorem enc_normal {f : Fmt} {rm : Rm} {ftz neg : Bool} {mag : Nat} (hnormal : 2 ^ f.mbits ≤ mag) (hfin : mag ≤ f.maxFin) :
    f.enc rm ftz (.num neg (2 ^ f.mbits + mag % 2 ^ f.mbits) ((mag / 2 ^ f.mbits : Nat) - f.bias - f.mbits))
      = (f.withSign neg mag, {}) := by
  have hpos := Nat.two_pow_pos f.mbits
  have hlog := log2_significand f.mbits (Nat.mod_lt mag hpos)
  have hex : 0 < mag / 2 ^ f.mbits := Nat.div_pos hnormal hpos
  have hcode : (mag / 2 ^ f.mbits - 1) * 2 ^ f.mbits + (2 ^ f.mbits + mag % 2 ^ f.mbits) = mag := by
    rw [← Nat.add_assoc, ← Nat.succ_mul, Nat.succ_eq_add_one, Nat.sub_add_cancel hex, Nat.div_add_mod']
  have hsteps : ((mag / 2 ^ f.mbits : Nat) - f.bias - f.mbits - (1 - f.bias - f.mbits) : Int).toNat = mag / 2 ^ f.mbits - 1 := by
    omega
  exact enc_num_of_unit (by omega) (by rw [hlog]; omega) (by rw [hsteps, hcode]) hfin fun _ => hnormal

/-- R86, R92, R96: in a format with an exponent field, the exact value of a finite code rounds to that code and raises no flag. -/
theorem enc_dec_of_finite {f : Fmt} {rm : Rm} {ftz : Bool} {c : Nat} (he : 0 < f.ebits) (hc : c < 2 ^ f.width)
    (hfin : c % f.signW ≤ f.maxFin) (hsub : ftz = true → f.isSub c = false) : f.enc rm ftz (f.dec c) = (c, {}) := by
  rw [dec_of_finite he hfin]
  split
  next hsmall =>
    by_cases hzero : c % f.signW = 0
    · rw [hzero, enc_zero, ← hzero, withSign_signOf hc]
    · have hissub : f.isSub c = true := by simp [isSub, hsmall, Nat.pos_of_ne_zero hzero]
      have hnoftz : ftz = false := Bool.eq_false_iff.2 fun h => Bool.false_ne_true ((hsub h).symm.trans hissub)
      rw [hnoftz, enc_subnormal hzero hsmall hfin, withSign_signOf hc]
  next hnormal => rw [enc_normal (Nat.le_of_not_lt hnormal) hfin, withSign_signOf hc]

end Fmt

/-- Settles O16: every listed format has an exponent field, and there a finite code gives its value in the unit that the format
rounds to. -/
theorem exactValuesEncodeToThemselves : Obligations.ExactValuesEncodeToThemselves := by
  unfold Obligations.ExactValuesEncodeToThemselves
  intro f rm ftz c hf hc hfin hsub
  have hebits : ∀ f ∈ [Fmt.e4m3, .e5m2, .bf16, .fp32, .fp64], 0 < f.ebits := by decide
  exact Fmt.enc_dec_of_finite (hebits f hf) hc hfin hsub

end Sys2Proof.Machine
end

section
/-! # Replaced bits of a word -/

namespace Sys2Proof.Machine

/-- A replaced field holds the value put there, and the other bits stay. -/
theorem getLsbD_put {k : Nat} (w : BitVec k) (lo n v i : Nat) :
    (w.put lo n v).getLsbD i = (decide (i < k) && if lo ≤ i ∧ i < lo + n then v.testBit (i - lo) else w.getLsbD i) := by
  have hpow := Nat.two_pow_pos lo
  have hbelow : w.toNat % 2 ^ lo < 2 ^ lo := Nat.mod_lt _ hpow
  have hfield : v % 2 ^ n < 2 ^ n := Nat.mod_lt _ (Nat.two_pow_pos n)
  have hsplit : w.toNat - bits w.toNat lo n * 2 ^ lo + v % 2 ^ n * 2 ^ lo
      = 2 ^ lo * (2 ^ n * (w.toNat / 2 ^ lo / 2 ^ n) + v % 2 ^ n) + w.toNat % 2 ^ lo := by
    have h1 := Nat.div_add_mod w.toNat (2 ^ lo)
    have h2 := Nat.div_add_mod (w.toNat / 2 ^ lo) (2 ^ n)
    have h3 := congrArg (2 ^ lo * ·) h2
    simp only [Nat.mul_add, bits, Nat.mul_comm _ (2 ^ lo)] at h3 ⊢
    omega
  rw [BitVec.put, BitVec.getLsbD_ofNat, hsplit, Nat.testBit_two_pow_mul_add _ hbelow, Nat.testBit_two_pow_mul_add _ hfield]
  congr 1
  by_cases hlo : i < lo
  · simp [hlo, Nat.not_le.2 hlo, Nat.testBit_mod_two_pow, BitVec.getLsbD]
  · by_cases hn : i - lo < n
    · have : i < lo + n := by omega
      simp [hlo, Nat.le_of_not_lt hlo, hn, this, Nat.testBit_mod_two_pow]
    · have : ¬ i < lo + n := by omega
      simp only [hlo, hn, this, and_false, if_false, Nat.testBit_div_two_pow, BitVec.getLsbD]
      congr 1
      omega

/-- A replaced bit. -/
theorem getLsbD_put_one (w : Word) {lo : Nat} (hlo : lo < 64) (v i : Nat) :
    (w.put lo 1 v).getLsbD i = if i = lo then v.testBit 0 else w.getLsbD i := by
  rw [getLsbD_put]
  by_cases h : i = lo
  · subst h; simp [hlo]
  · have : ¬ (lo ≤ i ∧ i < lo + 1) := by omega
    simp only [this, h, if_false, Bool.and_eq_right_iff_imp, decide_eq_true_eq]
    exact fun hi => BitVec.lt_of_getLsbD hi

/-- A field of one bit, put back as a number. -/
theorem testBit_fld_one {k : Nat} (w : BitVec k) (n : Nat) : (w.fld n 1).testBit 0 = w.getLsbD n := by
  rw [Bool.eq_iff_iff, ← fld_one, Nat.testBit_zero, decide_eq_true_eq]
  have := fld_lt w n 1
  omega

end Sys2Proof.Machine
end

section
/-! # The running context, and its taking of a trap (05 R152) -/

namespace Sys2Proof
open Sys2Proof.Machine

/-- The running context of a state that names the same one. -/
theorem cc_of_cur {s t : State} (h : t.cur = s.cur) : t.cc = t.ctx s.cur.ctx := by
  rw [← h]
  rfl

/-- A change of the running context. -/
@[simp] theorem cc_modC (s : State) (f : Ctx → Ctx) : (s.modC f).cc = f s.cc := State.setCtx_ctx_self ..

theorem ctx_modC_ne (s : State) {k : Nat} (f : Ctx → Ctx) (h : k ≠ s.cur.ctx) : (s.modC f).ctx k = s.ctx k :=
  State.setCtx_ctx_ne _ _ _ h

/-- R152: status at the entry of a handler. -/
theorem statusEntered_enter (c : Ctx) (code level : Nat) (async : Bool) (v h : Word) :
    StatusEntered c.status (c.enter code level async v h).status := by
  have hbit (i : Nat) : (c.enter code level async v h).status.getLsbD i
      = if i = 2 then true else if i = 0 then false else if i = 1 then c.status.getLsbD 0 else c.status.getLsbD i := by
    simp only [Ctx.enter, getLsbD_put_one _ (by decide : 2 < 64), getLsbD_put_one _ (by decide : 0 < 64),
      getLsbD_put_one _ (by decide : 1 < 64), testBit_fld_one]
    rfl
  refine ⟨hbit 0, hbit 1, hbit 2, fun n hn => ?_⟩
  rw [hbit, if_neg (by omega), if_neg (by omega), if_neg (by omega)]

/-- R152: a context that was READY with nothing in flight, outside a repeat, at the entry of its handler. -/
theorem entered_enter {c : Ctx} (code : Nat) (v h : Word) (hst : c.st = .ready) (hb : c.busy = none) (hw : c.wait = none)
    (hr : c.repOn = false) : Entered code v h c (c.enter code 2 false v h) := by
  refine ⟨?_, statusEntered_enter ..⟩
  obtain ⟨⟩ := c
  cases hst; cases hb; cases hw; cases hr
  simp [Ctx.enter, boolBit]

/-- The running context is not in its handler. -/
theorem intrap_clear {s : State} (ht : CanTrap s) : s.cc.status.getLsbD 2 = false :=
  Bool.eq_false_iff.2 fun h => field_clear ht.1 ((fld_one ..).2 h)

/-- R152: a context with a handler, and not in it, enters it. -/
theorem trapSync_enters {s : State} {k : Nat} (code : Nat) (v h : Word) (va : Nat) (hin : (s.ctx k).status.getLsbD 2 = false)
    (htv : (s.ctx k).tvec ≠ 0) : trapSync s k code v h va = s.setCtx k ((s.ctx k).enter code 2 false v h) := by
  have : ¬ (s.ctx k).status.fld 2 1 = 1 := fun h => Bool.false_ne_true (hin.symm.trans ((fld_one ..).1 h))
  simp only [trapSync, if_neg this, if_neg htv]

end Sys2Proof
end

section
/-! # What a translation and a fetch leave (05 R142, R161) -/

namespace Sys2Proof.Machine

/-- R142: a translation changes the cache of the context's stoker alone. -/
theorem translateCtx_frame {s s1 : State} {k va : Nat} {e : TlbEnt} (h : translateCtx s k va = .ok (s1, e)) :
    s1 = { s with stokers := s1.stokers } ∧ ∀ j, j ≠ k / 8 → s1.stoker j = s.stoker j := by
  unfold translateCtx at h
  dsimp only at h
  split at h
  case h_1 =>
    cases h
    exact ⟨rfl, fun _ _ => rfl⟩
  case h_2 =>
    split at h <;> cases h
    exact ⟨rfl, fun j hj => State.setStoker_stoker_ne _ _ _ hj⟩

/-- R358, R406: counting line transfers changes the use of budgets, the free choices drawn and the damper's count alone. -/
theorem countLines_frame (s : State) (l pa : Nat) (cached : Bool) (n : Nat) :
    countLines s l pa cached n = { s with leases := (countLines s l pa cached n).leases, freeN := (countLines s l pa cached n).freeN,
                                          hits := (countLines s l pa cached n).hits } := by
  induction n generalizing s pa with
  | zero => rfl
  | succ n ih =>
    rw [countLines, ih]
    cases cached <;> rfl

/-- R161: a word that memory gives leaves every context. -/
theorem memWord_frame {s s1 : State} {k va : Nat} {w : Code} (h : memWord s k va = .ok (s1, w)) :
    s1 = { s with stokers := s1.stokers, leases := s1.leases, freeN := s1.freeN, hits := s1.hits } := by
  unfold memWord at h
  split at h
  case h_1 => cases h
  case h_2 s0 e ht =>
    split at h
    case h_1 => cases h
    case h_2 =>
      split at h
      · cases h
      · cases h
        rw [countLines_frame, (translateCtx_frame ht).1]

/-- What a fetch by context k leaves: of the contexts it changes only the words that k has fetched ahead. -/
def FetchFrame (s : State) (k : Nat) (t : State) : Prop :=
  t = { s with ctxs := t.ctxs, stokers := t.stokers, leases := t.leases, freeN := t.freeN, hits := t.hits }
  ∧ t.ctx k = { s.ctx k with fbuf := (t.ctx k).fbuf }

theorem fetchFrame_ahead {s s0 : State} {k va : Nat} {w : Code} (h : memWord s k va = .ok (s0, w)) (b : List (Nat × Code)) :
    FetchFrame s k (s0.modCtx k (fun c => { c with fbuf := b })) := by
  have hctx : s0.ctx k = s.ctx k := by rw [memWord_frame h]; rfl
  refine ⟨?_, ?_⟩
  · rw [memWord_frame h]
    rfl
  · rw [State.modCtx, State.setCtx_ctx_self, hctx]

theorem FetchFrame.cur_eq {s t : State} {k : Nat} (h : FetchFrame s k t) : t.cur = s.cur := by rw [h.1]

/-- The running context after it has fetched. -/
theorem FetchFrame.cc_eq {s t : State} (h : FetchFrame s s.cur.ctx t) : t.cc = { s.cc with fbuf := t.cc.fbuf } := by
  rw [cc_of_cur h.cur_eq]
  exact h.2

theorem FetchFrame.drawn {s t : State} {k : Nat} (h : FetchFrame s k t) : FetchFrame s k t.drawn := by
  obtain ⟨heq, hctx⟩ := h
  refine ⟨?_, hctx⟩
  rw [heq]
  rfl

/-- R161: what a fetch that answers a word leaves. -/
theorem fetchWord_frame {s s1 : State} {k va : Nat} {w : Code} (h : fetchWord s k va = .ok (s1, w)) : FetchFrame s k s1 := by
  unfold fetchWord at h
  dsimp only at h
  split at h
  case h_1 => cases h
  case h_2 hm =>
    cases h
    exact fetchFrame_ahead hm _
  case h_3 =>
    split at h <;> cases h
    exact ⟨rfl, rfl⟩
  case h_4 hm =>
    split at h <;> cases h
    · exact fetchFrame_ahead hm _
    · exact (fetchFrame_ahead hm _).drawn

end Sys2Proof.Machine
end

section
/-! # The start of a REP (04 R117, 05 R163) -/

namespace Sys2Proof
open Sys2Proof.Machine

/-- An appended word as a number. -/
theorem toNat_append_eq_add {m n : Nat} (x : BitVec m) (y : BitVec n) : (x ++ y).toNat = x.toNat * 2 ^ n + y.toNat := by
  rw [BitVec.toNat_append, ← Nat.shiftLeft_add_eq_or_of_lt y.isLt, Nat.shiftLeft_eq]

/-- R30, R60: repstate of a REP that starts, field by field. -/
abbrev repWordOf (n : BitVec 6) (d a b : BitVec 1) (e f g : BitVec 2) : Word :=
  (1#1 ++ 0#10 ++ e ++ f ++ g ++ d ++ a ++ b ++ n ++ 0#6).setWidth 64

theorem repWordOf_eq (n : BitVec 6) (d a b : BitVec 1) (e f g : BitVec 2) :
    repWordOf n d a b e f g = BitVec.ofNat 64 (2 ^ 31 + e.toNat * 2 ^ 19 + f.toNat * 2 ^ 17 + g.toNat * 2 ^ 15
        + (4 * d.toNat + 2 * a.toNat + b.toNat) * 2 ^ 12 + n.toNat * 2 ^ 6) := by
  apply BitVec.eq_of_toNat_eq
  simp only [BitVec.toNat_ofNat, BitVec.toNat_setWidth, toNat_append_eq_add]
  congr 1
  omega

/-- R163: the context that starts its repeats. -/
def repStarted (rs : Word) (w : Code) (c : Ctx) : Ctx :=
  { c with repstate := rs, status := c.status.put 4 1 1, repOn := true, repW := some w }

/-- R163: a REP before a word that may follow it. -/
theorem execRep_starts {s s1 : State} {w : Code} (n : BitVec 6) (d a b : BitVec 1) (e f g : BitVec 2)
    (hf : fetchWord s s.cur.ctx (s.cc.pc + 4).toNat = .ok (s1, w))
    (hw : repOk w (4 * d.toNat + 2 * a.toNat + b.toNat) = true) :
    exec (.rep n d a b e f g) s = .next (progress (s1.modCtx s.cur.ctx
      (repStarted (repWordOf n d a b e f g) w)) s.cc.lease) := by
  rw [repWordOf_eq]
  show execRep n d a b e f g s = _
  simp only [execRep, hf, hw, Bool.not_true, Bool.false_eq_true, if_false]
  rfl

/-- R117: a REP before a word that may not follow it. -/
theorem execRep_traps {s s1 : State} {w : Code} (n : BitVec 6) (d a b : BitVec 1) (e f g : BitVec 2)
    (hf : fetchWord s s.cur.ctx (s.cc.pc + 4).toNat = .ok (s1, w))
    (hw : repOk w (4 * d.toNat + 2 * a.toNat + b.toNat) = false) :
    exec (.rep n d a b e f g) s
      = .next (trapSync (s1.modCtx s.cur.ctx Ctx.repClear) s.cur.ctx 0x01 (BitVec.ofNat 64 w.toNat) 0) := by
  show execRep n d a b e f g s = _
  simp only [execRep, hf, hw, Bool.not_false, if_true]

/-- R367: progress clears one lease's count. -/
theorem progress_lease (s : State) (l j : Nat) :
    (progress s l).lease j = if j = l then { s.lease j with prog := 0 } else s.lease j := by
  by_cases h : j = l
  · subst h; simp [progress, State.modLease]
  · rw [if_neg h]
    exact State.setLease_lease_ne _ _ _ h

/-- A REP that is given up leaves the other bits of status. -/
theorem repClear_status (c : Ctx) (i : Nat) : c.repClear.status.getLsbD i = if i = 4 then false else c.status.getLsbD i :=
  getLsbD_put_one _ (by decide) 0 i

/-- R163: what the start of a REP leaves, on the state s1 in which its word has been fetched. -/
theorem rep_started_frame (s1 : State) (l : Nat) (rs : Word) (w : Code) :
    let t := progress (s1.modC (repStarted rs w)) l
    t.cc = { s1.cc with repstate := t.cc.repstate, status := t.cc.status, repOn := true, repW := some w }
    ∧ (∀ m, t.cc.status.getLsbD m = (decide (m = 4) || s1.cc.status.getLsbD m))
    ∧ t.cc.repstate = rs
    ∧ (∀ k, k ≠ s1.cur.ctx → t.ctx k = s1.ctx k)
    ∧ t = { s1 with ctxs := t.ctxs, leases := t.leases }
    ∧ ∀ j, t.lease j = if j = l then { s1.lease j with prog := 0 } else s1.lease j := by
  intro t
  have hcc : t.cc = repStarted rs w s1.cc := cc_modC s1 _
  refine ⟨by rw [hcc]; rfl, fun m => ?_, by rw [hcc]; rfl, fun k hk => ctx_modC_ne s1 _ hk, rfl, fun j => progress_lease _ l j⟩
  rw [hcc, repStarted, getLsbD_put_one _ (by decide)]
  by_cases hm : m = 4 <;> simp [hm]

/-- R117, R152: what the trap of a REP leaves, on the state s1 in which its word has been fetched. -/
theorem rep_trapped_frame {s1 : State} (v : Word) (hi : Issues s1) (ht : CanTrap s1) :
    let t := trapSync (s1.modC Ctx.repClear) s1.cur.ctx 0x01 v 0
    t = { s1 with ctxs := t.ctxs } ∧ (∀ k, k ≠ s1.cur.ctx → t.ctx k = s1.ctx k)
    ∧ t.cc = { s1.cc with epc := s1.cc.pc, cause := BitVec.ofNat 64 (2 * 2 ^ 8 + 0x01), tval := v, tvalh := 0,
                          repstate := t.cc.repstate, status := t.cc.status, pc := s1.cc.tvec }
    ∧ t.cc.repstate.getLsbD 31 = false ∧ t.cc.status.getLsbD 4 = false ∧ t.cc.status.getLsbD 2 = true := by
  intro t
  obtain ⟨hst, hb, hw, hr, -⟩ := hi
  have hclear : (s1.modC Ctx.repClear).ctx s1.cur.ctx = s1.cc.repClear := cc_modC s1 _
  have hin : s1.cc.repClear.status.getLsbD 2 = false := (repClear_status s1.cc 2).trans (intrap_clear ht)
  have heq : t = (s1.modC Ctx.repClear).setCtx s1.cur.ctx (s1.cc.repClear.enter 0x01 2 false v 0) := by
    rw [← hclear] at hin ⊢
    exact trapSync_enters 0x01 v 0 0 hin (hclear ▸ ht.2)
  have hcc : t.cc = s1.cc.repClear.enter 0x01 2 false v 0 := by rw [heq]; exact State.setCtx_ctx_self ..
  obtain ⟨hent, -, -, hintrap, hrest⟩ := entered_enter (c := s1.cc.repClear) 0x01 v 0 hst hb hw rfl
  refine ⟨by rw [heq]; rfl, fun k hk => ?_, ?_, ?_, ?_, ?_⟩
  · rw [heq, State.setCtx_ctx_ne _ _ _ hk, ctx_modC_ne _ _ hk]
  · rw [hcc, hent, Ctx.repClear, ← hr]
  · rw [hcc, hent]
    exact getLsbD_put_one _ (by decide) 0 31
  · rw [hcc, hrest 4 (by decide)]
    exact repClear_status s1.cc 4
  · rw [hcc]
    exact hintrap

/-- Settles O26: the word that follows is fetched, which leaves the context but for the words fetched ahead; then the repeats start,
or the REP is given up and its trap taken. -/
theorem repStarts : Obligations.RepStarts := by
  unfold Obligations.RepStarts
  intro s s1 n d a b e f g w hi hf
  have hframe := fetchWord_frame hf
  have hcc : s1.cc = { s.cc with fbuf := s1.cc.fbuf } := hframe.cc_eq
  refine ⟨fun hw => ⟨_, execRep_starts n d a b e f g hf hw, ?_⟩, fun hw ht => ⟨_, execRep_traps n d a b e f g hf hw, ?_⟩⟩
  · rw [← hframe.cur_eq]
    exact rep_started_frame s1 s.cc.lease _ w
  · rw [← hframe.cur_eq]
    have hpc : s1.cc.pc = s.cc.pc := by rw [hcc]
    have htvec : s1.cc.tvec = s.cc.tvec := by rw [hcc]
    have hissues : Issues s1 := by rw [Issues, hcc]; exact hi
    have htrap : CanTrap s1 := by rw [CanTrap, hcc]; exact ht
    rw [← hpc, ← htvec, BitVec.ofNat_toNat]
    exact rep_trapped_frame _ hissues htrap

end Sys2Proof
end

section
/-! # The checks of an access of a context, case by case (04 R116, 05 R141) -/

namespace Sys2Proof.Machine

theorem accessAt_misaligned {s : State} {k va : Nat} {op : AccOp} (h : va % accSize op ≠ 0) :
    accessAt s k op va = accFault s k 0x03 va := by
  rw [accessAt, if_pos h]

theorem accessAt_untranslated {s : State} {k va code : Nat} {op : AccOp} (h : va % accSize op = 0)
    (ht : translateCtx s k va = .error code) : accessAt s k op va = accFault s k code va := by
  simp only [accessAt, h, ne_eq, not_true, if_false, ht]

/-- The translation of an access leaves who makes it. -/
theorem ctxWho_of_translateCtx {s s1 : State} {k va : Nat} {e : TlbEnt} (h : translateCtx s k va = .ok (s1, e)) :
    ctxWho s1 k = ctxWho s k := by
  rw [(translateCtx_frame h).1]
  rfl

section
variable {s s1 : State} {k va : Nat} {op : AccOp} {e : TlbEnt} (hsize : va % accSize op = 0)
  (ht : translateCtx s k va = .ok (s1, e))
include hsize ht

theorem accessAt_refused {code : Nat} (hc : pageCheck s1 (ctxWho s k) va e (accNeed op) = .error code) :
    accessAt s k op va = accFault s1 k code va := by
  simp only [accessAt, hsize, ne_eq, not_true, if_false, ht, ctxWho_of_translateCtx ht, hc]

theorem accessAt_allowed {pa : Nat} (hc : pageCheck s1 (ctxWho s k) va e (accNeed op) = .ok pa) :
    accessAt s k op va = sendAcc s1 k op va pa e.attr := by
  simp only [accessAt, hsize, ne_eq, not_true, if_false, ht, ctxWho_of_translateCtx ht, hc]

end

/-- An access that nothing holds, to a page that is no system window, is performed within its issue. -/
theorem sendAcc_performed {s : State} {k va pa : Nat} {op : AccOp} {a : PageAttr} (hsys : a.sysw = false)
    (htransit : s.cur.transit = false) (hframe : frameHeld s pa = false) (hhbm : hbmSpent (s.lease (s.ctx k).lease) = false)
    (hbar : barLate s k pa op = false)
    (hhome : (Req.setOut s { ctx := k, op, va, pa, attr := a }).held = false ∧ (Req.setOut s { ctx := k, op, va, pa, attr := a }).way = []) :
    sendAcc s k op va pa a = finishAcc (performAcc s k op va pa a).1 k op va pa
      (seenAt (performAcc s k op va pa a).1 op pa) (performAcc s k op va pa a).2 := by
  obtain ⟨hheld, hway⟩ := hhome
  simp [sendAcc, hsys, htransit, hframe, hbmHeld, hhbm, hbar, hheld, hway]

/-- R230: whether an address lies in an open proof range of a group that the agent is not in. -/
abbrev inForeignRange (s : State) (w : Who) (va : Nat) : Bool :=
  (openHolds s (w.part s) va).any (fun h => h.1 != w.lease || !h.2.1.has w.agent)

/-- R230: the check of a page refuses a write in a foreign open range. -/
theorem pageCheck_write_ok {s : State} {w : Who} {va pa : Nat} {e : TlbEnt} (h : pageCheck s w va e { w := true } = .ok pa) :
    inForeignRange s w va = false := by
  rw [Bool.eq_false_iff]
  intro hforeign
  simp only [pageCheck, hforeign, Bool.true_and, if_true] at h
  repeat' split at h
  all_goals cases h

/-- R141, R331: a write that needs a new shadow line and finds no pool line. -/
theorem writeLine_noPool {s : State} {w : Who} {ln va : Nat} (mask val : LineData)
    (hopen : inForeignRange s w va = false)
    (hcur : (lineRec s ln).cur = none)
    (hpool : poolLimit (s.part (w.part s)) (lineHome ln) ≤ Tbl.get 0 (s.part (w.part s)).inUse (lineHome ln)) :
    writeLine s w ln va mask val = .error 0x0C := by
  have htake : takePool s (w.part s) (lineHome ln) = none := by simp [takePool, Nat.not_lt.2 hpool]
  simp only [writeLine, hopen, hcur, htake, Bool.false_eq_true, if_false]

theorem storeAt_noPool {s : State} {w : Who} {va pa n mask val : Nat} {a : PageAttr}
    (hopen : inForeignRange s w va = false)
    (hphased : isPhased s w va a = true) (hcur : (lineRec s (pa / 128)).cur = none)
    (hpool : poolLimit (s.part (w.part s)) (lineHome (pa / 128)) ≤ Tbl.get 0 (s.part (w.part s)).inUse (lineHome (pa / 128))) :
    storeAt s w va pa a n mask val = .error 0x0C := by
  simp only [storeAt, hphased, if_true, writePhased, writeLine_noPool _ _ hopen hcur hpool]

end Sys2Proof.Machine
end

section
/-! # Loads and stores that trap (05 R137 to R141, R152) -/

namespace Sys2Proof
open Sys2Proof.Machine

/-- R152, R153: an access's fault of the customer's level, on a state u with the contexts of s. -/
theorem accFault_enters {s u : State} {code : Nat} (va : Nat) (hi : Issues s) (ht : CanTrap s) (hc : codeLevel code = 2)
    (hctxs : u.ctxs = s.ctxs) (hcur : u.cur = s.cur) :
    let t := accFault u s.cur.ctx code va
    t = { u with ctxs := t.ctxs } ∧ (∀ k, k ≠ s.cur.ctx → t.ctx k = s.ctx k)
    ∧ Entered code (BitVec.ofNat 64 va) (BitVec.ofNat 64 (va / 2 ^ 64)) s.cc t.cc := by
  intro t
  obtain ⟨hst, hb, hw, hr, -⟩ := hi
  have hctx (k : Nat) : u.ctx k = s.ctx k := by rw [State.ctx, hctxs]; rfl
  have hidle : { s.cc with busy := none } = s.cc := by rw [← hb]
  have hself : (u.modCtx s.cur.ctx (fun c => { c with busy := none })).ctx s.cur.ctx = s.cc := by
    rw [State.modCtx, State.setCtx_ctx_self, hctx]
    exact hidle
  have htag : code ≠ 0x08 := by rintro rfl; exact absurd hc (by decide)
  have heq : t = (u.modCtx s.cur.ctx (fun c => { c with busy := none })).setCtx s.cur.ctx
      (s.cc.enter code 2 false (BitVec.ofNat 64 va) (BitVec.ofNat 64 (va / 2 ^ 64))) := by
    have henter := trapSync_enters code (BitVec.ofNat 64 va) (BitVec.ofNat 64 (va / 2 ^ 64)) va
      (hself ▸ intrap_clear ht) (hself ▸ ht.2)
    rw [hself] at henter
    simp only [t, accFault, if_neg htag, faultVa, fault, if_pos hc, henter]
  refine ⟨by rw [heq]; rfl, fun k hk => ?_, ?_⟩
  · rw [heq, State.setCtx_ctx_ne _ _ _ hk, State.modCtx, State.setCtx_ctx_ne _ _ _ hk, hctx]
  · have htcur : t.cur = s.cur := by rw [heq]; exact hcur
    rw [cc_of_cur htcur, heq, State.setCtx_ctx_self]
    exact entered_enter code _ _ hst hb hw hr

section
variable {i : Instr} {s : State} {code va : Nat} (hi : Issues s) (ht : CanTrap s) (hc : codeLevel code = 2)
include hi ht hc

/-- An instruction that ends in such a fault before any translation. -/
theorem enters_of_accFault (h : exec i s = .next (accFault s s.cur.ctx code va)) :
    Enters i s code (BitVec.ofNat 64 va) (BitVec.ofNat 64 (va / 2 ^ 64)) := by
  obtain ⟨heq, hothers, hent⟩ := accFault_enters va hi ht hc rfl rfl
  exact ⟨_, h, ⟨heq, hothers⟩, hent⟩

/-- An instruction that ends in such a fault, its stoker's cache filled or not. -/
theorem faultsAt_of_accFault {u : State} (hu : u = { s with stokers := u.stokers })
    (hstoker : ∀ j, j ≠ s.cur.ctx / 8 → u.stoker j = s.stoker j) (h : exec i s = .next (accFault u s.cur.ctx code va)) :
    FaultsAt i s code va := by
  obtain ⟨heq, hothers, hent⟩ := accFault_enters (u := u) va hi ht hc (by rw [hu]) (by rw [hu])
  refine ⟨_, h, ?_, hothers, fun j hj => ?_, hent⟩
  · rw [heq, hu]
  · rw [heq]
    exact hstoker j hj

end

/-! ### The forms -/

/-- The loads, with their widths (R138, R139). -/
abbrev loadForms (d : BitVec 5) (r : BitVec 3) (im : BitVec 18) : List (Instr × Nat) :=
  [(.ldb d r im, 1), (.ldbu d r im, 1), (.ldh d r im, 2), (.ldhu d r im, 2), (.ldw d r im, 4),
    (.ldwu d r im, 4), (.ldd d r im, 8), (.fldw d r im, 4), (.fldd d r im, 8)]

/-- The stores, with their widths (R138, R139). -/
abbrev storeForms (d : BitVec 5) (r : BitVec 3) (im : BitVec 18) : List (Instr × Nat) :=
  [(.stb d r im, 1), (.sth d r im, 2), (.stw d r im, 4), (.std d r im, 8), (.fstw d r im, 4), (.fstd d r im, 8)]

/-- The instruction is an access of w bytes at va that needs `need` of its page. -/
def Accesses (i : Instr) (s : State) (va w : Nat) (need : Need) : Prop :=
  ∃ op, exec i s = .next (access s op va) ∧ accSize op = w ∧ accNeed op = need

section
variable {d : BitVec 5} {r : BitVec 3} {im : BitVec 18} {i : Instr} {w : Nat} (s : State)

/-- R137 to R139: what each load accesses. -/
theorem loadForms_accesses (h : (i, w) ∈ loadForms d r im) : Accesses i s (s.cc.ra r + im.signExtend 80).toNat w { r := true } := by
  simp only [List.mem_cons, Prod.mk.injEq, List.not_mem_nil, or_false] at h
  rcases h with ⟨rfl, rfl⟩ | ⟨rfl, rfl⟩ | ⟨rfl, rfl⟩ | ⟨rfl, rfl⟩ | ⟨rfl, rfl⟩ | ⟨rfl, rfl⟩ | ⟨rfl, rfl⟩ | ⟨rfl, rfl⟩
    | ⟨rfl, rfl⟩
  all_goals exact ⟨_, rfl, rfl, rfl⟩

/-- R137 to R139: each store is a store of its width. -/
theorem storeForms_stores (h : (i, w) ∈ storeForms d r im) :
    ∃ v, exec i s = .next (access s (.store w v) (s.cc.ra r + im.signExtend 80).toNat) := by
  simp only [List.mem_cons, Prod.mk.injEq, List.not_mem_nil, or_false] at h
  rcases h with ⟨rfl, rfl⟩ | ⟨rfl, rfl⟩ | ⟨rfl, rfl⟩ | ⟨rfl, rfl⟩ | ⟨rfl, rfl⟩ | ⟨rfl, rfl⟩
  all_goals exact ⟨_, rfl⟩

theorem storeForms_accesses (h : (i, w) ∈ storeForms d r im) : Accesses i s (s.cc.ra r + im.signExtend 80).toNat w { w := true } :=
  let ⟨_, hv⟩ := storeForms_stores s h
  ⟨_, hv, rfl, rfl⟩

end

/-! ### Refused accesses -/

section
variable {i : Instr} {s : State} {va w : Nat} {need : Need}

theorem Accesses.misaligned (ha : Accesses i s va w need) (hal : va % w ≠ 0) :
    exec i s = .next (accFault s s.cur.ctx 0x03 va) := by
  obtain ⟨op, hexec, rfl, -⟩ := ha
  rw [hexec, access, accessAt_misaligned hal]

theorem Accesses.untranslated (ha : Accesses i s va w need) (hal : va % w = 0) {code : Nat}
    (ht : translateCtx s s.cur.ctx va = .error code) : exec i s = .next (accFault s s.cur.ctx code va) := by
  obtain ⟨op, hexec, rfl, -⟩ := ha
  rw [hexec, access, accessAt_untranslated hal ht]

theorem Accesses.refused (ha : Accesses i s va w need) (hal : va % w = 0) {code : Nat} {s1 : State} {e : TlbEnt}
    (ht : translateCtx s s.cur.ctx va = .ok (s1, e)) (hc : pageCheck s1 (meWho s) va e need = .error code) :
    exec i s = .next (accFault s1 s.cur.ctx code va) := by
  obtain ⟨op, hexec, rfl, rfl⟩ := ha
  rw [hexec, access, accessAt_refused hal ht hc]

/-- R116, R137: the checks that refuse an access with a code of the customer's level. -/
theorem Accesses.refuses (ha : Accesses i s va w need) (hi : Issues s) : Refuses i s va w need := by
  refine fun ht => ⟨fun hal => ?_, fun hal code hc => ⟨fun htr => ?_, fun s1 e htr hpage => ?_⟩⟩
  · exact faultsAt_of_accFault hi ht rfl rfl (fun _ _ => rfl) (ha.misaligned hal)
  · exact faultsAt_of_accFault hi ht hc rfl (fun _ _ => rfl) (ha.untranslated hal htr)
  · obtain ⟨hs1, hstoker⟩ := translateCtx_frame htr
    exact faultsAt_of_accFault hi ht hc hs1 hstoker (ha.refused hal htr hpage)

/-- R141: a store that finds no pool line for the shadow that it needs. -/
theorem store_noPool_faults {s1 : State} {e : TlbEnt} {pa : Nat} {v : Word}
    (hexec : exec i s = .next (access s (.store w v) va))
    (hi : Issues s) (ht : CanTrap s) (hreach : Reaches s va w { w := true } s1 e pa)
    (hphased : isPhased s1 (meWho s) va e.attr = true) (hcur : (lineRec s1 (pa / 128)).cur = none)
    (hpool : poolLimit (s1.part (s.lease s.cc.lease).part) (lineHome (pa / 128))
      ≤ Tbl.get 0 (s1.part (s.lease s.cc.lease).part).inUse (lineHome (pa / 128))) : FaultsAt i s 0x0C va := by
  obtain ⟨hal, htr, hpage, hsys, htransit, hframe, hhbm, hhome⟩ := hreach
  obtain ⟨hs1, hstoker⟩ := translateCtx_frame htr
  have hwho : ctxWho s1 s.cur.ctx = meWho s := ctxWho_of_translateCtx htr
  have hpart : (meWho s).part s1 = (s.lease s.cc.lease).part := by rw [hs1]; rfl
  have hfull := storeAt_noPool (n := w) (mask := fullMask w) (val := v.toNat) (pageCheck_write_ok hpage) hphased hcur
    (hpart.symm ▸ hpool)
  have hperf : performAcc s1 s.cur.ctx (.store w v) va pa e.attr = (s1, .trap 0x0C) := by
    simp only [performAcc, hwho, hfull]
  have hsent : accessAt s s.cur.ctx (.store w v) va = accFault s1 s.cur.ctx 0x0C va := by
    rw [accessAt_allowed (op := .store w v) hal htr hpage, sendAcc_performed hsys (by rw [hs1]; exact htransit) hframe
      (by rw [hs1]; exact hhbm) rfl (hhome ..), hperf]
    rfl
  exact faultsAt_of_accFault hi ht rfl hs1 hstoker (by rw [hexec, access, hsent])

end
end Sys2Proof
end

section
/-! # What the writing of a record and the freeze of a region leave (02 R71, 11 R365, 13 R433) -/

namespace Sys2Proof.Machine

/-! ### Records (R71, R433) -/

/-- What the writing of a record may change: handler queues, and host memory behind them. -/
def RecordFrame (s t : State) : Prop := t = { s with host := t.host, pkg := t.pkg, parts := t.parts }

theorem RecordFrame.trans {s t u : State} (h : RecordFrame s t) (g : RecordFrame t u) : RecordFrame s u := by
  rw [RecordFrame] at h g ⊢
  rw [g, h]

section
variable {s t : State} (h : RecordFrame s t)
include h

theorem RecordFrame.cur_eq : t.cur = s.cur := by rw [RecordFrame] at h; rw [h]
theorem RecordFrame.mem_eq : t.mem = s.mem := by rw [RecordFrame] at h; rw [h]
theorem RecordFrame.ctx_eq (k : Nat) : t.ctx k = s.ctx k := by rw [RecordFrame] at h; rw [h]; rfl
theorem RecordFrame.lease_eq (l : Nat) : t.lease l = s.lease l := by rw [RecordFrame] at h; rw [h]; rfl

end

theorem setHgroup_frame (s : State) (level p : Nat) (h : HGroup) : RecordFrame s (setHgroup s level p h) := by
  unfold setHgroup
  split
  · rfl
  · split <;> rfl

theorem writeHqWords_frame (base size : Nat) (ws : List Word) :
    ∀ (s : State) (tail : Nat), RecordFrame s (writeHqWords s base size tail ws) := by
  induction ws with
  | nil => exact fun _ _ => rfl
  | cons w ws ih => exact fun s tail => RecordFrame.trans (t := setHostWord s _ w) rfl (ih _ _)

theorem putRecord_frame (s : State) (level p : Nat) (ws : List Word) : RecordFrame s (putRecord s level p ws) := by
  have hput (h : HGroup) (base size tail : Nat) : RecordFrame s (setHgroup (writeHqWords s base size tail ws) level p h) :=
    (writeHqWords_frame ..).trans (setHgroup_frame ..)
  unfold putRecord
  dsimp only
  split
  · exact (hput ..).trans rfl
  · exact hput ..

theorem flushRecords_frame (level p n : Nat) : ∀ s : State, RecordFrame s (flushRecords s level p n) := by
  induction n with
  | zero => exact fun _ => rfl
  | succ n ih =>
    intro s
    unfold flushRecords
    dsimp only
    split
    · rfl
    · split
      · exact (setHgroup_frame ..).trans ((putRecord_frame ..).trans (ih _))
      · rfl

theorem writeFRec_frame (s : State) (r : FRec) : RecordFrame s (writeFRec s r) :=
  (setHgroup_frame ..).trans (flushRecords_frame ..)

/-! ### The freeze of a region (R365) -/

/-- A table that gives a key another element than the default one lists it there. -/
theorem Tbl.mem_of_get_ne {α : Type} {d : α} {t : Tbl α} {k : Nat} (h : Tbl.get d t k ≠ d) : (k, Tbl.get d t k) ∈ t := by
  induction t with
  | nil => exact absurd rfl h
  | cons e r ih =>
    by_cases hk : e.1 = k
    · simp [Tbl.get, ← hk]
    · rw [Tbl.get, if_neg hk] at h ⊢
      exact List.mem_cons_of_mem _ (ih h)

/-- A context that is not FREE is among those of its lease. -/
theorem mem_leaseCtxs {s : State} {k : Nat} (h : (s.ctx k).st ≠ .free) : k ∈ leaseCtxs s (s.ctx k).lease := by
  have hmem : (k, s.ctx k) ∈ s.ctxs := Tbl.mem_of_get_ne fun hd => h (by rw [State.ctx, hd])
  exact List.mem_map.2 ⟨_, List.mem_filter.2 ⟨hmem, by simp [h]⟩, rfl⟩

theorem foldl_modCtx_frame (f : Ctx → Ctx) (ks : List Nat) (s : State) :
    ks.foldl (fun s k => s.modCtx k f) s = { s with ctxs := (ks.foldl (fun s k => s.modCtx k f) s).ctxs } := by
  induction ks generalizing s with
  | nil => rfl
  | cons k ks ih => rw [List.foldl_cons, ih]; rfl

/-- A change of several contexts that is the same made twice, for it may be made twice where a table lists a key twice. -/
theorem foldl_modCtx_ctx {f : Ctx → Ctx} (hf : ∀ c, f (f c) = f c) (ks : List Nat) (s : State) (k : Nat) :
    (ks.foldl (fun s k => s.modCtx k f) s).ctx k = if k ∈ ks then f (s.ctx k) else s.ctx k := by
  induction ks generalizing s with
  | nil => rfl
  | cons j ks ih =>
    rw [List.foldl_cons, ih]
    by_cases hk : k = j
    · subst hk
      simp [State.modCtx, hf]
    · rw [State.modCtx, State.setCtx_ctx_ne _ _ _ hk]
      simp [hk]

theorem foldl_modTile_frame (f : Tile → Tile) (ks : List Nat) (s : State) :
    ks.foldl (fun s k => s.modTile k f) s = { s with tiles := (ks.foldl (fun s k => s.modTile k f) s).tiles } := by
  induction ks generalizing s with
  | nil => rfl
  | cons k ks ih => rw [List.foldl_cons, ih]; rfl

theorem Ctx.freeze_freeze (c : Ctx) : c.freeze.freeze = c.freeze := by
  cases hst : c.st <;> simp [Ctx.freeze, hst]

section
variable (s : State) (l : Nat) (st : LeaseSt)

theorem stopUnits_frame : stopUnits s l st = { s with ctxs := (stopUnits s l st).ctxs, tiles := (stopUnits s l st).tiles,
                                                      leases := (stopUnits s l st).leases } := by
  rw [stopUnits, modLeaseTiles, foldl_modTile_frame, modLeaseCtxs, foldl_modCtx_frame]
  rfl

theorem stopUnits_lease : (stopUnits s l st).lease l
    = { s.lease l with st, haltAt := s.ordn + 1, rings := (s.lease l).rings.map (fun e => (e.1, e.2.lastBeat)) } := by
  rw [stopUnits, State.modLease, State.setLease_lease_self, modLeaseTiles, foldl_modTile_frame, modLeaseCtxs, foldl_modCtx_frame]
  rfl

theorem stopUnits_ctx {k : Nat} (h : k ∈ leaseCtxs s l) : (stopUnits s l st).ctx k = (s.ctx k).freeze := by
  rw [stopUnits, State.modLease, State.setLease_ctx, modLeaseTiles, foldl_modTile_frame]
  exact (foldl_modCtx_ctx Ctx.freeze_freeze _ s k).trans (if_pos h)

end

/-- R365: a fault freezes the region of a running lease that no work is in progress on, writes its record and stands with the lease. -/
theorem lateFault_running {s : State} {r : FRec} (hrun : (s.lease r.lease).st = .running) (hwork : (s.lease r.lease).work = none) :
    let u := stopUnits s r.lease .frozen
    lateFault s r = (writeFRec u r).modLease r.lease (fun l => { l with faults := l.faults ++ [r.fault u .region] }) := by
  intro u
  have hfreeze : freezeRegion s r.lease = u := by
    simp only [freezeRegion, hrun, hwork]
    rfl
  have hstopped : (u.lease r.lease).st = .frozen := by rw [stopUnits_lease]
  have hnone : ¬ (s.lease r.lease).st = .none := by rw [hrun]; decide
  have hstopping : ¬ (s.lease r.lease).stopping = true := by rw [Lease.stopping, hrun]; decide
  have hmoving : ¬ (u.lease r.lease).st = .moving := by rw [hstopped]; decide
  rw [lateFault, if_neg hnone, if_neg hstopping, hfreeze, openFault, if_neg hmoving]

/-- What such a fault of a READY context of the lease leaves. -/
theorem lateFault_freezes {s : State} {r : FRec} {k : Nat} (hrun : (s.lease r.lease).st = .running)
    (hwork : (s.lease r.lease).work = none) (hlease : (s.ctx k).lease = r.lease) (hst : (s.ctx k).st = .ready) :
    let t := lateFault s r
    t.cur = s.cur ∧ t.mem = s.mem ∧ t.ctx k = { s.ctx k with st := .frozen, thaw := .ready } ∧ (t.lease r.lease).st = .frozen
    ∧ ∃ f, (t.lease r.lease).faults = (s.lease r.lease).faults ++ [f] ∧ f.code = r.code ∧ f.level = r.level ∧ f.replied = false := by
  intro t
  have hrec := writeFRec_frame (stopUnits s r.lease .frozen) r
  have heq : t = _ := lateFault_running hrun hwork
  have hk : k ∈ leaseCtxs s r.lease := hlease ▸ mem_leaseCtxs (by rw [hst]; decide)
  have hfrozen : (s.ctx k).freeze = { s.ctx k with st := .frozen, thaw := .ready } := by simp only [Ctx.freeze, hst]
  have hself : t.lease r.lease = { (stopUnits s r.lease .frozen).lease r.lease with
      faults := (s.lease r.lease).faults ++ [r.fault (stopUnits s r.lease .frozen) .region] } := by
    rw [heq, State.modLease, State.setLease_lease_self, hrec.lease_eq, stopUnits_lease]
  refine ⟨?_, ?_, ?_, ?_, r.fault (stopUnits s r.lease .frozen) .region, ?_, rfl, rfl, rfl⟩
  · rw [heq, State.modLease, State.setLease_cur, hrec.cur_eq, stopUnits_frame]
  · rw [heq, State.modLease, State.setLease_mem, hrec.mem_eq, stopUnits_frame]
  · rw [heq, State.modLease, State.setLease_ctx, hrec.ctx_eq, stopUnits_ctx s _ _ hk, hfrozen]
  · rw [hself, stopUnits_lease]
  · rw [hself]

/-- R153: the same of the fault of a context. -/
theorem freezeCtx_freezes {s : State} {k : Nat} (code level va : Nat) (hrun : (s.lease (s.ctx k).lease).st = .running)
    (hwork : (s.lease (s.ctx k).lease).work = none) (hst : (s.ctx k).st = .ready) :
    let t := freezeCtx s k code level va
    t.cur = s.cur ∧ t.mem = s.mem ∧ t.ctx k = { s.ctx k with st := .frozen, thaw := .ready }
    ∧ (t.lease (s.ctx k).lease).st = .frozen
    ∧ ∃ f, (t.lease (s.ctx k).lease).faults = (s.lease (s.ctx k).lease).faults ++ [f] ∧ f.code = code ∧ f.level = level
        ∧ f.replied = false :=
  lateFault_freezes (r := ctxRec s k code level va) hrun hwork rfl hst

end Sys2Proof.Machine
end

section
/-! # Loads and stores that freeze their region, and all together (05 R141, R153) -/

namespace Sys2Proof
open Sys2Proof.Machine

/-- R153, R365: a fault of the reseller's or the owner's translation freezes the context at its instruction, and its region, and stands
with the lease until its reply. -/
theorem accFault_freezes {s : State} {code : Nat} (va : Nat) (hi : Issues s) (hcode : code = 0x05 ∨ code = 0x06)
    (hrun : (s.lease s.cc.lease).st = .running) (hwork : (s.lease s.cc.lease).work = none) :
    let t := accFault s s.cur.ctx code va
    t.cc = { s.cc with st := .frozen, thaw := .ready } ∧ (t.lease s.cc.lease).st = .frozen ∧ t.mem = s.mem
      ∧ ∃ f, (t.lease s.cc.lease).faults = (s.lease s.cc.lease).faults ++ [f] ∧ f.code = code
          ∧ f.level = (if code = 0x05 then 1 else 0) ∧ f.replied = false := by
  intro t
  obtain ⟨hst, hb, -, -, -⟩ := hi
  have hlevel : codeLevel code = if code = 0x05 then 1 else 0 := by rcases hcode with rfl | rfl <;> rfl
  have htag : code ≠ 0x08 := by omega
  have hown : ¬ codeLevel code = 2 := by rw [hlevel]; split <;> decide
  have hcc : (s.modC (fun c => { c with busy := none })).ctx s.cur.ctx = s.cc :=
    (cc_modC s _).trans (by rw [← hb])
  have heq : t = freezeCtx (s.modC (fun c => { c with busy := none })) s.cur.ctx code (codeLevel code) va := by
    show accFault s s.cur.ctx code va = _
    rw [accFault, if_neg htag, faultVa, fault, if_neg hown]
    rfl
  obtain ⟨hcur, hmem, hctx, hfrozen, hfault⟩ := freezeCtx_freezes (s := s.modC (fun c => { c with busy := none }))
    (k := s.cur.ctx) code (codeLevel code) va (hcc.symm ▸ hrun) (hcc.symm ▸ hwork) (hcc.symm ▸ hst)
  rw [hcc, ← heq] at hctx hfrozen hfault
  rw [← heq] at hcur hmem
  exact ⟨(cc_of_cur hcur).trans hctx, hfrozen, hmem, hlevel ▸ hfault⟩

/-- Settles O14: every form is an access, whose checks either trap, or, where the translation fails at another level, freeze; a store
that passes them finds its pool empty. -/
theorem accessChecksTrap : Obligations.AccessChecksTrap := by
  unfold Obligations.AccessChecksTrap
  rintro s d r im va hi rfl
  intro loads stores
  have hloads (i : Instr) (w : Nat) (h : (i, w) ∈ loads) := loadForms_accesses s h
  have hstores (i : Instr) (w : Nat) (h : (i, w) ∈ stores) := storeForms_accesses s h
  have haccess (i : Instr) (w : Nat) (h : (i, w) ∈ loads ++ stores) :
      ∃ need, Accesses i s (s.cc.ra r + im.signExtend 80).toNat w need :=
    (List.mem_append.1 h).elim (fun h => ⟨_, hloads i w h⟩) (fun h => ⟨_, hstores i w h⟩)
  refine ⟨fun ht i w h hal => ?_, ?_, fun ht i w h s1 e pa hreach _ hphased hcur hpool => ?_,
    fun i w h hal code hcode htr hrun hwork => ?_⟩
  · obtain ⟨need, ha⟩ := haccess i w h
    exact enters_of_accFault hi ht rfl (ha.misaligned hal)
  · rintro i w need (⟨h, rfl⟩ | ⟨h, rfl⟩)
    · exact (hloads i w h).refuses hi
    · exact (hstores i w h).refuses hi
  · obtain ⟨v, hexec⟩ := storeForms_stores s h
    exact store_noPool_faults hexec hi ht hreach hphased hcur hpool
  · obtain ⟨need, ha⟩ := haccess i w h
    exact ⟨_, ha.untranslated hal htr, accFault_freezes _ hi hcode hrun hwork⟩

end Sys2Proof
end
